-- ==== Sys2Proof/Word.lean ====
section
/-! DEFINITION. The word types of the CWM-460: station time, beats, tags, masters and sets of masters. -/

namespace Sys2Proof

/-- Station time, a 32-bit count of milliseconds that wraps (00 section 4.4, R37). -/
abbrev Time := BitVec 32

/-- The eight data bytes of one beat, byte 0 in bits 0 to 7 (00 section 4.5, R173). -/
abbrev Beat := BitVec 64

/-- The 16-bit tag of a command (R20). -/
abbrev Tag := BitVec 16

/-- The number of a bus master as a request carries it: 0 to 14, and 15 which belongs to no mask (R1). -/
abbrev Master := BitVec 4

/-- A set of masters as a 16-bit field, member k at bit k (R173). -/
abbrev MasterSet := BitVec 16

/-- The identity of a schedule entry; 0 is the default entry (R115). -/
abbrev EntryId := BitVec 16

/-- A set of hold reasons, member k at bit k (R173, 11 section 11.8). -/
abbrev ReasonSet := BitVec 5

end Sys2Proof
end

