-- ==== Sys2Proof/Syntax.lean ====
section
/-! DEFINITION. The commands of the block: one constructor of `Instr` for each row of spec/opcode_table.json, in the
table's order. A row carries operands only where something from outside the part comes with the event; a row that takes
work held in the part (the head of the command queue, a handed beat, an offered firing) finds its operands in State. -/

namespace Sys2Proof

/-- One beat of a write: eight bytes and one enable per byte (01 section 1.1). -/
structure WBeat where
  data : Beat
  enables : BitVec 8
  deriving DecidableEq, Repr

/-- The direction of a request, with the length of a read or the beats of a write (01 section 1.1). -/
inductive Access where
  | read (len : Nat)
  | write (beats : List WBeat)
  deriving DecidableEq, Repr

/-- A burst as a bus master makes it at the system port (01 section 1.1). -/
structure Request where
  master : Master
  addr : Nat
  access : Access
  deriving DecidableEq, Repr

/-- The two histogram banks (R90). -/
inductive Bank where
  | a
  | b
  deriving DecidableEq, Repr

/-- A set of the five blocks that take ticks (R37). In TICK and REF_CLK_EDGE it names the blocks that take this tick in an
event of their own after the step (log 4). -/
structure TickSet where
  ao : Bool
  ag : Bool
  ca : Bool
  su : Bool
  ru : Bool
  deriving DecidableEq, Repr

/-- No block. -/
def TickSet.none : TickSet := ⟨false, false, false, false, false⟩

/-- One constructor per row of spec/opcode_table.json. -/
inductive Instr where
  | lineReset
  | resetNRelease (straps : BitVec 8)
  | passThroughRequest (r : Request)
  | answerReturn (master : Master)
  | memoryPortIssue
  | memoryPortCompletion (id : Nat) (data : List Beat)
  | ownWriteOffer
  | ownWriteCompletion
  | controlPageBeat
  | setMode
  | setTime
  | setPrescale
  | controlMask
  | readIndex
  | flagEnableSet
  | flagEnableClear
  | ackFlags
  | cancelFrom
  | replayCue
  | holdPolicy
  | layoutOverrideSet
  | layoutOverrideClear
  | activitySet
  | defaultEntryLoudness
  | defaultEntryCaption
  | defaultEntryDeadAir
  | lineForce
  | restart
  | hold
  | releaseHold
  | exportRequest
  | exportDone
  | cueSet
  | window
  | entry
  | filter
  | tick (cueHigh : Bool) (later : TickSet)
  | cue
  | startCompare
  | stall
  | deadAir
  | captionGap
  | imageDue
  | descriptorBeat
  | sampleWord
  | subBlockCompletion
  | captionBeat
  | scanCompletion (bank : Bank)
  | layRecord
  | statusImageCompose
  | refClkEdge (cueHigh : Bool) (later : TickSet)
  deriving DecidableEq, Repr

/-- The number of beats of a request. -/
def Access.length : Access → Nat
  | .read n => n
  | .write bs => bs.length

/-- A request is a write. -/
def Access.isWrite : Access → Bool
  | .read _ => false
  | .write _ => true

end Sys2Proof
end

