-- ==== Sys2Proof/Decode.lean ====
section
/-! DEFINITION. The command that a word spells. -/

namespace Sys2Proof

/-- No row of spec/opcode_table.json gives bits, so no word spells a command (log 32). The beats in which software writes
commands are read by `Machine.controlBeatEvent` (R18 to R22). -/
def decodeTableWord (_nbits _w : Nat) : Option Instr := none

end Sys2Proof
end

