-- ==== Sys2Proof/Config.lean ====
section
/-! DEFINITION. What the part fixes once (depths, limits, times) and the values the spec leaves open. -/

namespace Sys2Proof.Config

/-- Items the command queue holds (R23). -/
def commandQueueDepth : Nat := 4

/-- Own writes the own-write queue holds (R14). -/
def ownWriteDepth : Nat := 8

/-- Records the report queue holds (R159). -/
def reportQueueDepth : Nat := 16

/-- Entries the pending queue holds (R114). -/
def pendingDepth : Nat := 32

/-- Least spacing of two pending starts, in ms (R116). -/
def entrySpacing : Int := 1000

/-- Energies the sub-block history holds, and the blocks of a short-term block (R50, R63). -/
def historyDepth : Nat := 30

/-- Sub-blocks of a momentary block (R63). -/
def momentaryBlocks : Nat := 4

/-- Frames of a sub-block (R60). -/
def subBlockFrames : Nat := 4800

/-- Ticks without an accepted word that stall a stream (R61). -/
def stallTicks : Nat := 500

/-- Largest value of the dead-air timer, the gap timer, active ms and covered ms (R86, R98, R107). -/
def timerCap : Nat := 2147483647

/-- Largest count of one bin of a bank (R90). -/
def binCap : Nat := 16777215

/-- The part's address space ends here (00 section 4.5). -/
def addressEnd : Nat := 2 ^ 36

/-- FREE VALUE (log 12). The byte written for the coding NONE: the spec gives it no code of its own (R54, R175, R176). -/
opaque codingNone : BitVec 8

/-- FREE VALUE (log 12). The byte written for the rate OTHER: the spec gives it no code of its own (R54, R175, R176). -/
opaque rateOther : BitVec 8

/-- FREE VALUE (log 39). What a caption record holds as the decoder time when the unit has none: the spec writes that byte 19
says so and gives the four bytes no value (R106, R175). -/
opaque absentStamp : BitVec 32

end Sys2Proof.Config
end

