-- ==== Sys2Proof/Machine/State.lean ====
section
/-! DEFINITION. The state of the CWM-460, block by block as 00 section 2.1 lists them, and its value after reset. -/

namespace Sys2Proof.Machine

/-! ### Command unit and time base -/

/-- The mode of the part (R29). -/
inductive Mode where
  | off
  | live
  | replay
  deriving DecidableEq, Repr

/-- The commands of the control page's slots and the three staging areas (11 section 11.2). -/
inductive CmdKind where
  | setMode | setTime | setPrescale | controlMask | readIndex | flagEnableSet | flagEnableClear | ackFlags
  | cancelFrom | replayCue | holdPolicy | layoutOverride | activitySet | defaultEntry | lineForce | restart
  | hold | releaseHold | exportRequest | exportDone | cueSet | window | entry | filter
  deriving DecidableEq, Repr

/-- The refusal reasons of a command, in the order of their codes (R27, 11 section 11.8). -/
inductive Reason where
  | badValue | badDescriptor | overlap | busyLive | holdsPresent | noReport | modeSequence | order | duplicateId
  | queueFull | notPending | privilege | badSegment | segmentState | holdLimit | exportPending | badIndex
  | commandOverflow | partialBeat
  deriving DecidableEq, Repr

/-- A control-page beat as the memory path hands it to the command unit (R8). -/
structure CtlBeat where
  offset : Nat
  beat : WBeat
  master : Master
  deriving DecidableEq, Repr

/-- A command or staged command in the command queue (R20, R22). `words` holds the area's shadows of a staged command. -/
structure CmdItem where
  kind : CmdKind
  tag : Tag
  arg : BitVec 48
  words : List Beat
  master : Master
  deriving DecidableEq, Repr

/-- The command unit (02). `beats` are the beats handed and not yet taken (R35). -/
structure CmdUnit where
  beats : List CtlBeat
  queue : List CmdItem
  windowShadow : Vector Beat 4
  entryShadow : Vector Beat 8
  filterShadow : Vector Beat 6
  controlMask : MasterSet
  mode : Mode
  deriving DecidableEq, Repr

/-- The TALLY force (R48). -/
inductive Force where
  | function
  | off
  | on
  deriving DecidableEq, Repr

/-- The time base (03). The last four fields are the model's own: what the time base has offered and its taker has not
taken yet (log 4, log 5). -/
structure TimeBase where
  time : Time
  prescale : Nat
  divisor : Nat
  residue : Nat
  compare : Option Time
  cueLevel : Option Bool
  cueRun : Nat
  cueStart : Option Time
  cueQ : Nat
  earlyWindow : Nat
  force : Force
  firing : Option Time
  cues : List Time
  owed : TickSet
  frameTick : Bool
  deriving DecidableEq, Repr

/-! ### Memory path -/

/-- The kinds of window (R3). -/
inductive WindowKind where
  | audio | caption | record | report | guard
  deriving DecidableEq, Repr

/-- A window descriptor as it is installed (R3, R4). The base is `basePage` × 4096. -/
structure Window where
  kind : WindowKind
  basePage : Nat
  pages : Nat
  feeding : Master
  writeMask : MasterSet
  readMask : MasterSet
  archiveMask : MasterSet
  segCount : Nat
  segSize : Nat
  deriving DecidableEq, Repr

/-- A write of the part's own (R14). `id` is the model's number for it, which held reads name. -/
structure OwnWrite where
  id : Nat
  addr : Nat
  beats : List Beat
  deriving DecidableEq, Repr

/-- What a master receives for a request (R1). -/
inductive Answer where
  | ack
  | data (beats : List Beat)
  deriving DecidableEq, Repr

/-- How far a request taken at the system port has come. `held on` is a read in the read-hold list with the overlapped own
writes it still waits for (R16). `behind on` is a read that overlaps own writes too and was taken behind another such read
of its master: it is not in the list, and it keeps its place among its master's requests (R16, log 16). `answered` waits for
its turn to be returned (R1). -/
inductive Progress where
  | waiting
  | held (on : List Nat)
  | behind (on : List Nat)
  | issued
  | answered (a : Answer)
  deriving DecidableEq, Repr

/-- A request taken and not yet answered (R1). `id` is the model's number for it. -/
structure Txn where
  id : Nat
  req : Request
  progress : Progress
  deriving DecidableEq, Repr

/-- The last grant of the memory-port arbiter (R15). -/
inductive Grant where
  | own
  | pass
  deriving DecidableEq, Repr

/-- What the memory port carries at an issue: a forwarded request or an own write, each under its number with the master,
the address, the beats and the byte enables that go out (R2). -/
inductive PortIssue where
  | pass (id : Nat) (r : Request)
  | own (id : Nat) (r : Request)
  deriving DecidableEq, Repr

/-- The memory path (01). Indices 0 to 7 of the counts are the slots and 8 is the control page (R13). The last four
fields are the model's own: the numbers it gives, and what the ports showed last (log 15). -/
structure MemPath where
  slots : Vector (Option Window) 8
  ctlBase : Nat
  blocked : Vector (BitVec 32) 9
  lastReport : Vector (Option Time) 9
  ownQueue : List OwnWrite
  ownIssued : Bool
  txns : List Txn
  released : List Nat
  lastGrant : Grant
  nextTxn : Nat
  nextOwn : Nat
  sysOut : Option (Master × Answer)
  memOut : Option PortIssue
  deriving DecidableEq, Repr

/-! ### Audio observer, loudness unit, activity and gating unit -/

/-- The engine state (R50). -/
inductive Engine where
  | idle | measuring | unmeasurable | stalled
  deriving DecidableEq, Repr

/-- The coding of a stream (R54). -/
inductive Coding where
  | none | pcm | compressed
  deriving DecidableEq, Repr

/-- The sample rate code of a stream (R54). -/
inductive Rate where
  | r32000 | r44100 | r48000 | other
  deriving DecidableEq, Repr

/-- The role of a channel (R54). -/
inductive Role where
  | l | r | c | lfe | ls | rs | other
  deriving DecidableEq, Repr

/-- A taken stream descriptor (R54). -/
structure Descriptor where
  coding : Coding
  rate : Rate
  channels : Nat
  roles : Vector Role 8
  generation : BitVec 16
  deriving DecidableEq, Repr

/-- The state of one weighting stage, in units of 2^−31 (R66, R67). -/
structure StageState where
  x1 : Int
  x2 : Int
  y1 : Int
  y2 : Int
  deriving DecidableEq, Repr

/-- The filter state of one channel (R66). -/
structure ChannelFilter where
  stage1 : StageState
  stage2 : StageState
  deriving DecidableEq, Repr

/-- The sub-block in progress (R50). Energies are in units of 2^−62 (R71). A frame count of 4800 marks a sub-block whose
last word has been taken and whose completion is the next thing to happen (R63, log 5). -/
structure SubBlock where
  frames : Nat
  energy : Vector Nat 8
  peak : Vector Nat 8
  deriving DecidableEq, Repr

/-- What the memory path hands the audio observer: a beat of the descriptor area, or a presented word with its four
enables (R52). -/
inductive AudioItem where
  | descriptor (offset : Nat) (beat : WBeat)
  | word (offset : Nat) (data : BitVec 32) (enables : BitVec 4)
  deriving DecidableEq, Repr

/-- The audio observer (04). History energies are weighted sums in thousandths of 2^−62 (R71). `inbox` is the model's own:
beats and words handed and not yet taken (log 6). -/
structure AudioObs where
  shadow : Vector Beat 8
  taken : Option Descriptor
  engine : Engine
  expected : Option Nat
  channel : Nat
  stallCount : Nat
  filters : Vector ChannelFilter 8
  sub : Option SubBlock
  history : List Nat
  inbox : List AudioItem
  deriving DecidableEq, Repr

/-- The five coefficients of a stage, in units of 2^−30 (R67, R68). -/
structure StageCoeffs where
  b0 : BitVec 32
  b1 : BitVec 32
  b2 : BitVec 32
  a1 : BitVec 32
  a2 : BitVec 32
  deriving DecidableEq, Repr

/-- The loudness unit (05) with the layout overrides of R65. Levels are in tenths. -/
structure Loudness where
  stage1 : StageCoeffs
  stage2 : StageCoeffs
  calibration : Int
  momentary : Option Int
  shortTerm : Option Int
  overrides : Vector (Option Nat) 8
  deriving DecidableEq, Repr

/-- The state of a histogram bank (R90). -/
inductive BankState where
  | free | collecting | scanning
  deriving DecidableEq, Repr

/-- Counts by bin, as a list of (bin, count) with rising bins and no zero count; a bin not listed counts 0 (R90). -/
abbrev Histogram := List (Nat × Nat)

/-- One histogram bank (R90). -/
structure HistBank where
  state : BankState
  counts : Histogram
  deriving DecidableEq, Repr

/-- The activity and gating unit (06). `sumS` is the energy sum S of R92 held exactly, as the formal sum of
10^((b − 699)/100) over its listed bins b with their counts (log 27). -/
structure Activity where
  active : Bool
  onCount : Nat
  offCount : Nat
  quietStart : Option Time
  tOn : Int
  tOff : Int
  qOn : Nat
  qOff : Nat
  deadTimer : Nat
  bankA : HistBank
  bankB : HistBank
  sumN : Nat
  sumS : Histogram
  deriving DecidableEq, Repr

/-! ### Caption unit -/

/-- The kind of a caption record (07 section 7.1). -/
inductive CaptionKind where
  | text | clear | style
  deriving DecidableEq, Repr

/-- The unit in progress of the caption assembler (R98). -/
structure UnitShadow where
  header : Nat
  length : Nat
  kind : CaptionKind
  service : Nat
  chars : Nat
  decoderTime : Option (BitVec 32)
  collected : Nat
  deriving DecidableEq, Repr

/-- A beat of the CAPTION window with its offset (R12). -/
structure CaptionBeat where
  offset : Nat
  beat : WBeat
  deriving DecidableEq, Repr

/-- The caption unit (07). The assembler is COLLECTING exactly while a unit is in progress, and the expected address is
then the offset of the beat that continues it (R98). `inbox` is the model's own (log 6). -/
structure Caption where
  collecting : Bool
  shadow : Option UnitShadow
  expected : Option Nat
  gapTimer : Nat
  lastQualifying : Option Time
  windowPresent : Bool
  inbox : List CaptionBeat
  deriving DecidableEq, Repr

/-! ### Schedule unit -/

/-- The class of an entry (R115). -/
inductive EntryClass where
  | programme | advert | promo | live
  deriving DecidableEq, Repr

/-- A schedule entry (R115). Levels are in tenths; `required` is the caption obligation. -/
structure Entry where
  id : EntryId
  cls : EntryClass
  start : Time
  target : Int
  tolerance : Nat
  margin : Nat
  required : Bool
  service : Nat
  gapLimit : Nat
  permille : Nat
  deadAirLimit : Nat
  lateCommit : Bool
  deriving DecidableEq, Repr

/-- The cause of an opening (R125). -/
inductive Cause where
  | start | compare | cue | lateCommit
  deriving DecidableEq, Repr

/-- The open-entry record (R127). -/
structure OpenEntry where
  entry : Entry
  actualStart : Time
  cause : Cause
  cuedEarly : Bool
  replay : Bool
  bank : Option Bank
  subBlocks : BitVec 32
  measuredMs : BitVec 32
  unmeasuredMs : BitVec 32
  evidenceIncomplete : Bool
  discontinuities : BitVec 16
  saturations : BitVec 32
  peaks : Vector Nat 8
  maxMomentary : Option Int
  maxShortTerm : Option Int
  overMark : Bool
  overCount : BitVec 16
  deadAirCount : BitVec 16
  missed : BitVec 32
  isPartial : Bool
  captionPresent : Bool
  activeMs : Nat
  coveredMs : Nat
  unitCount : BitVec 16
  otherService : BitVec 16
  gapCount : BitVec 16
  tornCount : BitVec 16
  tornMark : Bool
  malformed : BitVec 16
  deriving DecidableEq, Repr

/-- A closed record: the open-entry record as it was moved, with its end, its duration and ABORTED (R129). -/
structure ClosedEntry where
  record : OpenEntry
  actualEnd : Time
  duration : Nat
  aborted : Bool
  deriving DecidableEq, Repr

/-- How long a scan may still take (R94, log 8): ticks after its close, or edges of REF_CLK for a scan begun in REPLAY. -/
inductive ScanLeft where
  | ticks (n : Nat)
  | edges (n : Nat)
  deriving DecidableEq, Repr

/-- An occupied closing slot (R129). -/
structure ClosingSlot where
  closed : ClosedEntry
  left : ScanLeft
  deriving DecidableEq, Repr

/-- The default entry parameters (R119). -/
structure DefaultEntry where
  target : Int
  tolerance : Nat
  margin : Nat
  required : Bool
  service : Nat
  gapLimit : Nat
  permille : Nat
  deadAirLimit : Nat
  deriving DecidableEq, Repr

/-- The schedule unit (08). The two closing slots are named by the bank whose scan their record waits for: a slot is
occupied exactly while its bank is SCANNING (R129). The hold policy is one reason set per class, in code order (R120). -/
structure Schedule where
  queue : List Entry
  openEntry : Option OpenEntry
  slotA : Option ClosingSlot
  slotB : Option ClosingSlot
  defaults : DefaultEntry
  policy : Vector (BitVec 4) 4
  strayCues : BitVec 32
  deriving DecidableEq, Repr

/-! ### Recorder -/

/-- The state of a segment (R137). -/
inductive SegState where
  | free | filling | closed | held | exporting
  deriving DecidableEq, Repr

/-- A segment record (R137). `beforeExportHeld` is present only while the segment is EXPORT: true for HELD. -/
structure Segment where
  index : Nat
  state : SegState
  start : Option Time
  finish : Option Time
  bytes : BitVec 32
  blocked : BitVec 32
  blockedMark : Bool
  reasons : ReasonSet
  entries : List EntryId
  more : Bool
  maxShortTerm : Option Int
  beforeExportHeld : Option Bool
  deriving DecidableEq, Repr

/-- The pending export (R136, R153). -/
structure PendingExport where
  segment : Nat
  tag : Tag
  master : Master
  deriving DecidableEq, Repr

/-- The recorder (09). The table lists the N records in index order; it is empty while no RECORD window is installed
(N is at least 4, R4). -/
structure Recorder where
  table : List Segment
  pendingExport : Option PendingExport
  deriving DecidableEq, Repr

/-! ### Report unit -/

/-- The thirteen flags, in bit order (11 section 11.8). -/
inductive Flag where
  | verdictFail | holdPlaced | holdDenied | captionGap | shortTermOver | deadAir | audioState | exportGranted
  | recordBlocked | accessBlocked | commandRefused | reportsLost | ringHigh
  deriving DecidableEq, Repr

/-- The loudness outcome (R132). -/
inductive LoudnessOutcome where
  | undetermined | pass | failHigh | failLow
  deriving DecidableEq, Repr

/-- The short-term and dead-air outcomes (R133). -/
inductive CheckOutcome where
  | notChecked | pass | fail
  deriving DecidableEq, Repr

/-- The caption outcome (R113). -/
inductive CaptionOutcome where
  | notRequired | unchecked | pass | fail
  deriving DecidableEq, Repr

/-- A verdict (R134). -/
structure Verdict where
  closed : ClosedEntry
  integrated : Option Int
  ungated : Option Int
  samplePeak : Option Int
  peakChannel : Nat
  coverage : Nat
  loudness : LoudnessOutcome
  shortTerm : CheckOutcome
  caption : CaptionOutcome
  deadAir : CheckOutcome
  deriving DecidableEq, Repr

/-- The reason of a blocked access (R13). -/
inductive BlockReason where
  | crossing | controlMask | readMask | writeMask | reportWrite
  deriving DecidableEq, Repr

/-- The cause of an AUDIO_STATE record (R56). -/
inductive AudioCause where
  | descriptor | stall | resume
  deriving DecidableEq, Repr

/-- A hold reason (R137, 11 section 11.8). -/
inductive HoldReason where
  | loudness | shortTerm | caption | deadAir | manual
  deriving DecidableEq, Repr

/-- A hold request (R145): the reason, the interval and the entry it is made for. -/
structure HoldRequest where
  reason : HoldReason
  start : Time
  finish : Time
  id : EntryId
  deriving DecidableEq, Repr

/-- A report record as its producer offers it: the kind and the payload fields (R158, R175). -/
inductive Report where
  /-- COMMAND_DONE (R27). -/
  | commandDone (tag : Tag) (code : Nat) (master : Master) (offset : Nat) (count : Nat)
  /-- COMMAND_REFUSED (R27). -/
  | commandRefused (tag : Tag) (code : Nat) (master : Master) (offset : Nat) (reason : Reason)
  /-- ENTRY_OPENED (R126): the new record, its scheduled start, the id closed and the entries left. -/
  | entryOpened (e : OpenEntry) (scheduled : Time) (closed : Option EntryId) (left : Nat)
  /-- VERDICT (R134). -/
  | verdict (v : Verdict)
  /-- SHORT_TERM_OVER (R80). -/
  | shortTermOver (id : EntryId) (level ceiling : Int) (time : Time)
  /-- CAPTION_GAP (R108). -/
  | captionGap (id : EntryId) (service : Nat) (gapStart : Time) (limit : Nat) (time : Time)
  /-- CAPTION_GAP_END (R110). -/
  | captionGapEnd (id : EntryId) (gapStart : Time) (length : Nat) (time : Time) (decoderTime : BitVec 32)
  /-- CAPTION_TORN (R106). -/
  | captionTorn (id : EntryId) (u : UnitShadow) (tearing : Nat) (time : Time)
  /-- DEAD_AIR (R87). -/
  | deadAir (id : EntryId) (quietStart : Time) (limit : Nat) (time : Time)
  /-- DEAD_AIR_END (R88). -/
  | deadAirEnd (id : EntryId) (quietStart : Time) (length : Nat) (time : Time)
  /-- AUDIO_STATE (R56). -/
  | audioState (cause : AudioCause) (before after : Engine) (d : Option Descriptor) (id : Option EntryId) (time : Time)
  /-- SEGMENT_CLOSED (R143): the record as closed, the reasons cleared and the hold count. -/
  | segmentClosed (g : Segment) (cleared : ReasonSet) (holdCount : Nat)
  /-- HOLD_PLACED (R146, R150): the record after, the reason, the request if there was one, the hold count and the
  evidence mark. -/
  | holdPlaced (g : Segment) (reason : HoldReason) (req : Option HoldRequest) (holdCount : Nat) (incomplete : Bool)
  /-- HOLD_DENIED with cause REQUEST (R146). -/
  | deniedRequest (index : Nat) (req : HoldRequest) (holdCount : Nat) (incomplete : Bool)
  /-- HOLD_DENIED with cause CLOSE (R143). -/
  | deniedClose (index : Nat) (cleared : ReasonSet)
  /-- HOLD_DENIED with cause EXPORT (R143). -/
  | deniedExport (index : Nat) (tag : Tag) (master : Master)
  /-- EXPORT_GRANTED (R152). -/
  | exportGranted (g : Segment) (tag : Tag) (master : Master) (holdCount : Nat)
  /-- RECORD_BLOCKED (R140). -/
  | recordBlocked (g : Segment) (master : Master) (addr : Nat) (time : Time) (id : Option EntryId)
  /-- ACCESS_BLOCKED (R13). -/
  | accessBlocked (index : Nat) (reason : BlockReason) (master : Master) (isWrite : Bool) (addr : Nat) (count : BitVec 32)
  /-- STRAY_CUE (R122). -/
  | strayCue (captured : Time) (head : Option (EntryId × Time)) (window : Nat) (count : BitVec 32)
  deriving DecidableEq, Repr

/-- A record in the report queue: the payload and the station time of its offer (R158). -/
structure QueuedReport where
  report : Report
  time : Time
  deriving DecidableEq, Repr

/-- The latest refusal, as the status image shows it (R27, R157). -/
structure LastRefusal where
  tag : Tag
  code : Nat
  master : Master
  reason : Reason
  deriving DecidableEq, Repr

/-- The report ring's place (R160). -/
structure Geometry where
  base : Nat
  capacity : Nat
  deriving DecidableEq, Repr

/-- A burst the report unit has yet to offer (R14, R161). -/
structure Burst where
  addr : Nat
  beats : List Beat
  deriving DecidableEq, Repr

/-- The unit in progress (R161): an image, or the record at the head of the report queue, with the bursts the memory path
has not taken yet. `lost` is the count of a LOST record whose burst is still among them (R163, R172). -/
structure UnitInProgress where
  image : Bool
  bursts : List Burst
  lost : Option (BitVec 32)
  deriving DecidableEq, Repr

/-- The report unit (10). -/
structure Reports where
  queue : List QueuedReport
  geometry : Option Geometry
  writeIndex : Nat
  readIndex : Nat
  recordNumber : BitVec 32
  lostCount : BitVec 32
  flags : BitVec 13
  enables : BitVec 13
  latch : Bool
  lastRefusal : Option LastRefusal
  imageGeneration : BitVec 32
  imageTicks : Nat
  imageDue : Bool
  current : Option UnitInProgress
  deriving DecidableEq, Repr

/-! ### The whole part -/

/-- The CWM-460: the queue of commands that are waiting, the RESET_N line, and the ten blocks of 00 section 2.1. -/
structure State where
  pending : List Instr
  resetAsserted : Bool
  mp : MemPath
  cu : CmdUnit
  tb : TimeBase
  ao : AudioObs
  lu : Loudness
  ag : Activity
  ca : Caption
  su : Schedule
  rc : Recorder
  ru : Reports
  deriving DecidableEq, Repr

/-! ### Values after line reset -/

/-- The memory path after line reset with no strap fitted (R3, R13 to R16, R177). -/
def MemPath.reset : MemPath where
  slots := Vector.replicate 8 none
  ctlBase := 0
  blocked := Vector.replicate 9 0
  lastReport := Vector.replicate 9 none
  ownQueue := []
  ownIssued := false
  txns := []
  released := []
  lastGrant := .own
  nextTxn := 0
  nextOwn := 0
  sysOut := none
  memOut := none

/-- The command unit after line reset (R35). -/
def CmdUnit.reset : CmdUnit where
  beats := []
  queue := []
  windowShadow := Vector.replicate 4 0
  entryShadow := Vector.replicate 8 0
  filterShadow := Vector.replicate 6 0
  controlMask := 0x7FFF
  mode := .off

/-- The time base after line reset (R37, R38, R39, R43, R44, R45, R48). -/
def TimeBase.reset : TimeBase where
  time := 0
  prescale := 0
  divisor := 10000
  residue := 0
  compare := none
  cueLevel := none
  cueRun := 0
  cueStart := none
  cueQ := 3
  earlyWindow := 5000
  force := .function
  firing := none
  cues := []
  owed := TickSet.none
  frameTick := false

/-- A cleared weighting stage (R66). -/
def StageState.clear : StageState := ⟨0, 0, 0, 0⟩

/-- A cleared channel (R66). -/
def ChannelFilter.clear : ChannelFilter := ⟨.clear, .clear⟩

/-- The audio observer after line reset (R50). -/
def AudioObs.reset : AudioObs where
  shadow := Vector.replicate 8 0
  taken := none
  engine := .idle
  expected := none
  channel := 0
  stallCount := 0
  filters := Vector.replicate 8 .clear
  sub := none
  history := []
  inbox := []

/-- A pass-through stage: b0 is 1 and the other coefficients 0 (R68). -/
def StageCoeffs.passThrough : StageCoeffs := ⟨0x40000000, 0, 0, 0, 0⟩

/-- The loudness unit after line reset (R65, R68, R74). -/
def Loudness.reset : Loudness where
  stage1 := .passThrough
  stage2 := .passThrough
  calibration := -7
  momentary := none
  shortTerm := none
  overrides := Vector.replicate 8 none

/-- A FREE bank with all counts 0 (R90). -/
def HistBank.cleared : HistBank := ⟨.free, []⟩

/-- The activity and gating unit after line reset (R82, R86, R90, R92). -/
def Activity.reset : Activity where
  active := false
  onCount := 0
  offCount := 0
  quietStart := none
  tOn := -500
  tOff := -600
  qOn := 5
  qOff := 5
  deadTimer := 0
  bankA := .cleared
  bankB := .cleared
  sumN := 0
  sumS := []

/-- The caption unit after line reset (R98). -/
def Caption.reset : Caption where
  collecting := false
  shadow := none
  expected := none
  gapTimer := 0
  lastQualifying := none
  windowPresent := false
  inbox := []

/-- The default entry parameters after line reset (R114). -/
def DefaultEntry.reset : DefaultEntry where
  target := -230
  tolerance := 10
  margin := 0
  required := false
  service := 1
  gapLimit := 10000
  permille := 950
  deadAirLimit := 0

/-- The schedule unit after line reset (R114). -/
def Schedule.reset : Schedule where
  queue := []
  openEntry := none
  slotA := none
  slotB := none
  defaults := .reset
  policy := Vector.replicate 4 0xF
  strayCues := 0

/-- The recorder after line reset (R136). -/
def Recorder.reset : Recorder := ⟨[], none⟩

/-- The report unit after line reset (R157). -/
def Reports.reset : Reports where
  queue := []
  geometry := none
  writeIndex := 0
  readIndex := 0
  recordNumber := 0
  lostCount := 0
  flags := 0
  enables := 0
  latch := false
  lastRefusal := none
  imageGeneration := 0
  imageTicks := 0
  imageDue := false
  current := none

/-- The part just after the release of RESET_N with no strap fitted, and no command waiting (R3, R35, R177, log 10). -/
def State.reset : State where
  pending := []
  resetAsserted := false
  mp := .reset
  cu := .reset
  tb := .reset
  ao := .reset
  lu := .reset
  ag := .reset
  ca := .reset
  su := .reset
  rc := .reset
  ru := .reset

/-! ### Reasons a step can stop -/

/-- The part has no fault: a blocked request completes normally (R11) and a refused command ends in a record (R27). -/
inductive Fault where
  deriving DecidableEq, Repr

/-- Why a command has no next state. -/
inductive Refusal where
  /-- Raised by `exec` for a row that has no meaning yet, with the row's mnemonic. Safe. -/
  | notModelled (mnemonic : String)
  /-- Raised by PASS_THROUGH_REQUEST for a request that the system port cannot carry: no burst of 1 to 32 beats aligned to
  8 bytes inside the 36-bit space (01 section 1.1). The spec gives such a request no meaning. Safe (log 13). -/
  | illFormedRequest
  /-- Raised by MEMORY_PORT_COMPLETION for a completion that names an issued request and carries another number of beats
  than it asked for (R2). The spec gives such a completion no meaning. Safe (log 14). -/
  | illFormedCompletion
  deriving DecidableEq, Repr

end Sys2Proof.Machine
end

