-- ==== Sys2Proof/Machine/Ops.lean ====
section
/-! DEFINITION. The named operations that every block shares: comparing station times, saturating counts, sets, the
histogram, and updates of one part of State. -/

namespace Sys2Proof.Machine

/-! ### Station time (R42) -/

/-- The difference a − b read as a signed 32-bit number: the d of R42. -/
def since (a b : Time) : Int := (a - b).toInt

/-- Time a is later than b (R42). -/
def later (a b : Time) : Bool := 0 < since a b

/-- Time a is earlier than b (R42). -/
def earlier (a b : Time) : Bool := since a b < 0

/-- Time a has reached b: b is not later than a. A b that lies exactly 2^31 ms ahead has been reached (R42, log 24). -/
def reached (a b : Time) : Bool := !later b a

/-- The interval [s, e] overlaps [s', e'] (R42). -/
def overlaps (s e s' e' : Time) : Bool := !later s' e && !later s e'

/-- The later of two times (R42). -/
def latest (a b : Time) : Time := if later a b then a else b

/-! ### Counts -/

/-- A count of a fixed width that stays at its largest value. -/
def satAdd {n : Nat} (x : BitVec n) (k : Nat) : BitVec n :=
  if x.toNat + k < 2 ^ n then x + BitVec.ofNat n k else BitVec.allOnes n

/-- A count that stays at `cap`. -/
def capInc (cap n : Nat) : Nat := if n < cap then n + 1 else n

/-! ### Sets of masters -/

/-- A master belongs to a set; number 15 belongs to none (R1). -/
def inSet (m : Master) (set : MasterSet) : Bool := m != 15 && set.getLsbD m.toNat

/-- A field names master 15, whose bit no mask may hold (R4, R28). -/
def namesMaster15 (set : MasterSet) : Bool := set.getLsbD 15

/-! ### Histogram (R89, R90) -/

/-- The count of one bin. -/
def binCount : Histogram → Nat → Nat
  | [], _ => 0
  | (b, n) :: rest, bin => if b = bin then n else binCount rest bin

/-- Adds 1 to one bin. -/
def binAdd : Histogram → Nat → Histogram
  | [], bin => [(bin, 1)]
  | (b, n) :: rest, bin =>
    if bin < b then (bin, 1) :: (b, n) :: rest
    else if bin = b then (b, n + 1) :: rest
    else (b, n) :: binAdd rest bin

/-- The sum of the counts. -/
def binTotal (h : Histogram) : Nat := (h.map (·.2)).sum

/-! ### Lists -/

/-- Places x before the first element it is to come before. -/
def insertBy {α : Type} (before : α → α → Bool) (x : α) : List α → List α
  | [] => [x]
  | y :: ys => if before x y then x :: y :: ys else y :: insertBy before x ys

/-- Sorts by `before`, keeping the order of elements that neither comes before. -/
def sortBy {α : Type} (before : α → α → Bool) : List α → List α
  | [] => []
  | x :: xs => insertBy before x (sortBy before xs)

/-! ### Parts of State -/

/-- An update of the open-entry record, if an entry is open. -/
def modifyOpen (f : OpenEntry → OpenEntry) (s : State) : State :=
  { s with su := { s.su with openEntry := s.su.openEntry.map f } }

/-- The id of the open entry, if one is open. -/
def openId (s : State) : Option EntryId := s.su.openEntry.map (·.entry.id)

/-- The part is observing: LIVE or REPLAY. -/
def observing (s : State) : Bool := s.cu.mode != .off

/-- The window of one kind, if one is installed. -/
def windowOf (k : WindowKind) (mp : MemPath) : Option Window :=
  mp.slots.toList.findSome? fun w => w.bind fun w => if w.kind = k then some w else none

/-- The archive mask in force: that of the RECORD window, or empty (R26). -/
def archiveMask (mp : MemPath) : MasterSet := ((windowOf .record mp).map (·.archiveMask)).getD 0

/-- A bank by its name. -/
def bankOf (ag : Activity) : Bank → HistBank
  | .a => ag.bankA
  | .b => ag.bankB

/-- Replaces a bank. -/
def setBank (bank : Bank) (h : HistBank) (ag : Activity) : Activity :=
  match bank with
  | .a => { ag with bankA := h }
  | .b => { ag with bankB := h }

/-- The closing slot that holds the record whose bank is scanned. -/
def slotOf (su : Schedule) : Bank → Option ClosingSlot
  | .a => su.slotA
  | .b => su.slotB

/-- Replaces the content of a closing slot. -/
def setSlot (bank : Bank) (c : Option ClosingSlot) (su : Schedule) : Schedule :=
  match bank with
  | .a => { su with slotA := c }
  | .b => { su with slotB := c }

end Sys2Proof.Machine
end

