-- ==== Sys2Proof/Machine/Operands.lean ====
section
/-! DEFINITION. The fields the part reads from words and the codes it reads and writes (11 Formats and Layouts). -/

namespace Sys2Proof.Machine

/-! ### Fields of words (R173, R174) -/

/-- A field of a command's 48-bit argument, from bit `lo` (R174). -/
def argField (arg : BitVec 48) (lo width : Nat) : Nat := arg.toNat / 2 ^ lo % 2 ^ width

/-- A field of `bytes` bytes of a beat, from byte `at_`, little-endian (R173). -/
def byteField (w : Beat) (at_ bytes : Nat) : Nat := w.toNat / 256 ^ at_ % 256 ^ bytes

/-- A field of `width` bits read as two's complement (R173). -/
def signedField (width n : Nat) : Int := (BitVec.ofNat width n).toInt

/-- A level or peak as it is written: a signed 16-bit count of tenths, −32,768 for none (R173). -/
def levelField : Option Int → Nat
  | none => 0x8000
  | some l => (BitVec.ofInt 16 l).toNat

/-- A 4-byte entry id as it is written: 0xFFFFFFFF for none (R173). -/
def idField : Option EntryId → Nat
  | none => 0xFFFFFFFF
  | some i => i.toNat

/-- A Bool as a bit. -/
def bit (b : Bool) : Nat := if b then 1 else 0

/-- The number of enabled bytes of a beat. -/
def enabledBytes (e : BitVec 8) : Nat := (List.range 8).countP (e.getLsbD ·)

/-- The data of a beat with its enabled bytes taken from `new` and the others from `old` (R53). -/
def mergeBytes (old new : Beat) (enables : BitVec 8) : Beat :=
  (List.range 8).foldl (init := old) fun acc k =>
    if enables.getLsbD k then (acc &&& ~~~(0xFF#64 <<< (8 * k))) ||| (new &&& (0xFF#64 <<< (8 * k))) else acc

/-! ### Codes the part reads (11 section 11.2 to 11.5) -/

/-- The mode named by a code (11 section 11.8). -/
def modeOfCode : Nat → Option Mode
  | 0 => some .off
  | 1 => some .live
  | 2 => some .replay
  | _ => none

/-- The class named by a code (11 section 11.8). -/
def classOfCode : Nat → Option EntryClass
  | 0 => some .programme
  | 1 => some .advert
  | 2 => some .promo
  | 3 => some .live
  | _ => none

/-- The obligation named by a code: REQUIRED or not (11 section 11.8). -/
def obligationOfCode : Nat → Option Bool
  | 0 => some false
  | 1 => some true
  | _ => none

/-- The TALLY force named by a code (R174). -/
def forceOfCode : Nat → Option Force
  | 0 => some .function
  | 1 => some .off
  | 2 => some .on
  | _ => none

/-- The window kind named by a code; `none` for a code that names neither a kind nor empty (11 section 11.3). -/
def kindOfCode : Nat → Option (Option WindowKind)
  | 0 => some none
  | 1 => some (some .audio)
  | 2 => some (some .caption)
  | 3 => some (some .record)
  | 4 => some (some .report)
  | 5 => some (some .guard)
  | _ => none

/-- The coding a descriptor's code names; any other code is NONE (R54, 11 section 11.4). -/
def codingOfCode : Nat → Coding
  | 1 => .pcm
  | 2 => .compressed
  | _ => .none

/-- The rate a descriptor's code names; any other code is OTHER (R54, 11 section 11.4). -/
def rateOfCode : Nat → Rate
  | 1 => .r32000
  | 2 => .r44100
  | 3 => .r48000
  | _ => .other

/-- The role a descriptor's code names; any other code is OTHER (R54, 11 section 11.4). -/
def roleOfCode : Nat → Role
  | 1 => .l
  | 2 => .r
  | 3 => .c
  | 4 => .lfe
  | 5 => .ls
  | 6 => .rs
  | _ => .other

/-- The kind a caption header's code names; any other code is malformed (R101, 11 section 11.5). -/
def captionKindOfCode : Nat → Option CaptionKind
  | 1 => some .text
  | 2 => some .clear
  | 3 => some .style
  | _ => none

/-! ### The control page (11 section 11.2) -/

/-- The command named by a slot number, the slot's offset divided by 8 (R174). -/
def slotCommand : Nat → Option CmdKind
  | 0 => some .setMode
  | 1 => some .setTime
  | 2 => some .setPrescale
  | 3 => some .controlMask
  | 4 => some .readIndex
  | 5 => some .flagEnableSet
  | 6 => some .flagEnableClear
  | 7 => some .ackFlags
  | 8 => some .cancelFrom
  | 9 => some .replayCue
  | 10 => some .holdPolicy
  | 11 => some .layoutOverride
  | 12 => some .activitySet
  | 13 => some .defaultEntry
  | 14 => some .lineForce
  | 15 => some .restart
  | 16 => some .hold
  | 17 => some .releaseHold
  | 18 => some .exportRequest
  | 19 => some .exportDone
  | 20 => some .cueSet
  | _ => none

/-- The command code that outcome records carry (R174). -/
def CmdKind.code : CmdKind → Nat
  | .setMode => 0
  | .setTime => 1
  | .setPrescale => 2
  | .controlMask => 3
  | .readIndex => 4
  | .flagEnableSet => 5
  | .flagEnableClear => 6
  | .ackFlags => 7
  | .cancelFrom => 8
  | .replayCue => 9
  | .holdPolicy => 10
  | .layoutOverride => 11
  | .activitySet => 12
  | .defaultEntry => 13
  | .lineForce => 14
  | .restart => 15
  | .hold => 16
  | .releaseHold => 17
  | .exportRequest => 18
  | .exportDone => 19
  | .cueSet => 20
  | .window => 32
  | .entry => 33
  | .filter => 34

/-- The offset of a command's slot or of an area's commit word (R175, 11 section 11.2). -/
def CmdKind.offset : CmdKind → Nat
  | .window => 0x118
  | .entry => 0x238
  | .filter => 0x328
  | k => k.code * 8

/-- What an offset of the control page holds (02 section 2.1, R18). -/
inductive PagePlace where
  | slot (k : CmdKind)
  | staging (area : CmdKind) (word : Nat) (commit : Bool)
  | unassigned
  deriving DecidableEq, Repr

/-- The place of a beat's offset, a multiple of 8 (02 section 2.1). -/
def pagePlace (offset : Nat) : PagePlace :=
  if offset < 0x100 then
    match slotCommand (offset / 8) with
    | some k => .slot k
    | none => .unassigned
  else if offset < 0x120 then .staging .window ((offset - 0x100) / 8) (offset == 0x118)
  else if 0x200 ≤ offset ∧ offset < 0x240 then .staging .entry ((offset - 0x200) / 8) (offset == 0x238)
  else if 0x300 ≤ offset ∧ offset < 0x330 then .staging .filter ((offset - 0x300) / 8) (offset == 0x328)
  else .unassigned

/-- The tag in bytes 0 and 1 of a command beat or commit word (R174). -/
def beatTag (w : Beat) : Tag := BitVec.ofNat 16 (byteField w 0 2)

/-- The argument in bytes 2 to 7 of a command beat (R174). -/
def beatArg (w : Beat) : BitVec 48 := BitVec.ofNat 48 (byteField w 2 6)

/-- The tag of a partial beat, with each byte that is not enabled read as zero (R19). -/
def partialTag (b : WBeat) : Tag := beatTag (mergeBytes 0 b.data b.enables)

/-! ### Staged descriptors and entries (11 section 11.3) -/

/-- The fields of a staged WINDOW (11 section 11.3). -/
structure StagedWindow where
  slot : Nat
  kindCode : Nat
  feeding : Nat
  basePage : Nat
  pages : Nat
  writeMask : MasterSet
  readMask : MasterSet
  archiveMask : MasterSet
  segCount : Nat
  segSize : Nat
  deriving DecidableEq, Repr

/-- Word k of a staged command. -/
def stagedWord (it : CmdItem) (k : Nat) : Beat := it.words.getD k 0

/-- Reads a staged WINDOW from its shadows (11 section 11.3). -/
def stagedWindow (it : CmdItem) : StagedWindow where
  slot := byteField (stagedWord it 0) 0 1
  kindCode := byteField (stagedWord it 0) 1 1
  feeding := byteField (stagedWord it 0) 2 1
  basePage := byteField (stagedWord it 0) 4 4
  pages := byteField (stagedWord it 1) 0 4
  writeMask := BitVec.ofNat 16 (byteField (stagedWord it 1) 4 2)
  readMask := BitVec.ofNat 16 (byteField (stagedWord it 1) 6 2)
  archiveMask := BitVec.ofNat 16 (byteField (stagedWord it 2) 0 2)
  segCount := byteField (stagedWord it 2) 2 2
  segSize := byteField (stagedWord it 2) 4 2

/-- The ranges of the loudness fields of an entry (R115). -/
def loudnessRange (target : Int) (tolerance margin : Nat) : Bool :=
  -600 ≤ target && target ≤ 0 && tolerance ≤ 100 && margin ≤ 100

/-- The ranges of the caption fields of an entry (R115). -/
def captionRange (service gapLimit permille : Nat) : Bool :=
  1 ≤ service && service ≤ 63 && 1 ≤ gapLimit && gapLimit ≤ 600000 && permille ≤ 1000

/-- The range of the dead-air limit: 0 or 1 to 600,000 (R115). -/
def deadAirRange (limit : Nat) : Bool := limit ≤ 600000

/-- Reads a staged ENTRY from its shadows, or finds a code or field out of range (R115, R116, 11 section 11.3). -/
def stagedEntry (it : CmdItem) : Option Entry :=
  let w0 := stagedWord it 0
  let w2 := stagedWord it 2
  let id := byteField w0 0 2
  let target := signedField 16 (byteField w2 0 2)
  let tolerance := byteField w2 2 2
  let margin := byteField w2 4 2
  let permille := byteField w2 6 2
  let gapLimit := byteField (stagedWord it 3) 0 4
  let deadAir := byteField (stagedWord it 4) 0 4
  let service := byteField w0 4 1
  match classOfCode (byteField w0 2 1), obligationOfCode (byteField w0 3 1) with
  | some cls, some required =>
    if 1 ≤ id && loudnessRange target tolerance margin && captionRange service gapLimit permille && deadAirRange deadAir then
      some { id := BitVec.ofNat 16 id, cls := cls, start := BitVec.ofNat 32 (byteField (stagedWord it 1) 0 4),
             target := target, tolerance := tolerance, margin := margin, required := required, service := service,
             gapLimit := gapLimit, permille := permille, deadAirLimit := deadAir, lateCommit := false }
    else none
  | _, _ => none

/-- The coefficient of one stage in a FILTER word: stage 1 in the lower four bytes, stage 2 in the upper (R69). -/
def filterCoeff (it : CmdItem) (stage2 : Bool) (k : Nat) : BitVec 32 :=
  BitVec.ofNat 32 (byteField (stagedWord it k) (if stage2 then 4 else 0) 4)

/-- The five coefficients of one stage of a staged FILTER, in the order b0, b1, b2, a1, a2 (R69). -/
def filterStage (it : CmdItem) (stage2 : Bool) : StageCoeffs where
  b0 := filterCoeff it stage2 0
  b1 := filterCoeff it stage2 1
  b2 := filterCoeff it stage2 2
  a1 := filterCoeff it stage2 3
  a2 := filterCoeff it stage2 4

/-- The calibration offset C of a staged FILTER (11 section 11.3). -/
def filterOffset (it : CmdItem) : Int := signedField 16 (byteField (stagedWord it 5) 2 2)

/-! ### Codes the part writes (11 section 11.8) -/

/-- The code of a mode. -/
def Mode.code : Mode → Nat
  | .off => 0
  | .live => 1
  | .replay => 2

/-- The code of an engine state. -/
def Engine.code : Engine → Nat
  | .idle => 0
  | .measuring => 1
  | .unmeasurable => 2
  | .stalled => 3

/-- The code of a segment state; 0 is absent. -/
def SegState.code : SegState → Nat
  | .free => 1
  | .filling => 2
  | .closed => 3
  | .held => 4
  | .exporting => 5

/-- The code of a bank state. -/
def BankState.code : BankState → Nat
  | .free => 0
  | .collecting => 1
  | .scanning => 2

/-- The code written for a coding. NONE has no code of its own: a free value that is neither 1 nor 2 (R54, log 12). -/
def Coding.code : Coding → Nat
  | .pcm => 1
  | .compressed => 2
  | .none => if Config.codingNone = 1 ∨ Config.codingNone = 2 then 0 else Config.codingNone.toNat

/-- The code written for a rate. OTHER has no code of its own: a free value that is none of 1, 2 and 3 (R54, log 12). -/
def Rate.code : Rate → Nat
  | .r32000 => 1
  | .r44100 => 2
  | .r48000 => 3
  | .other =>
    if Config.rateOther = 1 ∨ Config.rateOther = 2 ∨ Config.rateOther = 3 then 0 else Config.rateOther.toNat

/-- The code of a class. -/
def EntryClass.code : EntryClass → Nat
  | .programme => 0
  | .advert => 1
  | .promo => 2
  | .live => 3

/-- The code of a cause of opening. -/
def Cause.code : Cause → Nat
  | .start => 0
  | .compare => 1
  | .cue => 2
  | .lateCommit => 3

/-- The code and set bit of a hold reason. -/
def HoldReason.code : HoldReason → Nat
  | .loudness => 0
  | .shortTerm => 1
  | .caption => 2
  | .deadAir => 3
  | .manual => 4

/-- The set that holds one reason. -/
def HoldReason.set (r : HoldReason) : ReasonSet := BitVec.ofNat 5 (2 ^ r.code)

/-- A set holds a reason. -/
def hasReason (set : ReasonSet) (r : HoldReason) : Bool := set.getLsbD r.code

/-- The code of a refusal reason. -/
def Reason.code : Reason → Nat
  | .badValue => 1
  | .badDescriptor => 2
  | .overlap => 3
  | .busyLive => 4
  | .holdsPresent => 5
  | .noReport => 6
  | .modeSequence => 7
  | .order => 8
  | .duplicateId => 9
  | .queueFull => 10
  | .notPending => 11
  | .privilege => 12
  | .badSegment => 13
  | .segmentState => 14
  | .holdLimit => 15
  | .exportPending => 16
  | .badIndex => 17
  | .commandOverflow => 18
  | .partialBeat => 19

/-- The bit of a flag. -/
def Flag.code : Flag → Nat
  | .verdictFail => 0
  | .holdPlaced => 1
  | .holdDenied => 2
  | .captionGap => 3
  | .shortTermOver => 4
  | .deadAir => 5
  | .audioState => 6
  | .exportGranted => 7
  | .recordBlocked => 8
  | .accessBlocked => 9
  | .commandRefused => 10
  | .reportsLost => 11
  | .ringHigh => 12

/-- The set that holds one flag. -/
def Flag.set (f : Flag) : BitVec 13 := BitVec.ofNat 13 (2 ^ f.code)

/-- The code of a loudness outcome. -/
def LoudnessOutcome.code : LoudnessOutcome → Nat
  | .undetermined => 0
  | .pass => 1
  | .failHigh => 2
  | .failLow => 3

/-- The code of a short-term or dead-air outcome. -/
def CheckOutcome.code : CheckOutcome → Nat
  | .notChecked => 0
  | .pass => 1
  | .fail => 2

/-- The code of a caption outcome. -/
def CaptionOutcome.code : CaptionOutcome → Nat
  | .notRequired => 0
  | .unchecked => 1
  | .pass => 2
  | .fail => 3

/-- The code of the reason of a blocked access (R175). -/
def BlockReason.code : BlockReason → Nat
  | .crossing => 0
  | .controlMask => 1
  | .readMask => 2
  | .writeMask => 3
  | .reportWrite => 4

/-- The code of the cause of an AUDIO_STATE (R175). -/
def AudioCause.code : AudioCause → Nat
  | .descriptor => 0
  | .stall => 1
  | .resume => 2

end Sys2Proof.Machine
end

