-- ==== Sys2Proof/Machine/Levels.lean ====
section
/-! DEFINITION. Loudness arithmetic: the weighting stages, the level rounding, block levels, sample peaks, and the ungated
and integrated values of a histogram (05, 06). Everything is exact: integers in the spec's fixed-point units, and
logarithms compared through integer powers. -/

namespace Sys2Proof.Machine

/-! ### The weighting stages (R66, R67) -/

/-- Rounds n / d to the nearest integer, halves to the even one (R67). -/
def roundHalfEven (n : Int) (d : Nat) : Int :=
  let q := n / d
  let r := 2 * (n % d)
  if r < d then q else if d < r then q + 1 else if q % 2 = 0 then q else q + 1

/-- The largest stage output, 8 − 2^−31, in units of 2^−31 (R67). -/
def stageMax : Int := 2 ^ 34 - 1

/-- The smallest stage output, −8, in units of 2^−31 (R67). -/
def stageMin : Int := -2 ^ 34

/-- The exact sum of a stage, in units of 2^−61 (R67). -/
def stageSum (c : StageCoeffs) (st : StageState) (x : Int) : Int :=
  c.b0.toInt * x + c.b1.toInt * st.x1 + c.b2.toInt * st.x2 - c.a1.toInt * st.y1 - c.a2.toInt * st.y2

/-- The sum of a stage rounded to a multiple of 2^−31, before saturation (R67). -/
def stageRounded (c : StageCoeffs) (st : StageState) (x : Int) : Int := roundHalfEven (stageSum c st x) (2 ^ 30)

/-- The stage output (R67). -/
def stageOut (c : StageCoeffs) (st : StageState) (x : Int) : Int := max stageMin (min stageMax (stageRounded c st x))

/-- The output of this stage is a saturation (R67). -/
def stageSaturates (c : StageCoeffs) (st : StageState) (x : Int) : Bool :=
  stageMax < stageRounded c st x || stageRounded c st x < stageMin

/-- The stage's state after the input (R67). -/
def stageNext (c : StageCoeffs) (st : StageState) (x : Int) : StageState := ⟨x, st.x1, stageOut c st x, st.y1⟩

/-- The sample value in bytes 1 to 3 of a sample word (R57, 11 section 11.4). -/
def sampleValue (w : BitVec 32) : Int := signedField 24 (w.toNat / 256)

/-- The sample s = v / 2^23 in units of 2^−31 (R66). -/
def sampleInput (v : Int) : Int := v * 256

/-! ### Logarithms (R73) -/

/-- The greatest number below acc + 2^bits at which p holds, for a p that holds at acc and never again once it fails. -/
def greatest (p : Nat → Bool) : Nat → Nat → Nat
  | 0, acc => acc
  | bits + 1, acc => greatest p bits (if p (acc + 2 ^ bits) then acc + 2 ^ bits else acc)

/-- 10^e is at most (p/q)^k. -/
def powAtMost (k p q : Nat) (e : Int) : Bool :=
  if 0 ≤ e then 10 ^ e.toNat * q ^ k ≤ p ^ k else q ^ k ≤ p ^ k * 10 ^ (-e).toNat

/-- The level rounding of c + (k/2)·log10(p/q) tenths: the nearest tenth, halves upward, kept within −999 and `top`
(R73). Tenth t is reached when 10^(2t − 2c − 1) is at most (p/q)^k. -/
def roundedLog (k p q : Nat) (c top : Int) : Int :=
  min top ((greatest (fun n => powAtMost k p q (2 * ((n : Int) - 999) - 2 * c - 1)) 11 0 : Nat) - 999)

/-- The level of a block mean z = p / q under a calibration offset of c tenths (R73). -/
def levelOf (p q : Nat) (c : Int) : Int := if p = 0 then -999 else roundedLog 200 p q c 200

/-- The sample peak of a peak magnitude (R75). -/
def peakOf (m : Nat) : Int := if m = 0 then -999 else roundedLog 400 m (2 ^ 23) 0 0

/-- The denominator of a block mean of n sub-blocks: 4800 × n × 1000, in units of 2^−62 (R72). -/
def meanDenominator (n : Nat) : Nat := 4800 * n * 1000 * 2 ^ 62

/-- The level of the newest n energies of a history, or none while it holds fewer (R72, R77). -/
def blockLevel (n : Nat) (history : List Nat) (c : Int) : Option Int :=
  if n ≤ history.length then some (levelOf (history.drop (history.length - n)).sum (meanDenominator n) c) else none

/-! ### Levels of a histogram (R92, R95) -/

/-- The greatest r with r^200 at most n, for an r below 2^bits. -/
def root200 (n bits : Nat) : Nat := greatest (fun r => r ^ 200 ≤ n) bits 0

/-- The greatest integer at most 10^(e/200) × 2^p. -/
def tenPower (p e : Nat) : Nat := root200 (10 ^ e * 2 ^ (200 * p)) (p + e / 50 + 1)

/-- A lower bound of the energy sum Σ n_b·10^(b/100), in units of 2^−p. -/
def sumBelow (p : Nat) (h : Histogram) : Nat := (h.map fun x => x.2 * tenPower p (2 * x.1)).sum

/-- The energy sum is at least total × 10^(e/200), decided at a precision of p bits, or at more bits when p does not
decide it. The two sides are never equal for an odd e, and 2^15 bits always decide (log 27). -/
def sumReaches (h : Histogram) (total e : Nat) : Nat → Nat → Bool
  | 0, _ => false
  | fuel + 1, p =>
    if total * (tenPower p e + 1) ≤ sumBelow p h then true
    else if sumBelow p h + binTotal h ≤ total * tenPower p e then false
    else sumReaches h total e fuel (2 * p)

/-- The level 10·log10 of the mean energy of the counted blocks, with the level rounding: none for no block (R92, R95).
The search runs over the tenths of the bins: tenth u − 699 is reached when N·10^((2u − 1)/200) is at most the sum. -/
def histogramLevel (h : Histogram) : Option Int :=
  if binTotal h = 0 then none
  else some ((greatest (fun u => sumReaches h (binTotal h) (2 * u - 1) 10 64) 10 0 : Nat) - 699)

/-- The bins whose level is strictly above the relative gate R = U − 100 (R95). -/
def aboveGate (u : Int) (h : Histogram) : Histogram := h.filter fun x => u - 100 < (x.1 : Int) - 699

/-- The ungated and integrated values of a bank (R95). -/
def scanValues (h : Histogram) : Option Int × Option Int :=
  match histogramLevel h with
  | none => (none, none)
  | some u => (some u, histogramLevel (aboveGate u h))

/-- The bin of a level in tenths (R89). -/
def binOf (tenths : Int) : Nat := min 799 (tenths + 699).toNat

end Sys2Proof.Machine
end

