-- ==== Sys2Proof/Machine/Flags.lean ====
section
/-! DEFINITION. The thirteen flags, their enables and the alert latch (10 section 10.6), and which flag a record's kind
names (R158). -/

namespace Sys2Proof.Machine

/-- A flag is set. -/
def flagSet (ru : Reports) (f : Flag) : Bool := ru.flags.getLsbD f.code

/-- A flag's enable is on. -/
def flagEnabled (ru : Reports) (f : Flag) : Bool := ru.enables.getLsbD f.code

/-- Some flag is both set and enabled (R168). -/
def alertCause (ru : Reports) : Bool := ru.flags &&& ru.enables != 0

/-- Sets a flag; the latch is set if the flag's enable is on, whether or not the flag was set already (R168). -/
def setFlag (f : Flag) (ru : Reports) : Reports :=
  { ru with flags := ru.flags ||| f.set, latch := ru.latch || flagEnabled ru f }

/-- Clears the latch if no flag is both set and enabled (R166, R167, R168). -/
def settleLatch (ru : Reports) : Reports := { ru with latch := ru.latch && alertCause ru }

/-- Turns on the enables of a set of flags; the latch is left alone (R166). -/
def enableFlags (set : BitVec 13) (ru : Reports) : Reports := { ru with enables := ru.enables ||| set }

/-- Turns off the enables of a set of flags (R166). -/
def disableFlags (set : BitVec 13) (ru : Reports) : Reports := settleLatch { ru with enables := ru.enables &&& ~~~set }

/-- Clears a set of flags (R167). -/
def clearFlags (set : BitVec 13) (ru : Reports) : Reports := settleLatch { ru with flags := ru.flags &&& ~~~set }

/-- One of a verdict's four outcomes is a failure (R133). -/
def verdictFails (v : Verdict) : Bool :=
  v.loudness == .failHigh || v.loudness == .failLow || v.shortTerm == .fail || v.caption == .fail || v.deadAir == .fail

/-- The flag that a record's offer sets (R158). -/
def reportFlag : Report → Option Flag
  | .verdict v => if verdictFails v then some .verdictFail else none
  | .holdPlaced .. => some .holdPlaced
  | .deniedRequest .. | .deniedClose .. | .deniedExport .. => some .holdDenied
  | .captionGap .. => some .captionGap
  | .shortTermOver .. => some .shortTermOver
  | .deadAir .. => some .deadAir
  | .audioState .. => some .audioState
  | .exportGranted .. => some .exportGranted
  | .recordBlocked .. => some .recordBlocked
  | .accessBlocked .. => some .accessBlocked
  | .commandRefused .. => some .commandRefused
  | .commandDone .. | .entryOpened .. | .captionGapEnd .. | .captionTorn .. | .deadAirEnd .. | .segmentClosed ..
  | .strayCue .. => none

/-- A record is the outcome of a command, whose laying or dropping makes an image due (R170). -/
def isOutcome : Report → Bool
  | .commandDone .. | .commandRefused .. => true
  | _ => false

/-- The refusal that a COMMAND_REFUSED makes the last one (R27, R158). -/
def refusalOf : Report → Option LastRefusal
  | .commandRefused tag code master _ reason => some ⟨tag, code, master, reason⟩
  | _ => none

/-- ALERT_N is asserted (driven low): it follows the latch (R49). -/
def alertAsserted (s : State) : Bool := s.ru.latch

end Sys2Proof.Machine
end

