-- ==== Sys2Proof/Machine/Offer.lean ====
section
/-! DEFINITION. Offering a record to the report unit, and dropping one (10 sections 10.2 and 10.4). -/

namespace Sys2Proof.Machine

/-- A record is dropped: it adds to the lost count and sets REPORTS_LOST; a dropped outcome makes an image due
(R162, R170). -/
def dropReport (r : Report) (ru : Reports) : Reports :=
  setFlag .reportsLost { ru with lostCount := satAdd ru.lostCount 1, imageDue := ru.imageDue || isOutcome r }

/-- What an offer does before the record is queued: the flag of its kind and the last refusal (R158). -/
def noteOffer (r : Report) (ru : Reports) : Reports :=
  let ru := match reportFlag r with
    | some f => setFlag f ru
    | none => ru
  { ru with lastRefusal := (refusalOf r).or ru.lastRefusal }

/-- The report unit takes an offer: it joins the tail of the report queue, or is dropped when the queue holds 16
(R158, R159). -/
def takeOffer (r : Report) (now : Time) (ru : Reports) : Reports :=
  let ru := noteOffer r ru
  if ru.queue.length < Config.reportQueueDepth then { ru with queue := ru.queue ++ [⟨r, now⟩] } else dropReport r ru

/-- A block offers a record within its event (R158). -/
def offer (r : Report) (s : State) : State := { s with ru := takeOffer r s.tb.time s.ru }

/-- Offers a record if there is one. -/
def offerIf (r : Option Report) (s : State) : State :=
  match r with
  | some r => offer r s
  | none => s

end Sys2Proof.Machine
end

