-- ==== Sys2Proof/Machine/Recorder.lean ====
section
/-! DEFINITION. The off-air recording ring: the segment table, hold requests, and writes into the RECORD window
(09). The archive commands stand in Machine/Archive.lean. -/

namespace Sys2Proof.Machine

/-! ### The segment table (R136 to R138) -/

/-- A segment is HELD or EXPORT. -/
def isKept (g : Segment) : Bool := g.state == .held || g.state == .exporting

/-- The hold count: the number of segments that are HELD or EXPORT (R138). -/
def holdCount (table : List Segment) : Nat := table.countP isKept

/-- Having room: the hold count is less than N − 2 (R138). -/
def hasRoom (table : List Segment) : Bool := holdCount table + 2 < table.length

/-- A FREE record (R137). -/
def freeSegment (index : Nat) : Segment where
  index := index
  state := .free
  start := none
  finish := none
  bytes := 0
  blocked := 0
  blockedMark := false
  reasons := 0
  entries := []
  more := false
  maxShortTerm := none
  beforeExportHeld := none

/-- The table of a newly installed RECORD window (R136). -/
def newTable (n : Nat) : List Segment := (List.range n).map freeSegment

/-- Replaces the record of one segment. -/
def putSegment (g : Segment) (s : State) : State := { s with rc := { s.rc with table := s.rc.table.set g.index g } }

/-- Changes the reason set; the before-export state of an EXPORT segment is set again (R137). -/
def withReasons (set : ReasonSet) (g : Segment) : Segment :=
  { g with reasons := set, beforeExportHeld := if g.state = .exporting then some (set != 0) else none }

/-- Changes the state; the blocked-reported mark is cleared with every change (R140), and a segment that enters EXPORT
takes its before-export state from its reasons (R137). -/
def withState (st : SegState) (g : Segment) : Segment :=
  { g with state := st, blockedMark := false, beforeExportHeld := if st = .exporting then some (g.reasons != 0) else none }

/-- The FILLING segment, if there is one. -/
def fillingOf (table : List Segment) : Option Segment := table.find? (·.state == .filling)

/-- The end of a segment's span: its end, or the present while it is FILLING (R145). -/
def spanEnd (now : Time) (g : Segment) : Time := if g.state = .filling then now else g.finish.getD now

/-- The d by which segments are ranked: the present less the start (R146). -/
def rank (now : Time) (g : Segment) : Int := since now (g.start.getD now)

/-- The order in which a request treats segments: latest start first, equal ranks by descending index (R146). -/
def treatedBefore (now : Time) (g h : Segment) : Bool :=
  rank now g < rank now h || (rank now g == rank now h && h.index < g.index)

/-- The segments that are not FREE, in the order of R146. -/
def ranked (now : Time) (table : List Segment) : List Segment :=
  sortBy (treatedBefore now) (table.filter (·.state != .free))

/-! ### Hold requests (R145 to R147) -/

/-- The segments that a request's interval overlaps, in the order they are treated (R145, R146). -/
def overlapSet (now : Time) (req : HoldRequest) (table : List Segment) : List Segment :=
  (ranked now table).filter fun g => overlaps (g.start.getD now) (spanEnd now g) req.start req.finish

/-- The request reaches back past the oldest segment that is not FREE, or there is none (R147). -/
def evidenceMissing (now : Time) (req : HoldRequest) (table : List Segment) : Bool :=
  match (ranked now table).getLast? with
  | none => true
  | some oldest => earlier req.start (oldest.start.getD now)

/-- A reason joins the set of a segment that is FILLING, HELD or EXPORT, and HOLD_PLACED is offered when it is new
(R146, R150). -/
def joinReason (g : Segment) (reason : HoldReason) (req : Option HoldRequest) (missing : Bool) (s : State) : State :=
  if hasReason g.reasons reason then s
  else
    let g' := withReasons (g.reasons ||| reason.set) g
    let s := putSegment g' s
    offer (.holdPlaced g' reason req (holdCount s.rc.table) missing) s

/-- A CLOSED segment with room becomes HELD with one reason (R146, R150). -/
def holdClosed (g : Segment) (reason : HoldReason) (req : Option HoldRequest) (missing : Bool) (s : State) : State :=
  let g' := withState .held { g with reasons := reason.set }
  let s := putSegment g' s
  offer (.holdPlaced g' reason req (holdCount s.rc.table) missing) s

/-- A request is applied to one segment by its state (R146). A FILLING segment gains the reason and takes no room before its
close, while a CLOSED one takes room here, latest start first. So where the request also takes other CLOSED segments and room
is short, a capture start before the request and one after it can leave the old segment with different outcomes, although
R148 says that it ends alike in both orders: the model follows R143 and R146 (DEDUCED, log 40). -/
def holdSegment (req : HoldRequest) (missing : Bool) (s : State) (index : Nat) : State :=
  match s.rc.table[index]? with
  | none => s
  | some g =>
    match g.state with
    | .free => s
    | .filling | .held | .exporting => joinReason g req.reason (some req) missing s
    | .closed =>
      if hasRoom s.rc.table then holdClosed g req.reason (some req) missing s
      else offer (.deniedRequest g.index req (holdCount s.rc.table) missing) s

/-- The recorder's word sets EVIDENCE_INCOMPLETE in the open record and in the closing records of that id (R130). -/
def markEvidence (id : EntryId) (s : State) : State :=
  let mark (e : OpenEntry) : OpenEntry := if e.entry.id = id then { e with evidenceIncomplete := true } else e
  let markSlot (c : ClosingSlot) : ClosingSlot := { c with closed := { c.closed with record := mark c.closed.record } }
  { s with su := { s.su with
      openEntry := s.su.openEntry.map mark
      slotA := s.su.slotA.map markSlot
      slotB := s.su.slotB.map markSlot } }

/-- The recorder takes a request while a RECORD window is installed and the mode is not REPLAY (R145). -/
def takesRequests (s : State) : Bool := s.cu.mode != .replay && !s.rc.table.isEmpty

/-- The request is one the recorder applies and finds evidence-incomplete (R145, R147). -/
def requestIncomplete (req : HoldRequest) (s : State) : Bool :=
  takesRequests s && evidenceMissing s.tb.time req s.rc.table

/-- A hold request: ignored in REPLAY and without a RECORD window, otherwise applied to its overlap set and judged for
its evidence (R145 to R147). -/
def holdRequest (req : HoldRequest) (s : State) : State :=
  if takesRequests s then
    let missing := evidenceMissing s.tb.time req s.rc.table
    let s := ((overlapSet s.tb.time req s.rc.table).map (·.index)).foldl (holdSegment req missing) s
    if missing then markEvidence req.id s else s
  else s

/-- The hold policy of a class includes a reason (R120). -/
def policyHolds (s : State) (cls : EntryClass) (reason : HoldReason) : Bool :=
  (s.su.policy[cls.code]?.getD 0).getLsbD reason.code

/-! ### Closing the FILLING segment (R143) -/

/-- The state of a FILLING segment after its close (R143). Room is judged at the close and not when the reason was gained,
which is where the two orders of R148 can part (DEDUCED, log 40). -/
def closeState (reasons : ReasonSet) (named room : Bool) : SegState :=
  if named then (if room then .exporting else .closed)
  else if reasons = 0 then .closed
  else if room then .held else .closed

/-- The pending export, if it names a segment. -/
def exportOf (g : Segment) (s : State) : Option PendingExport := s.rc.pendingExport.filter (·.segment == g.index)

/-- The state in which the FILLING segment closes at this moment (R143). -/
def closeStateOf (g : Segment) (s : State) : SegState :=
  closeState g.reasons (exportOf g s).isSome (hasRoom s.rc.table)

/-- The reasons that a close clears: all of them when the segment becomes CLOSED (R143). -/
def clearedReasons (g : Segment) (s : State) : ReasonSet := if closeStateOf g s = .closed then g.reasons else 0

/-- The record of a segment closed with end at the present (R143). -/
def closedSegment (g : Segment) (s : State) : Segment :=
  withState (closeStateOf g s)
    { g with finish := some s.tb.time, reasons := if closeStateOf g s = .closed then 0 else g.reasons }

/-- The pending export becomes absent if it names the segment (R153). -/
def dropExport (g : Segment) (s : State) : State :=
  if (exportOf g s).isSome then { s with rc := { s.rc with pendingExport := none } } else s

/-- The reports of a close: SEGMENT_CLOSED, HOLD_DENIED for reasons cleared, and the outcome of the pending export (R143). -/
def reportClose (g : Segment) (cleared : ReasonSet) (pending : Option PendingExport) (s : State) : State :=
  let s := offer (.segmentClosed g cleared (holdCount s.rc.table)) s
  let s := if cleared = 0 then s else offer (.deniedClose g.index cleared) s
  match pending with
  | none => s
  | some p =>
    if g.state = .exporting then offer (.exportGranted g p.tag p.master (holdCount s.rc.table)) s
    else offer (.deniedExport g.index p.tag p.master) s

/-- The FILLING segment closes (R143). -/
def closeFilling (g : Segment) (s : State) : State :=
  reportClose (closedSegment g s) (clearedReasons g s) (exportOf g s) (dropExport g (putSegment (closedSegment g s) s))

/-! ### Writes into the RECORD window (R139 to R142) -/

/-- A beat of a RECORD-window write: the segment it touches and its enabled bytes (R10). -/
structure Touch where
  segment : Nat
  bytes : Nat
  deriving DecidableEq, Repr

/-- The segments that a write's beats touch, beat by beat (R10, R139). -/
def touches (w : Window) (r : Request) : List Touch :=
  match r.access with
  | .read _ => []
  | .write beats =>
    beats.zipIdx.map fun p =>
      ⟨(r.addr + 8 * p.2 - w.basePage * 4096) / (w.segSize * 1048576), enabledBytes p.1.enables⟩

/-- A write touches a segment. -/
def touchesSegment (ts : List Touch) (index : Nat) : Bool := ts.any (·.segment == index)

/-- The enabled bytes of a write that lie in one segment. -/
def bytesIn (ts : List Touch) (index : Nat) : Nat := ((ts.filter (·.segment == index)).map (·.bytes)).sum

/-- The recorder answers block when a touched segment is HELD or EXPORT (R139). -/
def recorderBlocks (ts : List Touch) (table : List Segment) : Bool :=
  table.any fun g => touchesSegment ts g.index && isKept g

/-- A blocked write at one touched segment: its count, and RECORD_BLOCKED once for each stay (R140). -/
def countBlocked (r : Request) (s : State) (index : Nat) : State :=
  match s.rc.table[index]? with
  | none => s
  | some g =>
    let g' := { g with blocked := satAdd g.blocked 1, blockedMark := true }
    let s := putSegment g' s
    if g.blockedMark then s else offer (.recordBlocked g' r.master r.addr s.tb.time (openId s)) s

/-- A blocked write is counted at every touched segment that is HELD or EXPORT (R140). DESIGN CHOICE, unsafe: where it touches
two such segments, the spec does not order their RECORD_BLOCKED records, and the model takes the lower index first (log 37). -/
def blockRecordWrite (r : Request) (ts : List Touch) (s : State) : State :=
  ((s.rc.table.filter fun g => touchesSegment ts g.index && isKept g).map (·.index)).foldl (countBlocked r) s

/-- The enabled bytes of a write that lie in a segment join its bytes accepted (R142). -/
def addBytes (ts : List Touch) (g : Segment) : Segment := { g with bytes := satAdd g.bytes (bytesIn ts g.index) }

/-- The record of a segment that begins filling (R142). -/
def startSegment (ts : List Touch) (index : Nat) (s : State) : Segment :=
  { freeSegment index with
    state := .filling
    start := some s.tb.time
    bytes := satAdd 0 (bytesIn ts index)
    entries := (openId s).toList }

/-- A passing write is a capture write: LIVE, from the feeding master, with an enabled byte (R141). -/
def isCapture (w : Window) (r : Request) (ts : List Touch) (s : State) : Bool :=
  s.cu.mode == .live && r.master == w.feeding && ts.any (0 < ·.bytes)

/-- A capture write lands in the segment of its last beat: it goes on there, or begins filling it after the FILLING
segment has closed (R142). -/
def capture (ts : List Touch) (s : State) : State :=
  match ts.getLast? with
  | none => s
  | some t =>
    match s.rc.table[t.segment]? with
    | none => s
    | some g =>
      if g.state = .filling then putSegment (addBytes ts g) s
      else
        let s := match fillingOf s.rc.table with
          | some f => closeFilling (addBytes ts f) s
          | none => s
        putSegment (startSegment ts t.segment s) s

/-! ### What the FILLING segment follows (R144) -/

/-- In LIVE the FILLING segment's entry list takes the id of an entry that opens (R144). DEDUCED, unsafe: this holds of the
openings of START too, of the default entry and of the heads that follow it, though R155 says that START leaves the segment
table as it stands (log 38). -/
def noteOpening (id : EntryId) (s : State) : State :=
  if s.cu.mode = .live then
    match fillingOf s.rc.table with
    | some g =>
      putSegment (if g.entries.length < 4 then { g with entries := g.entries ++ [id] } else { g with more := true }) s
    | none => s
  else s

/-- A level is taken as a maximum: when there is none yet or it is higher. -/
def maxLevel (old : Option Int) (l : Int) : Option Int :=
  match old with
  | none => some l
  | some m => some (max m l)

/-- In LIVE the FILLING segment's maximum short-term follows the held short-term level at each completion (R144). -/
def noteShortTerm (s : State) : State :=
  if s.cu.mode = .live then
    match fillingOf s.rc.table, s.lu.shortTerm with
    | some g, some l => putSegment { g with maxShortTerm := maxLevel g.maxShortTerm l } s
    | _, _ => s
  else s

/-! ### The RECORD window's changes (R136) -/

/-- The recorder is told that the RECORD window has changed: a new window makes a new table of FREE records, a removed
one leaves none, and the pending export becomes absent (R136). -/
def recordWindowChanged (new : Option Window) : Recorder :=
  ⟨(new.map fun w => newTable w.segCount).getD [], none⟩

end Sys2Proof.Machine
end

