-- ==== Sys2Proof/Machine/Schedule.lean ====
section
/-! DEFINITION. The compliance schedule: verdicts, closing, opening, and the events that reach the head of the pending
queue (08), with the bank each entry is given and the scan of a bank (06 sections 6.3 and 6.5). -/

namespace Sys2Proof.Machine

/-! ### The verdict (R112, R113, R131 to R134) -/

/-- The coverage in permille (R112). -/
def coverageOf (e : OpenEntry) : Nat := if e.activeMs = 0 then 1000 else e.coveredMs * 1000 / e.activeMs

/-- The caption outcome (R113). -/
def captionOutcome (e : OpenEntry) : CaptionOutcome :=
  if !e.entry.required then .notRequired
  else if !e.captionPresent then .unchecked
  else if e.entry.permille ≤ coverageOf e then .pass
  else .fail

/-- The loudness outcome (R132). -/
def loudnessOutcome (c : ClosedEntry) (integrated : Option Int) : LoudnessOutcome :=
  match integrated with
  | none => .undetermined
  | some i =>
    if c.record.measuredMs.toNat * 2 < c.duration then .undetermined
    else if (i - c.record.entry.target).natAbs ≤ c.record.entry.tolerance then .pass
    else if c.record.entry.target < i then .failHigh
    else .failLow

/-- The short-term outcome (R133). -/
def shortTermOutcome (e : OpenEntry) : CheckOutcome :=
  if e.entry.margin = 0 ∨ e.maxShortTerm = none then .notChecked
  else if e.overCount ≠ 0 then .fail
  else .pass

/-- The dead-air outcome (R133). -/
def deadAirOutcome (e : OpenEntry) : CheckOutcome :=
  if e.entry.deadAirLimit = 0 then .notChecked
  else if e.deadAirCount ≠ 0 then .fail
  else .pass

/-- The largest of an entry's eight peak magnitudes (R76). -/
def largestPeak (e : OpenEntry) : Nat := e.peaks.toList.foldl max 0

/-- The maximum sample peak: none when no sub-block completed while the entry was open (R76). -/
def verdictPeak (e : OpenEntry) : Option Int := if e.subBlocks = 0 then none else some (peakOf (largestPeak e))

/-- The lowest channel position that holds the largest magnitude, or 0 when the peak is none (R76). -/
def verdictPeakChannel (e : OpenEntry) : Nat :=
  if e.subBlocks = 0 then 0 else e.peaks.toList.findIdx (· == largestPeak e)

/-- The verdict of a closed record (R131, R134). -/
def verdictOf (c : ClosedEntry) (ungated integrated : Option Int) : Verdict where
  closed := c
  integrated := integrated
  ungated := ungated
  samplePeak := verdictPeak c.record
  peakChannel := verdictPeakChannel c.record
  coverage := coverageOf c.record
  loudness := loudnessOutcome c integrated
  shortTerm := shortTermOutcome c.record
  caption := captionOutcome c.record
  deadAir := deadAirOutcome c.record

/-- The LOUDNESS hold of a closed record (R133). -/
def loudnessHold (c : ClosedEntry) : HoldRequest :=
  ⟨.loudness, c.record.actualStart, c.actualEnd, c.record.entry.id⟩

/-- The LOUDNESS hold is asked for: the loudness outcome fails, the policy of the class includes LOUDNESS and the entry
does not carry REPLAY (R133). -/
def asksLoudnessHold (c : ClosedEntry) (integrated : Option Int) (s : State) : Bool :=
  (loudnessOutcome c integrated == .failHigh || loudnessOutcome c integrated == .failLow)
    && policyHolds s c.record.entry.cls .loudness && !c.record.replay

/-- A verdict is built: the LOUDNESS hold is asked for first, its EVIDENCE_INCOMPLETE goes into the verdict, and the
VERDICT is offered (R130, R131). -/
def buildVerdict (c : ClosedEntry) (ungated integrated : Option Int) (s : State) : State :=
  if asksLoudnessHold c integrated s then
    let missing := requestIncomplete (loudnessHold c) s
    let s := holdRequest (loudnessHold c) s
    let c := if missing then { c with record := { c.record with evidenceIncomplete := true } } else c
    offer (.verdict (verdictOf c ungated integrated)) s
  else offer (.verdict (verdictOf c ungated integrated)) s

/-! ### Closing (R111, R129) -/

/-- The fields of a record bounded by its duration (R111, R129). -/
def boundRecord (duration : Nat) (e : OpenEntry) : OpenEntry :=
  let active := min e.activeMs duration
  let measured := min e.measuredMs.toNat duration
  let unmeasured := min e.unmeasuredMs.toNat (duration - measured)
  { e with activeMs := active
           coveredMs := min e.coveredMs active
           measuredMs := BitVec.ofNat 32 measured
           unmeasuredMs := BitVec.ofNat 32 unmeasured }

/-- The duration: actual end less actual start (R129). -/
def durationOf (actualEnd actualStart : Time) : Nat := (since actualEnd actualStart).toNat

/-- The closed record of an open entry (R129). -/
def closedOf (e : OpenEntry) (actualEnd : Time) (aborted : Bool) : ClosedEntry :=
  let duration := durationOf actualEnd e.actualStart
  ⟨boundRecord duration e, actualEnd, duration, aborted⟩

/-- The time a scan may take: in REPLAY 2 × D edges, otherwise it ends before the second tick (R94). -/
def scanTime (s : State) : ScanLeft := if s.cu.mode = .replay then .edges (2 * s.tb.divisor) else .ticks 1

/-- The open entry closes: its record moves with its bank into a closing slot and the scan begins, or its verdict is
built at once when it is unbanked (R94, R129). -/
def closeEntry (actualEnd : Time) (aborted : Bool) (s : State) : State :=
  match s.su.openEntry with
  | none => s
  | some e =>
    let c := closedOf e actualEnd aborted
    let s := { s with su := { s.su with openEntry := none } }
    match e.bank with
    | some bank =>
      { s with su := setSlot bank (some ⟨c, scanTime s⟩) s.su
               ag := setBank bank { bankOf s.ag bank with state := .scanning } s.ag }
    | none => buildVerdict c none none s

/-! ### Opening (R118, R125 to R127) -/

/-- The bank an opening is given: A if it is FREE, otherwise B if it is FREE (R91). -/
def freeBank (ag : Activity) : Option Bank :=
  if ag.bankA.state = .free then some .a
  else if ag.bankB.state = .free then some .b
  else none

/-- A bank given to an entry is COLLECTING (R90). -/
def collectIn (bank : Option Bank) (ag : Activity) : Activity :=
  match bank with
  | some bank => setBank bank { bankOf ag bank with state := .collecting } ag
  | none => ag

/-- A new open-entry record (R127). -/
def newRecord (e : Entry) (start : Time) (cause : Cause) (cuedEarly replay : Bool) (bank : Option Bank)
    (captionPresent : Bool) : OpenEntry where
  entry := e
  actualStart := start
  cause := cause
  cuedEarly := cuedEarly
  replay := replay
  bank := bank
  subBlocks := 0
  measuredMs := 0
  unmeasuredMs := 0
  evidenceIncomplete := false
  discontinuities := 0
  saturations := 0
  peaks := Vector.replicate 8 0
  maxMomentary := none
  maxShortTerm := none
  overMark := false
  overCount := 0
  deadAirCount := 0
  missed := 0
  isPartial := false
  captionPresent := captionPresent
  activeMs := 0
  coveredMs := 0
  unitCount := 0
  otherService := 0
  gapCount := 0
  tornCount := 0
  tornMark := false
  malformed := 0

/-- The activity and gating unit at an opening: the bank given collects, and the dead-air timer and the running sums are
0. The quiet start of a QUIET stretch becomes the station time of the opening (R86, R91, R92). -/
def openingActivity (bank : Option Bank) (now : Time) (ag : Activity) : Activity :=
  { collectIn bank ag with
    deadTimer := 0
    sumN := 0
    sumS := []
    quietStart := if ag.active then none else some now }

/-- Steps 1 to 6 of an opening: close, take the entry, bank, timers, recorder, report (R125). `rest` is the pending queue
once the entry has left it. -/
def openOne (e : Entry) (start : Time) (cause : Cause) (cuedEarly : Bool) (rest : List Entry) (s : State) : State :=
  let closed := openId s
  let s := closeEntry start false s
  let bank := freeBank s.ag
  let record := newRecord e start cause cuedEarly (s.cu.mode == .replay) bank s.ca.windowPresent
  let s := { s with su := { s.su with queue := rest, openEntry := some record }
                    ag := openingActivity bank s.tb.time s.ag
                    ca := { s.ca with gapTimer := 0 } }
  let s := noteOpening e.id s
  offer (.entryOpened record e.start closed rest.length) s

/-- The start compare is loaded or emptied; a firing offered for an earlier head is not acted on again (R43, R121). -/
def loadCompare (value : Option Time) (s : State) : State :=
  { s with tb := { s.tb with compare := value, firing := none } }

/-- A head that opens in the event in which it becomes head: its start has been reached, or it carries LATE_COMMIT. At
START only the start counts (R30, R118, log 18). -/
def opensAtOnce (atStart : Bool) (e : Entry) (now : Time) : Bool := reached now e.start || (e.lateCommit && !atStart)

/-- The cause of an opening by R118. -/
def headCause (e : Entry) : Cause := if e.lateCommit then .lateCommit else .compare

/-- Step 7 of an opening: further heads open in the same event, and the compare is loaded with the first that does not
(R118, R125). -/
def cascade (atStart : Bool) : List Entry → State → State
  | [], s => loadCompare none s
  | e :: rest, s =>
    if opensAtOnce atStart e s.tb.time then cascade atStart rest (openOne e s.tb.time (headCause e) false rest s)
    else loadCompare (some e.start) s

/-- The head opens with a given actual start and cause, and the opening goes on by step 7 (R125). -/
def openHead (start : Time) (cause : Cause) (cuedEarly : Bool) (s : State) : State :=
  match s.su.queue with
  | [] => s
  | e :: rest => cascade false rest (openOne e start cause cuedEarly rest s)

/-- The entry that START opens (R119, R30). -/
def defaultEntry (d : DefaultEntry) (now : Time) : Entry where
  id := 0
  cls := .programme
  start := now
  target := d.target
  tolerance := d.tolerance
  margin := d.margin
  required := d.required
  service := d.service
  gapLimit := d.gapLimit
  permille := d.permille
  deadAirLimit := d.deadAirLimit
  lateCommit := false

/-- START opens the default entry, then the heads whose starts have passed (R30). In LIVE each of these openings is told to
the recorder (R125 step 5), so a segment left FILLING takes the ids (log 38). -/
def openDefault (s : State) : State :=
  cascade true s.su.queue
    (openOne (defaultEntry s.su.defaults s.tb.time) s.tb.time .start false s.su.queue s)

/-! ### Firings and cues (R121 to R124, R178) -/

/-- The schedule unit takes a start-compare firing: the head opens at the compare time (R121). -/
def takeFiring (s : State) : State :=
  match s.tb.firing with
  | none => s
  | some t => openHead t .compare false { s with tb := { s.tb with firing := none } }

/-- The actual start of an entry that a cue opens: the captured time, or the actual start of the entry it closes when
the captured time is earlier than it (R122, R178). -/
def cueStart (captured : Time) (s : State) : Time :=
  match s.su.openEntry with
  | none => captured
  | some e => if earlier captured e.actualStart then e.actualStart else captured

/-- A cue is within the early window of a head (R122). -/
def cueInWindow (captured : Time) (e : Entry) (s : State) : Bool := since e.start captured ≤ s.tb.earlyWindow

/-- A stray cue is counted and reported (R122). -/
def strayCue (captured : Time) (s : State) : State :=
  let s := { s with su := { s.su with strayCues := satAdd s.su.strayCues 1 } }
  offer (.strayCue captured (s.su.queue.head?.map fun e => (e.id, e.start)) s.tb.earlyWindow s.su.strayCues) s

/-- The schedule unit judges a cue against the head of the pending queue (R122). -/
def judgeCue (captured : Time) (s : State) : State :=
  match s.su.queue with
  | [] => strayCue captured s
  | e :: _ =>
    if cueInWindow captured e s then
      openHead (cueStart captured s) .cue (earlier (cueStart captured s) e.start) s
    else strayCue captured s

/-- The schedule unit takes the oldest cue offered (R122, R124). -/
def takeCue (s : State) : State :=
  match s.tb.cues with
  | [] => s
  | captured :: rest => judgeCue captured { s with tb := { s.tb with cues := rest } }

/-! ### Scan completions (R96) -/

/-- A freed bank goes to an open entry that is unbanked (R96). -/
def giveFreedBank (bank : Bank) (s : State) : State :=
  match s.su.openEntry with
  | some e =>
    if e.bank = none then
      { s with su := { s.su with openEntry := some { e with bank := some bank } }
               ag := setBank bank ⟨.collecting, []⟩ s.ag }
    else s
  | none => s

/-- A scan completes: the verdict of its record, the bank cleared and FREE, and the bank given to an unbanked open entry
(R96, R131). -/
def completeScan (bank : Bank) (s : State) : State :=
  match slotOf s.su bank with
  | none => s
  | some slot =>
    let values := scanValues (bankOf s.ag bank).counts
    let s := buildVerdict slot.closed values.1 values.2 s
    let s := { s with su := setSlot bank none s.su, ag := setBank bank .cleared s.ag }
    giveFreedBank bank s

end Sys2Proof.Machine
end

