-- ==== Sys2Proof/Machine/Gating.lean ====
section
/-! DEFINITION. Programme activity, dead air, and the counting of gated blocks (06 sections 6.1 to 6.4). -/

namespace Sys2Proof.Machine

/-- A hold is asked for on behalf of the open entry if the policy of its class includes the reason (R81, R87, R109,
R120). -/
def askHold (e : OpenEntry) (reason : HoldReason) (start : Time) (s : State) : State :=
  if policyHolds s e.entry.cls reason then holdRequest ⟨reason, start, s.tb.time, e.entry.id⟩ s else s

/-! ### Activity (R83, R84) -/

/-- Both qualification counts become 0. -/
def clearCounts (ag : Activity) : Activity := { ag with onCount := 0, offCount := 0 }

/-- A dead-air episode is running: the entry is timed and the timer stands at or above its limit (R88). -/
def deadAirRunning (e : OpenEntry) (ag : Activity) : Bool :=
  0 < e.entry.deadAirLimit && e.entry.deadAirLimit ≤ ag.deadTimer

/-- The quiet start as reports and holds carry it. It is present whenever an entry is open and activity is QUIET (R82). -/
def quietStartOf (s : State) : Time := s.ag.quietStart.getD s.tb.time

/-- Activity becomes ACTIVE: a running episode ends with DEAD_AIR_END, and the timer becomes 0 (R83, R88). -/
def becomeActive (s : State) : State :=
  let s := match s.su.openEntry with
    | some e =>
      if deadAirRunning e s.ag then offer (.deadAirEnd e.entry.id (quietStartOf s) s.ag.deadTimer s.tb.time) s else s
    | none => s
  { s with ag := { clearCounts s.ag with active := true, quietStart := none, deadTimer := 0 } }

/-- Activity becomes QUIET at a completion (R83). -/
def becomeQuiet (s : State) : State :=
  { s with ag := { clearCounts s.ag with
      active := false
      quietStart := if s.su.openEntry.isSome then some s.tb.time else s.ag.quietStart } }

/-- The activity decision at a sub-block completion (R83). -/
def decideActivity (level : Option Int) (s : State) : State :=
  match level with
  | none => { s with ag := clearCounts s.ag }
  | some l =>
    if s.ag.tOn ≤ l then
      if s.ag.active then { s with ag := { s.ag with offCount := 0 } }
      else if s.ag.onCount + 1 < s.ag.qOn then
        { s with ag := { s.ag with onCount := s.ag.onCount + 1, offCount := 0 } }
      else becomeActive s
    else if s.ag.tOff ≤ l then { s with ag := clearCounts s.ag }
    else if s.ag.active then
      if s.ag.offCount + 1 < s.ag.qOff then
        { s with ag := { s.ag with onCount := 0, offCount := s.ag.offCount + 1 } }
      else becomeQuiet s
    else { s with ag := { s.ag with onCount := 0 } }

/-- The engine's entry into STALLED forces QUIET (R84). -/
def forceQuiet (now : Time) (ag : Activity) : Activity :=
  { clearCounts ag with
    active := false
    quietStart := if ag.active then some now else ag.quietStart }

/-- The activity and gating unit at a change to OFF (R84, R86, R92). -/
def quietForOff (ag : Activity) : Activity :=
  { clearCounts ag with active := false, quietStart := none, deadTimer := 0, sumN := 0, sumS := [] }

/-- The activity and gating unit at START (R84, R86, R92). -/
def quietForStart (now : Time) (ag : Activity) : Activity := { quietForOff ag with quietStart := some now }

/-- A bank that is not SCANNING is cleared and left FREE (R33, R97). -/
def clearUnlessScanning (b : HistBank) : HistBank := if b.state = .scanning then b else .cleared

/-! ### Dead air (R86, R87) -/

/-- The dead-air timer counts this tick (R86). -/
def deadAirCounts (s : State) : Bool :=
  match s.su.openEntry with
  | some e => 0 < e.entry.deadAirLimit && !s.ag.active && (s.ao.engine == .measuring || s.ao.engine == .stalled)
  | none => false

/-- This tick would bring the dead-air timer to the entry's limit (R87). -/
def deadAirReaches (s : State) : Bool :=
  match s.su.openEntry with
  | some e => deadAirCounts s && capInc Config.timerCap s.ag.deadTimer == e.entry.deadAirLimit
  | none => false

/-- A dead-air episode begins (R87). -/
def beginDeadAir (s : State) : State :=
  match s.su.openEntry with
  | none => s
  | some e =>
    let s := modifyOpen (fun e => { e with deadAirCount := satAdd e.deadAirCount 1 }) s
    let s := offer (.deadAir e.entry.id (quietStartOf s) e.entry.deadAirLimit s.tb.time) s
    askHold e .deadAir (quietStartOf s) s

/-- The activity and gating unit takes a tick (R86, R87). -/
def activityTick (s : State) : State :=
  if deadAirCounts s then
    let reaches := deadAirReaches s
    let s := { s with ag := { s.ag with deadTimer := capInc Config.timerCap s.ag.deadTimer } }
    if reaches then beginDeadAir s else s
  else s

/-! ### Gating (R89 to R93) -/

/-- A level passes the absolute gate (R89). -/
def passesGate (l : Int) : Bool := -699 ≤ l

/-- A block is counted into the bank and the running sums (R89, R92). -/
def countBlock (bank : Bank) (bin : Nat) (ag : Activity) : Activity :=
  let ag := setBank bank { bankOf ag bank with counts := binAdd (bankOf ag bank).counts bin } ag
  { ag with sumN := ag.sumN + 1, sumS := binAdd ag.sumS bin }

/-- A block is missed: the count rises and PARTIAL is set (R93). -/
def missBlock (e : OpenEntry) : OpenEntry := { e with missed := satAdd e.missed 1, isPartial := true }

/-- The block of a completion is offered to gating (R89, R93). -/
def gateBlock (level : Option Int) (attributed : Bool) (s : State) : State :=
  match level, s.su.openEntry with
  | some l, some e =>
    if attributed && passesGate l then
      match e.bank with
      | some bank =>
        if binCount (bankOf s.ag bank).counts (binOf l) < Config.binCap then
          { s with ag := countBlock bank (binOf l) s.ag }
        else modifyOpen missBlock s
      | none => modifyOpen missBlock s
    else s
  | _, _ => s

/-- The running value of the open entry (R92). -/
def runningValue (s : State) : Option Int := if s.ag.sumN = 0 then none else histogramLevel s.ag.sumS

end Sys2Proof.Machine
end

