-- ==== Sys2Proof/Machine/CaptionUnit.lean ====
section
/-! DEFINITION. Caption presence: assembling units, the qualifying test, and the gap timer (07). -/

namespace Sys2Proof.Machine

/-! ### The header (R101, 11 section 11.5) -/

/-- The unit that a whole first header beat begins, or none when the beat is malformed (R101). -/
def headerUnit (offset : Nat) (b : WBeat) : Option UnitShadow :=
  let length := byteField b.data 0 2
  let service := byteField b.data 3 1 % 64
  let chars := byteField b.data 4 2
  match captionKindOfCode (byteField b.data 2 1) with
  | none => none
  | some kind =>
    if b.enables = 0xFF ∧ 16 ≤ length ∧ length ≤ 1024 ∧ length % 8 = 0 ∧ service ≠ 0 ∧ chars ≤ 500 then
      some ⟨offset, length, kind, service, chars, none, 1⟩
    else none

/-- The assembler returns to WAIT_HEADER with no unit in progress (R98). -/
def waitHeader (ca : Caption) : Caption := { ca with collecting := false, shadow := none, expected := none }

/-- A beat taken in WAIT_HEADER begins a unit or is malformed (R101). -/
def takeHeader (offset : Nat) (b : WBeat) (s : State) : State :=
  match headerUnit offset b with
  | some u => { s with ca := { s.ca with collecting := true, shadow := some u, expected := some (offset + 8) } }
  | none => modifyOpen (fun e => { e with malformed := satAdd e.malformed 1 }) s

/-! ### Commit (R104, R105, R110) -/

/-- The gap start of an episode: the later of the last qualifying time and the actual start (R109). -/
def gapStart (e : OpenEntry) (ca : Caption) : Time :=
  match ca.lastQualifying with
  | none => e.actualStart
  | some t => latest t e.actualStart

/-- A gap episode is running for the entry (R105). -/
def gapRunning (e : OpenEntry) (ca : Caption) : Bool := e.entry.required && e.entry.gapLimit ≤ ca.gapTimer

/-- A unit qualifies for the open entry (R104). -/
def qualifies (u : UnitShadow) (e : OpenEntry) : Bool :=
  u.kind == .text && 1 ≤ u.chars && u.service == e.entry.service

/-- A qualifying unit ends a running episode, restarts the timer, captures its time and is counted (R105, R110). -/
def takeQualifying (u : UnitShadow) (e : OpenEntry) (s : State) : State :=
  let s := if gapRunning e s.ca then
      offer (.captionGapEnd e.entry.id (gapStart e s.ca) s.ca.gapTimer s.tb.time (u.decoderTime.getD Config.absentStamp)) s
    else s
  let s := { s with ca := { s.ca with gapTimer := 0, lastQualifying := some s.tb.time } }
  modifyOpen (fun e => { e with unitCount := satAdd e.unitCount 1 }) s

/-- A committed unit is judged against the open entry (R104). -/
def commitUnit (u : UnitShadow) (s : State) : State :=
  match s.su.openEntry with
  | none => s
  | some e =>
    if qualifies u e then takeQualifying u e s
    else if u.service ≠ e.entry.service then modifyOpen (fun e => { e with otherService := satAdd e.otherService 1 }) s
    else s

/-! ### Collecting and tearing (R102, R103, R106) -/

/-- The unit in progress with one more beat; the second beat gives the decoder time (R103). -/
def growUnit (u : UnitShadow) (b : WBeat) : UnitShadow :=
  { u with collected := u.collected + 1
           decoderTime := if u.collected = 1 then some (BitVec.ofNat 32 (byteField b.data 0 4)) else u.decoderTime }

/-- A whole beat at the expected address continues the unit, and commits it when it is complete (R103). -/
def continueUnit (u : UnitShadow) (offset : Nat) (b : WBeat) (s : State) : State :=
  let u := growUnit u b
  if u.length / 8 ≤ u.collected then commitUnit u { s with ca := waitHeader s.ca }
  else { s with ca := { s.ca with shadow := some u, expected := some (offset + 8) } }

/-- A tear discards the unit, counts it, and reports the first of the entry (R102, R106). -/
def tearUnit (u : UnitShadow) (offset : Nat) (s : State) : State :=
  let s := { s with ca := waitHeader s.ca }
  match s.su.openEntry with
  | none => s
  | some e =>
    let s := modifyOpen (fun e => { e with tornCount := satAdd e.tornCount 1, tornMark := true }) s
    if e.tornMark then s else offer (.captionTorn e.entry.id u offset s.tb.time) s

/-- The caption unit takes one beat (R100 to R103). -/
def captionBeatEvent (c : CaptionBeat) (s : State) : State :=
  if c.beat.enables = 0 then s
  else
    match s.ca.collecting, s.ca.shadow with
    | true, some u =>
      if c.beat.enables = 0xFF ∧ s.ca.expected = some c.offset then continueUnit u c.offset c.beat s
      else takeHeader c.offset c.beat (tearUnit u c.offset s)
    | _, _ => takeHeader c.offset c.beat s

/-- The caption unit takes the oldest beat handed to it. -/
def takeCaption (s : State) : State :=
  match s.ca.inbox with
  | [] => s
  | c :: rest => captionBeatEvent c { s with ca := { s.ca with inbox := rest } }

/-! ### The gap timer (R107 to R109) -/

/-- The gap timer runs on this tick (R107). -/
def gapRuns (s : State) : Bool :=
  match s.su.openEntry with
  | some e => e.entry.required && s.ag.active && s.ca.windowPresent
  | none => false

/-- This tick would bring the gap timer to the entry's gap limit (R108). -/
def gapReaches (s : State) : Bool :=
  match s.su.openEntry with
  | some e => gapRuns s && s.ca.gapTimer < e.entry.gapLimit && capInc Config.timerCap s.ca.gapTimer == e.entry.gapLimit
  | none => false

/-- A gap episode begins (R108, R109). -/
def beginGap (s : State) : State :=
  match s.su.openEntry with
  | none => s
  | some e =>
    let s := modifyOpen (fun e => { e with gapCount := satAdd e.gapCount 1 }) s
    let s := offer (.captionGap e.entry.id e.entry.service (gapStart e s.ca) e.entry.gapLimit s.tb.time) s
    askHold e .caption (gapStart e s.ca) s

/-- What a running tick adds to the open entry (R107). -/
def captionMs (gapTimer : Nat) (e : OpenEntry) : OpenEntry :=
  { e with activeMs := capInc Config.timerCap e.activeMs
           coveredMs := if gapTimer < e.entry.gapLimit then capInc Config.timerCap e.coveredMs else e.coveredMs }

/-- The caption unit takes a tick (R107, R108). -/
def captionTick (s : State) : State :=
  if gapRuns s then
    let reaches := gapReaches s
    let s := modifyOpen (captionMs s.ca.gapTimer) s
    let s := { s with ca := { s.ca with gapTimer := capInc Config.timerCap s.ca.gapTimer } }
    if reaches then beginGap s else s
  else s

/-! ### Events from outside the caption stream (R99) -/

/-- The caption unit at a change to OFF (R99). -/
def captionForOff (ca : Caption) : Caption := { waitHeader ca with gapTimer := 0 }

/-- The caption unit at START and RESTART (R99). -/
def captionForStart (ca : Caption) : Caption := { captionForOff ca with lastQualifying := none }

/-- The caption unit is told that the CAPTION window has changed (R99). -/
def captionWindowChanged (present : Bool) (ca : Caption) : Caption :=
  { captionForStart ca with windowPresent := present }

end Sys2Proof.Machine
end

