-- ==== Sys2Proof/Machine/Audio.lean ====
section
/-! DEFINITION. Audio observation: the stream descriptor, the sample words, sub-blocks and their completion, and stalls
(04), with the loudness unit's part of a completion (05 sections 5.4 to 5.7). -/

namespace Sys2Proof.Machine

/-! ### Abandonment (R64, R74, R84) -/

/-- An abandonment discards the sub-block in progress and empties the history; the held levels become none and the
activity counts 0 (R64, R74, R84). -/
def abandon (s : State) : State :=
  { s with ao := { s.ao with sub := none, history := [] }
           lu := { s.lu with momentary := none, shortTerm := none }
           ag := clearCounts s.ag }

/-- Every channel's filter state is cleared (R62). -/
def clearFilters (ao : AudioObs) : AudioObs := { ao with filters := Vector.replicate 8 .clear }

/-- The observer is IDLE with nothing taken (R51). `shadow` is what the event leaves in the descriptor shadow. -/
def idleObserver (shadow : Vector Beat 8) (ao : AudioObs) : AudioObs :=
  { clearFilters ao with
    shadow := shadow, taken := none, engine := .idle, expected := none, channel := 0, stallCount := 0 }

/-- The descriptor shadow of all zeros (R50). -/
def zeroShadow : Vector Beat 8 := Vector.replicate 8 0

/-! ### The stream descriptor (R53 to R56) -/

/-- Decodes the shadow (R54, 11 section 11.4). -/
def decodeDescriptor (shadow : Vector Beat 8) : Descriptor :=
  let count := byteField shadow[0] 2 1
  let valid := 1 ≤ count ∧ count ≤ 8
  { coding := if valid then codingOfCode (byteField shadow[0] 0 1) else .none
    rate := rateOfCode (byteField shadow[0] 1 1)
    channels := if valid then count else 0
    roles := Vector.ofFn fun k => if k.val < count ∧ valid then roleOfCode (byteField shadow[1] k.val 1) else .other
    generation := BitVec.ofNat 16 (byteField shadow[7] 0 2) }

/-- The part measures PCM at 48000 only (R54). -/
def measurable (d : Descriptor) : Bool := d.coding == .pcm && d.rate == .r48000

/-- AUDIO_STATE is offered with the engine state before the event (R56). -/
def offerAudioState (cause : AudioCause) (before : Engine) (s : State) : State :=
  offer (.audioState cause before s.ao.engine s.ao.taken (openId s) s.tb.time) s

/-- A take (R55). -/
def takeDescriptor (s : State) : State :=
  let before := s.ao.engine
  let d := decodeDescriptor s.ao.shadow
  let s := abandon s
  let s := { s with ao := { clearFilters s.ao with
      taken := some d
      channel := 0
      expected := none
      stallCount := 0
      engine := if measurable d then .measuring else .unmeasurable } }
  offerAudioState .descriptor before s

/-- A beat of the descriptor area: its enabled bytes go into the shadow, and a whole beat at 0x38 takes (R53). -/
def descriptorBeatEvent (offset : Nat) (b : WBeat) (s : State) : State :=
  let old := s.ao.shadow[offset / 8]?.getD 0
  let shadow := s.ao.shadow.setIfInBounds (offset / 8) (mergeBytes old b.data b.enables)
  let s := { s with ao := { s.ao with shadow := shadow } }
  if offset = 0x38 ∧ b.enables = 0xFF then takeDescriptor s else s

/-! ### Filtering and summing (R62, R67, R70, R71) -/

/-- The filter state of a channel. -/
def filterOf (ao : AudioObs) (c : Nat) : ChannelFilter := ao.filters[c]?.getD .clear

/-- The output of stage 1 for the next sample of a channel (R67). -/
def stage1Out (s : State) (c : Nat) (v : Int) : Int := stageOut s.lu.stage1 (filterOf s.ao c).stage1 (sampleInput v)

/-- The weighted sample: stage 2's output for the next sample of a channel (R67). -/
def weightedSample (s : State) (c : Nat) (v : Int) : Int :=
  stageOut s.lu.stage2 (filterOf s.ao c).stage2 (stage1Out s c v)

/-- The number of saturations a sample makes, 0 to 2 (R70). -/
def saturationsOf (s : State) (c : Nat) (v : Int) : Nat :=
  bit (stageSaturates s.lu.stage1 (filterOf s.ao c).stage1 (sampleInput v))
    + bit (stageSaturates s.lu.stage2 (filterOf s.ao c).stage2 (stage1Out s c v))

/-- The filter state of a channel after a sample (R67). -/
def filterNext (s : State) (c : Nat) (v : Int) : ChannelFilter :=
  ⟨stageNext s.lu.stage1 (filterOf s.ao c).stage1 (sampleInput v),
   stageNext s.lu.stage2 (filterOf s.ao c).stage2 (stage1Out s c v)⟩

/-- A sub-block with one more sample of a channel (R62). -/
def addSample (c : Nat) (weighted v : Int) (b : SubBlock) : SubBlock :=
  { b with energy := b.energy.setIfInBounds c (b.energy[c]?.getD 0 + (weighted * weighted).toNat)
           peak := b.peak.setIfInBounds c (max (b.peak[c]?.getD 0) v.natAbs) }

/-- A sample is filtered and summed into a sub-block (R62, R70). -/
def sumSample (b : SubBlock) (c : Nat) (v : Int) (s : State) : State :=
  let s' := { s with ao := { s.ao with
      sub := some (addSample c (weightedSample s c v) v b)
      filters := s.ao.filters.setIfInBounds c (filterNext s c v) } }
  modifyOpen (fun e => { e with saturations := satAdd e.saturations (saturationsOf s c v) }) s'

/-- A sub-block that begins (R62). -/
def emptySubBlock : SubBlock := ⟨0, Vector.replicate 8 0, Vector.replicate 8 0⟩

/-! ### Sample words (R57 to R61) -/

/-- A discontinuity or a partial word: the measurement in progress is given up and counted (R58, R59). -/
def breakStream (s : State) : State :=
  let s := abandon s
  let s := { s with ao := { clearFilters s.ao with channel := 0 } }
  modifyOpen (fun e => { e with discontinuities := satAdd e.discontinuities 1 }) s

/-- A whole word is in place (R58). -/
def inPlace (offset : Nat) (ao : AudioObs) : Bool :=
  ao.expected == none || ao.expected == some offset || offset == 0x40

/-- The channel count of the taken descriptor. -/
def channelCount (ao : AudioObs) : Nat := (ao.taken.map (·.channels)).getD 0

/-- A word at the present channel index ends a frame (R60). -/
def endsFrame (ao : AudioObs) : Bool := channelCount ao ≤ ao.channel + 1

/-- A complete frame signals the time base: in REPLAY the residue moves on, and the 48th makes a tick, which is taken
after the rest of the word's event (R39). -/
def frameAccepted (s : State) : State :=
  if s.cu.mode = .replay then
    if s.tb.residue < 47 then { s with tb := { s.tb with residue := s.tb.residue + 1 } }
    else { s with tb := { s.tb with residue := 0, frameTick := true } }
  else s

/-- The frame is advanced by the word just assigned (R60). -/
def advanceFrame (s : State) : State :=
  if endsFrame s.ao then
    let s := { s with ao := { s.ao with channel := 0 } }
    match s.ao.sub with
    | some b => frameAccepted { s with ao := { s.ao with sub := some { b with frames := b.frames + 1 } } }
    | none => s
  else { s with ao := { s.ao with channel := s.ao.channel + 1 } }

/-- A word is accepted: steps 1 and 2, the return from STALLED (R57, R61). -/
def resumeEngine (s : State) : State :=
  let before := s.ao.engine
  let s := { s with ao := { s.ao with engine := .measuring, stallCount := 0 } }
  if before = .stalled then offerAudioState .resume before s else s

/-- A word is accepted: steps 3 and 4, the sample (R57). -/
def acceptSample (v : Int) (s : State) : State :=
  match s.ao.sub with
  | some b => sumSample b s.ao.channel v s
  | none => if s.ao.channel = 0 then sumSample emptySubBlock 0 v s else s

/-- A whole word is accepted (R57). -/
def acceptWord (offset : Nat) (data : BitVec 32) (s : State) : State :=
  let s := advanceFrame (acceptSample (sampleValue data) (resumeEngine s))
  { s with ao := { s.ao with expected := some (offset + 4) } }

/-- A presented word (R57 to R59). -/
def sampleWordEvent (offset : Nat) (data : BitVec 32) (enables : BitVec 4) (s : State) : State :=
  match s.ao.engine with
  | .idle | .unmeasurable => s
  | .measuring | .stalled =>
    if enables = 0xF then
      acceptWord offset data (if inPlace offset s.ao then s else breakStream s)
    else
      let s := breakStream s
      { s with ao := { s.ao with expected := none } }

/-- The observer takes one beat or word handed to it (R52). -/
def audioItemEvent (i : AudioItem) (s : State) : State :=
  match i with
  | .descriptor offset b => descriptorBeatEvent offset b s
  | .word offset data enables => sampleWordEvent offset data enables s

/-! ### Sub-block completion (R63, R65, R76 to R81) -/

/-- The default weight of a role, in thousandths (R65). -/
def roleWeight : Role → Nat
  | .l | .r | .c => 1000
  | .ls | .rs => 1410
  | .lfe | .other => 0

/-- The effective weight of a channel position (R65). -/
def effectiveWeight (lu : Loudness) (d : Descriptor) (c : Nat) : Nat :=
  match lu.overrides[c]?.getD none with
  | some w => w
  | none => roleWeight (d.roles[c]?.getD .other)

/-- The weighted sum of a sub-block over the channels below the channel count (R63, R71). -/
def weightedSum (lu : Loudness) (d : Descriptor) (b : SubBlock) : Nat :=
  ((List.range d.channels).map fun c => effectiveWeight lu d c * b.energy[c]?.getD 0).sum

/-- The history with a new energy; the oldest leaves a history of 30 (R63). -/
def pushHistory (w : Nat) (history : List Nat) : List Nat :=
  (if Config.historyDepth ≤ history.length then history.drop 1 else history) ++ [w]

/-- The entry peak magnitudes after a sub-block (R76). -/
def mergePeaks (b : SubBlock) (e : OpenEntry) : OpenEntry :=
  { e with peaks := Vector.ofFn fun c => max e.peaks[c] b.peak[c] }

/-- A momentary block of the open entry is attributed to it (R78). -/
def momentaryAttributed (s : State) : Bool :=
  match s.su.openEntry with
  | some e => Config.momentaryBlocks ≤ e.subBlocks.toNat
  | none => false

/-- A short-term block of the open entry is attributed to it (R79). -/
def shortTermAttributed (s : State) : Bool :=
  match s.su.openEntry with
  | some e => Config.historyDepth ≤ e.subBlocks.toNat
  | none => false

/-- An attributed short-term level is compared with the ceiling (R80, R81). -/
def checkCeiling (level : Int) (s : State) : State :=
  match s.su.openEntry with
  | none => s
  | some e =>
    let ceiling := e.entry.target + e.entry.margin
    if 0 < e.entry.margin ∧ ceiling < level then
      let s := modifyOpen (fun e => { e with overCount := satAdd e.overCount 1, overMark := true }) s
      if e.overMark then s
      else
        let s := offer (.shortTermOver e.entry.id level ceiling s.tb.time) s
        askHold e .shortTerm (s.tb.time - 3000) s
    else s

/-- Step 2 of a completion: the momentary level and its attribution (R77, R78). -/
def momentaryStep (s : State) : State :=
  let level := blockLevel Config.momentaryBlocks s.ao.history s.lu.calibration
  let s := { s with lu := { s.lu with momentary := level } }
  match level with
  | some l =>
    if momentaryAttributed s then modifyOpen (fun e => { e with maxMomentary := maxLevel e.maxMomentary l }) s else s
  | none => s

/-- Step 3 of a completion: the short-term level, its attribution and the ceiling (R77, R79, R80). -/
def shortTermStep (s : State) : State :=
  let level := blockLevel Config.historyDepth s.ao.history s.lu.calibration
  let s := { s with lu := { s.lu with shortTerm := level } }
  match level with
  | some l =>
    if shortTermAttributed s then
      checkCeiling l (modifyOpen (fun e => { e with maxShortTerm := maxLevel e.maxShortTerm l }) s)
    else s
  | none => s

/-- The completion of a sub-block, once its energy has joined the history (R63, R77, R83, R89, R144). -/
def completionTail (b : SubBlock) (s : State) : State :=
  let s := modifyOpen (fun e => mergePeaks b { e with subBlocks := satAdd e.subBlocks 1 }) s
  let s := shortTermStep (momentaryStep s)
  let s := noteShortTerm s
  let s := decideActivity s.lu.momentary s
  gateBlock s.lu.momentary (momentaryAttributed s) s

/-- The last word of the 4800th complete frame has been taken and the completion is due (R63, log 5). -/
def completionDue (s : State) : Bool :=
  match s.ao.sub, s.ao.taken with
  | some b, some _ => Config.subBlockFrames ≤ b.frames
  | _, _ => false

/-- The sub-block in progress completes, if its completion is due (R63). -/
def completeSubBlock (s : State) : State :=
  match s.ao.sub, s.ao.taken with
  | some b, some d =>
    if Config.subBlockFrames ≤ b.frames then
      completionTail b
        { s with ao := { s.ao with sub := none, history := pushHistory (weightedSum s.lu d b) s.ao.history } }
    else s
  | _, _ => s

/-! ### Stalls (R61) -/

/-- This tick would bring the stall count of a MEASURING stream to 500 (R61). -/
def stallReaches (s : State) : Bool := s.ao.engine == .measuring && s.ao.stallCount + 1 == Config.stallTicks

/-- The engine enters STALLED, and activity is forced QUIET (R61, R84). -/
def enterStalled (s : State) : State :=
  let s := abandon s
  let s := { s with ao := { clearFilters s.ao with engine := .stalled }, ag := forceQuiet s.tb.time s.ag }
  offerAudioState .stall .measuring s

/-- The audio observer takes a tick (R61). -/
def observerTick (s : State) : State :=
  if s.ao.engine = .measuring then
    let reaches := stallReaches s
    let s := { s with ao := { s.ao with stallCount := s.ao.stallCount + 1 } }
    if reaches then enterStalled s else s
  else s

end Sys2Proof.Machine
end

