-- ==== Sys2Proof/Machine/Clock.lean ====
section
/-! DEFINITION. Station time, the tick and who takes it, the CUE qualifier, the start compare and TALLY (03), and what is
taken before the next event: a due completion, a REPLAY tick, offers left over from the tick before (log 4, log 5). -/

namespace Sys2Proof.Machine

/-! ### TALLY (R47, R48) -/

/-- The TALLY function level (R47). -/
def tallyFunction (s : State) : Bool :=
  match s.su.openEntry with
  | none => false
  | some e => gapRunning e s.ca || deadAirRunning e s.ag || e.overMark

/-- The TALLY output is asserted (R47, R48). -/
def tallyAsserted (s : State) : Bool :=
  match s.tb.force with
  | .function => tallyFunction s
  | .off => false
  | .on => true

/-! ### The CUE qualifier (R44, R45) -/

/-- The run count and run start are cleared. -/
def clearRun (tb : TimeBase) : TimeBase := { tb with cueRun := 0, cueStart := none }

/-- The qualifier is unseeded, with Q as it stands (R44). -/
def unseedCue (tb : TimeBase) : TimeBase := { clearRun tb with cueLevel := none }

/-- One sample of CUE in LIVE, taken after station time has advanced (R44, R45). -/
def sampleCue (high : Bool) (tb : TimeBase) : TimeBase :=
  match tb.cueLevel with
  | none => { clearRun tb with cueLevel := some high }
  | some level =>
    if level = high then clearRun tb
    else
      let start := if tb.cueRun = 0 then tb.time else tb.cueStart.getD tb.time
      if tb.cueQ ≤ tb.cueRun + 1 then
        { clearRun tb with cueLevel := some high, cues := if high then tb.cues ++ [start] else tb.cues }
      else { tb with cueRun := tb.cueRun + 1, cueStart := some start }

/-! ### The start compare (R43) -/

/-- The compare is tested after a tick: when station time has reached the held value it fires and is empty (R43). -/
def testCompare (tb : TimeBase) : TimeBase :=
  match tb.compare with
  | some v => if reached tb.time v then { tb with compare := none, firing := some v } else tb
  | none => tb

/-- The time base's own part of a tick (R37, R43, R44). -/
def advanceTime (mode : Mode) (cueHigh : Bool) (tb : TimeBase) : TimeBase :=
  let tb := { tb with time := tb.time + 1 }
  match mode with
  | .off => tb
  | .live => testCompare (sampleCue cueHigh tb)
  | .replay => testCompare tb

/-! ### The blocks that take ticks (R37) -/

/-- The schedule unit takes a tick (R128). -/
def scheduleTick (s : State) : State :=
  modifyOpen (fun e =>
    if s.ao.engine = .measuring then { e with measuredMs := satAdd e.measuredMs 1 }
    else { e with unmeasuredMs := satAdd e.unmeasuredMs 1 }) s

/-- This tick would bring the image tick count to 100 (R170). -/
def imageReaches (ru : Reports) : Bool := ru.imageTicks + 1 == 100

/-- The report unit takes a tick (R170). -/
def reportTick (ru : Reports) : Reports :=
  if imageReaches ru then { ru with imageTicks := 0, imageDue := true } else { ru with imageTicks := ru.imageTicks + 1 }

/-- The ticks owed to blocks are set to a new set. -/
def setOwed (o : TickSet) (s : State) : State := { s with tb := { s.tb with owed := o } }

/-- The audio observer takes the tick it is owed (R61). -/
def takeObserverTick (s : State) : State :=
  if s.tb.owed.ao then observerTick (setOwed { s.tb.owed with ao := false } s) else s

/-- The activity and gating unit takes the tick it is owed (R86). -/
def takeActivityTick (s : State) : State :=
  if s.tb.owed.ag then activityTick (setOwed { s.tb.owed with ag := false } s) else s

/-- The caption unit takes the tick it is owed (R107). -/
def takeCaptionTick (s : State) : State :=
  if s.tb.owed.ca then captionTick (setOwed { s.tb.owed with ca := false } s) else s

/-- The schedule unit takes the tick it is owed (R128). -/
def takeScheduleTick (s : State) : State :=
  if s.tb.owed.su then scheduleTick (setOwed { s.tb.owed with su := false } s) else s

/-- The report unit takes the tick it is owed (R170). -/
def takeReportTick (s : State) : State :=
  if s.tb.owed.ru then
    let s := setOwed { s.tb.owed with ru := false } s
    { s with ru := reportTick s.ru }
  else s

/-- Every tick still owed is taken, in the order of the blocks (log 7). -/
def takeOwedTicks (s : State) : State :=
  takeReportTick (takeScheduleTick (takeCaptionTick (takeActivityTick (takeObserverTick s))))

/-- The tick is offered to the five blocks (R37). A block takes it in this event, unless `later` names it or the tick is
one that begins an event of its own: STALL, DEAD_AIR, CAPTION_GAP or IMAGE_DUE (log 4). -/
def offerTick (later : TickSet) (s : State) : State :=
  let now : TickSet :=
    ⟨!later.ao && !stallReaches s, !later.ag && !deadAirReaches s, !later.ca && !gapReaches s, !later.su,
     !later.ru && !imageReaches s.ru⟩
  let s := takeOwedTicks (setOwed now s)
  setOwed ⟨!now.ao, !now.ag, !now.ca, !now.su, !now.ru⟩ s

/-! ### Offers left over (log 4, log 6, log 7) -/

/-- Every cue offered and not yet taken is judged, oldest first. -/
def takeCues : List Time → State → State
  | [], s => s
  | captured :: rest, s => takeCues rest (judgeCue captured { s with tb := { s.tb with cues := rest } })

/-- What earlier ticks offered and no block has taken is taken: ticks, then the firing, then cues (log 7). -/
def takeOffers (s : State) : State :=
  let s := takeFiring (takeOwedTicks s)
  takeCues s.tb.cues s

/-! ### Scans and their bounds (R94, log 8) -/

/-- A scan may wait no longer: no tick is left to it. -/
def tickExpired (slot : Option ClosingSlot) : Bool :=
  match slot with
  | some c => c.left == .ticks 0
  | none => false

/-- A scan begun in REPLAY may not outlast n more edges. -/
def edgeExpired (n : Nat) (slot : Option ClosingSlot) : Bool :=
  match slot with
  | some c => match c.left with
    | .edges k => k ≤ n
    | .ticks _ => false
  | none => false

/-- The scans that may wait no longer complete, A before B. -/
def forceScans (expired : Option ClosingSlot → Bool) (s : State) : State :=
  let s := if expired s.su.slotA then completeScan .a s else s
  if expired s.su.slotB then completeScan .b s else s

/-- A slot's scan after one tick. -/
def tickSlot (c : ClosingSlot) : ClosingSlot :=
  match c.left with
  | .ticks n => { c with left := .ticks (n - 1) }
  | .edges _ => c

/-- A slot's scan after n edges of REF_CLK. -/
def edgeSlot (n : Nat) (c : ClosingSlot) : ClosingSlot :=
  match c.left with
  | .ticks _ => c
  | .edges k => { c with left := .edges (k - n) }

/-- An update of both closing slots. -/
def mapSlots (f : ClosingSlot → ClosingSlot) (s : State) : State :=
  { s with su := { s.su with slotA := s.su.slotA.map f, slotB := s.su.slotB.map f } }

/-! ### Ticks and edges (R37 to R39) -/

/-- One tick: what the tick before left over is taken, scans at their bound complete, station time advances, and the tick
is offered to the blocks (R37, R94). -/
def tickEvent (cueHigh : Bool) (later : TickSet) (s : State) : State :=
  let s := forceScans tickExpired (takeOffers s)
  let s := mapSlots tickSlot { s with tb := advanceTime s.cu.mode cueHigh s.tb }
  offerTick later s

/-- Of two scans begun in REPLAY, that of bank B is at its bound before that of bank A. -/
def boundsBFirst (su : Schedule) : Bool :=
  match su.slotA.map ClosingSlot.left, su.slotB.map ClosingSlot.left with
  | some (.edges a), some (.edges b) => b < a
  | _, _ => false

/-- n rising edges of REF_CLK pass for the scans begun in REPLAY: those at their bound complete, the one with the fewer
edges left first (R94). -/
def passEdges (n : Nat) (s : State) : State :=
  let s := if boundsBFirst s.su && edgeExpired n s.su.slotB then completeScan .b s else s
  mapSlots (edgeSlot n) (forceScans (edgeExpired n) s)

/-- A rising edge of REF_CLK (R38). -/
def edgeEvent (cueHigh : Bool) (later : TickSet) (s : State) : State :=
  let s := passEdges 1 s
  if s.cu.mode = .replay then s
  else if s.tb.prescale + 1 < s.tb.divisor then { s with tb := { s.tb with prescale := s.tb.prescale + 1 } }
  else tickEvent cueHigh later { s with tb := { s.tb with prescale := 0 } }

/-- The tick made by a REPLAY frame is taken, if there is one (R39). -/
def takeFrameTick (later : TickSet) (s : State) : State :=
  if s.tb.frameTick then tickEvent false later { s with tb := { s.tb with frameTick := false } } else s

/-- What belongs to the event of a word already taken: its sub-block completion, then its tick (R39, R63, log 5). -/
def settleWord (s : State) : State := takeFrameTick .none (completeSubBlock s)

/-- The audio observer takes the oldest item handed to it, after the completion due from the item before. -/
def takeAudio (s : State) : State :=
  let s := settleWord s
  match s.ao.inbox with
  | [] => s
  | i :: rest => audioItemEvent i { s with ao := { s.ao with inbox := rest } }

/-- A step repeated n times. -/
def repeatStep (f : State → State) : Nat → State → State
  | 0, s => s
  | n + 1, s => repeatStep f n (f s)

/-- Everything handed or offered before a change of mode is taken before the change (log 6). DESIGN CHOICE, unsafe: the spec
gives no order among what is left over, and the model takes first all audio items, oldest first, each with the sub-block
completion and the REPLAY tick that it makes due, then all caption beats, oldest first, then the ticks still owed, the firing
and the cues (R31, R105, R135, log 7). -/
def drainOffers (s : State) : State :=
  let s := settleWord (repeatStep takeAudio s.ao.inbox.length s)
  takeOffers (repeatStep takeCaption s.ca.inbox.length s)

/-! ### How a step meets RESET_N and a word's event -/

/-- A step of the part: nothing happens while RESET_N is asserted (R17, R177, log 11), and what belongs to the event of a
word already taken comes first (log 5). -/
def running (s : State) (event : State → State) : Host.Outcome State Fault Refusal :=
  .next (if s.resetAsserted then s else event (settleWord s))

end Sys2Proof.Machine
end

