-- ==== Sys2Proof/Machine/Commands.lean ====
section
/-! DEFINITION. Carrying out the head of the command queue (02 sections 2.4 to 2.7), and the commands of the command unit,
the time base, the report unit, the schedule unit, the loudness unit and the activity and gating unit. WINDOW stands in
Machine/MemoryPath.lean and the archive commands in Machine/Archive.lean. -/

namespace Sys2Proof.Machine

/-! ### Outcomes (R24, R25, R27) -/

/-- The COMMAND_DONE of an item (R27). -/
def doneReport (it : CmdItem) (count : Nat) : Report :=
  .commandDone it.tag it.kind.code it.master it.kind.offset count

/-- The COMMAND_REFUSED of an item (R27). -/
def refusedReport (it : CmdItem) (reason : Reason) : Report :=
  .commandRefused it.tag it.kind.code it.master it.kind.offset reason

/-- An owner carries out an item: the state and the count of a done command, or the reason of a refusal (R24, R25). -/
abbrev Owner := CmdItem → State → Except Reason (State × Nat)

/-- An owner's answer becomes the item's outcome: a refused command has no effect, and its own reports precede a done
one's COMMAND_DONE (R24, R25, R27). -/
def finishItem (it : CmdItem) (s : State) : Except Reason (State × Nat) → State
  | .error reason => offer (refusedReport it reason) s
  | .ok (s', count) => offer (doneReport it count) s'

/-- The item at the head of the command queue leaves it. -/
def popItem (s : State) : State := { s with cu := { s.cu with queue := s.cu.queue.tail } }

/-- The head of the command queue is carried out if it is the row's item (R24). -/
def carryOut (mine : CmdItem → Bool) (owner : Owner) (s : State) : State :=
  match s.cu.queue with
  | [] => s
  | it :: _ => if mine it then finishItem it (popItem s) (owner it (popItem s)) else s

/-- The item is of one kind. -/
def isKind (k : CmdKind) (it : CmdItem) : Bool := it.kind == k

/-- A command that may be taken in OFF only is refused with BUSY_LIVE otherwise (R25). -/
def offOnly (owner : Owner) : Owner := fun it s =>
  if s.cu.mode = .off then owner it s else .error .busyLive

/-! ### Modes (R29 to R31, R33) -/

/-- The time base at a change of mode: no CUE run and no residue; the prescaler count is 0 at a change to or from REPLAY
(R38, R39, R44). -/
def retime (old new : Mode) (tb : TimeBase) : TimeBase :=
  { unseedCue tb with
    residue := 0
    prescale := if old = .replay ∨ new = .replay then 0 else tb.prescale }

/-- The mode is set, and the time base ticks from the source of the new mode (R30, R31, R33). -/
def enterMode (m : Mode) (s : State) : State :=
  { s with cu := { s.cu with mode := m }, tb := retime s.cu.mode m s.tb }

/-- START (R30). -/
def startMode (m : Mode) (s : State) : State :=
  let s := enterMode m s
  let s := { s with ag := quietForStart s.tb.time s.ag, ca := captionForStart s.ca }
  openDefault s

/-- The observers at a change to OFF: the engine IDLE, activity QUIET, the assembler in WAIT_HEADER (R31). `shadow` is
what the change leaves in the descriptor shadow, and `caption` what it does to the caption unit. -/
def idleObservers (shadow : Vector Beat 8) (caption : Caption → Caption) (s : State) : State :=
  let s := abandon s
  { s with ao := idleObserver shadow s.ao, ag := quietForOff s.ag, ca := caption s.ca }

/-- A SET_MODE to OFF (R31). -/
def stopMode (s : State) : State :=
  let s := enterMode .off s
  let s := closeEntry s.tb.time true s
  let s := idleObservers s.ao.shadow captionForOff s
  loadCompare none s

/-- SET_MODE (R29). -/
def ownSetMode : Owner := fun it s =>
  match modeOfCode (argField it.arg 0 8) with
  | none => .error .badValue
  | some m =>
    if (s.cu.mode = .off ∧ m = .off) ∨ (s.cu.mode ≠ .off ∧ m ≠ .off) then .error .modeSequence
    else if m = .off then .ok (stopMode (drainOffers s), 0)
    else if (windowOf .report s.mp).isNone then .error .noReport
    else .ok (startMode m (drainOffers s), 0)

/-- The mode becomes OFF, and the time base ticks from REF_CLK. In OFF nothing changes (R33 step 7). -/
def leaveForOff (s : State) : State := if s.cu.mode = .off then s else enterMode .off s

/-- RESTART, steps 1 to 7 of R33. -/
def restartPart (s : State) : State :=
  let s := closeEntry s.tb.time true s
  let s := { s with su := { s.su with queue := [] } }
  let s := idleObservers zeroShadow captionForStart s
  let s := { s with ag := { s.ag with bankA := clearUnlessScanning s.ag.bankA, bankB := clearUnlessScanning s.ag.bankB }
                    rc := { s.rc with pendingExport := none } }
  loadCompare none (leaveForOff s)

/-- RESTART, with the number of pending entries removed as its count (R27, R33). -/
def ownRestart : Owner := fun _ s =>
  let s := drainOffers s
  .ok (restartPart s, s.su.queue.length)

/-- CONTROL_MASK (R28). -/
def ownControlMask : Owner := fun it s =>
  let set : MasterSet := BitVec.ofNat 16 (argField it.arg 0 16)
  if namesMaster15 set || !inSet it.master set then .error .badValue
  else .ok ({ s with cu := { s.cu with controlMask := set } }, 0)

/-! ### Time base (R40, R41, R46, R48) -/

/-- SET_TIME (R40). -/
def ownSetTime : Owner := offOnly fun it s =>
  .ok ({ s with tb := { s.tb with time := BitVec.ofNat 32 (argField it.arg 0 32), prescale := 0 } }, 0)

/-- SET_PRESCALE (R41). -/
def ownSetPrescale : Owner := offOnly fun it s =>
  let d := argField it.arg 0 32
  if d = 0 ∨ 65536 < d then .error .badValue
  else .ok ({ s with tb := { s.tb with divisor := d, prescale := 0 } }, 0)

/-- CUE_SET (R46). -/
def ownCueSet : Owner := fun it s =>
  let q := argField it.arg 0 8
  let window := argField it.arg 8 16
  if q = 0 ∨ 16 < q ∨ 60000 < window then .error .badValue
  else .ok ({ s with tb := { clearRun s.tb with cueQ := q, earlyWindow := window } }, 0)

/-- LINE_FORCE (R48). -/
def ownLineForce : Owner := fun it s =>
  match forceOfCode (argField it.arg 0 8) with
  | none => .error .badValue
  | some f => .ok ({ s with tb := { s.tb with force := f } }, 0)

/-! ### Report unit (R164, R166, R167) -/

/-- The unread positions of the ring (R160). -/
def unread (capacity write read : Nat) : Nat := (write + capacity - read) % capacity

/-- READ_INDEX (R164). -/
def ownReadIndex : Owner := fun it s =>
  let r := argField it.arg 0 16
  match s.ru.geometry with
  | none => .error .badIndex
  | some g =>
    if g.capacity ≤ r then .error .badIndex
    else if unread g.capacity s.ru.writeIndex s.ru.readIndex < unread g.capacity r s.ru.readIndex then .error .badIndex
    else .ok ({ s with ru := { s.ru with readIndex := r } }, 0)

/-- The flag set an item names (R174). -/
def flagSetArg (it : CmdItem) : BitVec 13 := BitVec.ofNat 13 (argField it.arg 0 13)

/-- FLAG_ENABLE_SET (R166). -/
def ownFlagEnableSet : Owner := fun it s => .ok ({ s with ru := enableFlags (flagSetArg it) s.ru }, 0)

/-- FLAG_ENABLE_CLEAR (R166). -/
def ownFlagEnableClear : Owner := fun it s => .ok ({ s with ru := disableFlags (flagSetArg it) s.ru }, 0)

/-- ACK_FLAGS (R167). -/
def ownAckFlags : Owner := fun it s => .ok ({ s with ru := clearFlags (flagSetArg it) s.ru }, 0)

/-! ### Schedule unit (R116, R117, R119, R120, R123) -/

/-- The start from which ORDER counts: that of the tail of the queue, or the actual start of the open entry (R116). -/
def orderReference (s : State) : Option Time :=
  match s.su.queue.getLast? with
  | some e => some e.start
  | none => s.su.openEntry.map (·.actualStart)

/-- The ORDER check (R116). -/
def orderOk (e : Entry) (s : State) : Bool :=
  match orderReference s with
  | some t => Config.entrySpacing ≤ since e.start t
  | none => true

/-- The id is that of a pending entry or of the open entry (R116). -/
def idTaken (id : EntryId) (s : State) : Bool := s.su.queue.any (·.id == id) || openId s == some id

/-- A passed entry joins the queue; a new head loads the compare, and opens at once by late commit (R116, R118). -/
def commitEntry (e : Entry) (s : State) : State :=
  let e := { e with lateCommit := observing s && reached s.tb.time e.start }
  let wasEmpty := s.su.queue.isEmpty
  let s := { s with su := { s.su with queue := s.su.queue ++ [e] } }
  if wasEmpty && observing s then
    let s := loadCompare (some e.start) s
    if e.lateCommit then openHead s.tb.time .lateCommit false s else s
  else s

/-- ENTRY (R116). -/
def ownEntry : Owner := fun it s =>
  match stagedEntry it with
  | none => .error .badValue
  | some e =>
    if idTaken e.id s then .error .duplicateId
    else if Config.pendingDepth ≤ s.su.queue.length then .error .queueFull
    else if !orderOk e s then .error .order
    else .ok (commitEntry e s, 0)

/-- The entries ahead of the one with an id (R117). -/
def aheadOf (id : EntryId) (queue : List Entry) : List Entry := queue.takeWhile (·.id != id)

/-- CANCEL_FROM (R117). -/
def ownCancelFrom : Owner := fun it s =>
  let id : EntryId := BitVec.ofNat 16 (argField it.arg 0 16)
  if s.su.queue.any (·.id == id) then
    let kept := aheadOf id s.su.queue
    let s' := { s with su := { s.su with queue := kept } }
    .ok (if kept.isEmpty then loadCompare none s' else s', s.su.queue.length - kept.length)
  else .error .notPending

/-- REPLAY_CUE (R25, R123). -/
def ownReplayCue : Owner := fun _ s =>
  if s.cu.mode = .replay then .ok (judgeCue s.tb.time s, 0) else .error .modeSequence

/-- HOLD_POLICY (R120). -/
def ownHoldPolicy : Owner := fun it s =>
  match classOfCode (argField it.arg 0 8) with
  | none => .error .badValue
  | some c =>
    .ok ({ s with su := { s.su with
      policy := s.su.policy.setIfInBounds c.code (BitVec.ofNat 4 (argField it.arg 8 4)) } }, 0)

/-- The LOUDNESS part of DEFAULT_ENTRY (R119). -/
def setDefaultLoudness (it : CmdItem) (s : State) : Except Reason (State × Nat) :=
  let target := signedField 16 (argField it.arg 8 16)
  let tolerance := argField it.arg 24 8
  let margin := argField it.arg 32 8
  if loudnessRange target tolerance margin then
    .ok ({ s with su := { s.su with
      defaults := { s.su.defaults with target := target, tolerance := tolerance, margin := margin } } }, 0)
  else .error .badValue

/-- The CAPTION part of DEFAULT_ENTRY (R119). -/
def setDefaultCaption (it : CmdItem) (s : State) : Except Reason (State × Nat) :=
  let service := argField it.arg 12 6
  let permille := argField it.arg 18 10
  let gapLimit := argField it.arg 28 20
  match obligationOfCode (argField it.arg 8 4) with
  | some required =>
    if captionRange service gapLimit permille then
      .ok ({ s with su := { s.su with defaults := { s.su.defaults with
        required := required, service := service, gapLimit := gapLimit, permille := permille } } }, 0)
    else .error .badValue
  | none => .error .badValue

/-- The DEAD_AIR part of DEFAULT_ENTRY (R119). -/
def setDefaultDeadAir (it : CmdItem) (s : State) : Except Reason (State × Nat) :=
  let limit := argField it.arg 8 20
  if deadAirRange limit then
    .ok ({ s with su := { s.su with defaults := { s.su.defaults with deadAirLimit := limit } } }, 0)
  else .error .badValue

/-- The operation or part code in bits 0 to 7 of the argument (R174). -/
def partCode (it : CmdItem) : Nat := argField it.arg 0 8

/-- DEFAULT_ENTRY (R119). -/
def ownDefaultEntry : Owner := fun it s =>
  if partCode it = 1 then setDefaultLoudness it s
  else if partCode it = 2 then setDefaultCaption it s
  else if partCode it = 3 then setDefaultDeadAir it s
  else .error .badValue

/-- A DEFAULT_ENTRY item that a row carries out: its own part, or a code that names no part (log 31). -/
def isDefaultPart (part : Nat) (it : CmdItem) : Bool :=
  isKind .defaultEntry it && (partCode it == part || partCode it == 0 || 3 < partCode it)

/-! ### Loudness unit and activity and gating unit (R65, R69, R85) -/

/-- LAYOUT_OVERRIDE (R65). -/
def ownLayoutOverride : Owner := fun it s =>
  let position := argField it.arg 8 8
  let weight := argField it.arg 16 16
  if partCode it = 1 then
    if 7 < position ∨ 2000 < weight then .error .badValue
    else .ok ({ s with lu := { s.lu with overrides := s.lu.overrides.setIfInBounds position (some weight) } }, 0)
  else if partCode it = 2 then .ok ({ s with lu := { s.lu with overrides := Vector.replicate 8 none } }, 0)
  else .error .badValue

/-- A LAYOUT_OVERRIDE item that a row carries out: its own operation, or a code that names none (log 31). -/
def isOverrideOp (op : Nat) (it : CmdItem) : Bool :=
  isKind .layoutOverride it && (partCode it == op || partCode it == 0 || 2 < partCode it)

/-- FILTER (R69). -/
def ownFilter : Owner := offOnly fun it s =>
  let c := filterOffset it
  if c < -50 ∨ 50 < c then .error .badValue
  else .ok ({ s with lu := { s.lu with
    stage1 := filterStage it false, stage2 := filterStage it true, calibration := c } }, 0)

/-- ACTIVITY_SET (R85). -/
def ownActivitySet : Owner := fun it s =>
  let tOn := signedField 16 (argField it.arg 0 16)
  let tOff := signedField 16 (argField it.arg 16 16)
  let qOn := argField it.arg 32 8
  let qOff := argField it.arg 40 8
  if tOn < -999 ∨ 200 < tOn ∨ tOff < -999 ∨ 200 < tOff ∨ tOn ≤ tOff ∨ qOn = 0 ∨ 50 < qOn ∨ qOff = 0 ∨ 50 < qOff then
    .error .badValue
  else .ok ({ s with ag := { clearCounts s.ag with tOn := tOn, tOff := tOff, qOn := qOn, qOff := qOff } }, 0)

/-! ### Control-page beats (R18 to R23) -/

/-- A beat refused at once with PARTIAL_BEAT (R19). -/
def partialReport (b : CtlBeat) (k : CmdKind) (tagged : Bool) : Report :=
  .commandRefused (if tagged then partialTag b.beat else 0) k.code b.master b.offset .partialBeat

/-- An item is formed: it joins the command queue, or is refused with COMMAND_OVERFLOW when the queue holds 4 (R23). -/
def formItem (it : CmdItem) (s : State) : State :=
  if s.cu.queue.length < Config.commandQueueDepth then { s with cu := { s.cu with queue := s.cu.queue ++ [it] } }
  else offer (refusedReport it .commandOverflow) s

/-- A whole beat at a staging word replaces that word's shadow (R21). -/
def writeShadow (area : CmdKind) (word : Nat) (data : Beat) (cu : CmdUnit) : CmdUnit :=
  match area with
  | .window => { cu with windowShadow := cu.windowShadow.setIfInBounds word data }
  | .entry => { cu with entryShadow := cu.entryShadow.setIfInBounds word data }
  | .filter => { cu with filterShadow := cu.filterShadow.setIfInBounds word data }
  | _ => cu

/-- The shadows of an area as a staged command copies them (R22). -/
def areaShadows (area : CmdKind) (cu : CmdUnit) : List Beat :=
  match area with
  | .window => cu.windowShadow.toList
  | .entry => cu.entryShadow.toList
  | .filter => cu.filterShadow.toList
  | _ => []

/-- The command that a whole beat in a slot forms (R20). -/
def slotItem (k : CmdKind) (b : CtlBeat) : CmdItem := ⟨k, beatTag b.beat.data, beatArg b.beat.data, [], b.master⟩

/-- The staged command that a commit word forms, with the area's shadows as they stand (R22). -/
def stagedItem (area : CmdKind) (b : CtlBeat) (cu : CmdUnit) : CmdItem :=
  ⟨area, beatTag b.beat.data, 0, areaShadows area cu, b.master⟩

/-- The command unit takes one control-page beat (R18 to R22). -/
def controlBeatEvent (b : CtlBeat) (s : State) : State :=
  if b.beat.enables = 0 then s
  else
    match pagePlace b.offset with
    | .unassigned => s
    | .slot k => if b.beat.enables = 0xFF then formItem (slotItem k b) s else offer (partialReport b k true) s
    | .staging area word commit =>
      if b.beat.enables = 0xFF then
        let s := { s with cu := writeShadow area word b.beat.data s.cu }
        if commit then formItem (stagedItem area b s.cu) s else s
      else offer (partialReport b area commit) s

/-- The command unit takes the oldest beat handed to it (R18). -/
def takeControlBeat (s : State) : State :=
  match s.cu.beats with
  | [] => s
  | b :: rest => controlBeatEvent b { s with cu := { s.cu with beats := rest } }

end Sys2Proof.Machine
end

