-- ==== Sys2Proof/Machine/Archive.lean ====
section
/-! DEFINITION. The four archive commands of the recorder (09 section 9.5). -/

namespace Sys2Proof.Machine

/-- An archive command's checks: the privilege of its master, then its segment index (R25, R26, R149). `own` treats the
named segment. -/
def archiveCommand (own : Segment → Owner) : Owner := fun it s =>
  if inSet it.master (archiveMask s.mp) then
    match s.rc.table[argField it.arg 0 8]? with
    | none => .error .badSegment
    | some g => own g it s
  else .error .privilege

/-- HOLD on a segment (R150). -/
def holdOn (g : Segment) : Owner := fun _ s =>
  match g.state with
  | .free => .error .segmentState
  | .filling | .held | .exporting => .ok (joinReason g .manual none false s, 0)
  | .closed => if hasRoom s.rc.table then .ok (holdClosed g .manual none false s, 0) else .error .holdLimit

/-- HOLD (R150). -/
def ownHold : Owner := archiveCommand holdOn

/-- The reasons that a RELEASE_HOLD names (R174). -/
def reasonSetArg (it : CmdItem) : ReasonSet := BitVec.ofNat 5 (argField it.arg 8 5)

/-- A segment after named reasons have left its set; a HELD segment whose set has become empty is CLOSED (R151). -/
def releaseReasons (set : ReasonSet) (g : Segment) : Segment :=
  let g' := withReasons (g.reasons &&& ~~~set) g
  if g'.state = .held ∧ g'.reasons = 0 then withState .closed g' else g'

/-- RELEASE_HOLD on a segment (R151). -/
def releaseOn (g : Segment) : Owner := fun it s =>
  if reasonSetArg it = 0 then .error .badValue
  else
    match g.state with
    | .free | .filling => .error .segmentState
    | .closed => .ok (s, 0)
    | .held | .exporting => .ok (putSegment (releaseReasons (reasonSetArg it) g) s, 0)

/-- RELEASE_HOLD (R151). -/
def ownReleaseHold : Owner := archiveCommand releaseOn

/-- A segment enters EXPORT and the export is granted (R152). -/
def grantExport (g : Segment) (it : CmdItem) (s : State) : State :=
  let g' := withState .exporting g
  let s := putSegment g' s
  offer (.exportGranted g' it.tag it.master (holdCount s.rc.table)) s

/-- EXPORT_REQUEST on the FILLING segment places the pending export (R153). -/
def placeExport (g : Segment) (it : CmdItem) (s : State) : State :=
  { s with rc := { s.rc with pendingExport := some ⟨g.index, it.tag, it.master⟩ } }

/-- EXPORT_REQUEST on a segment (R152, R153). -/
def exportOn (g : Segment) : Owner := fun it s =>
  match g.state with
  | .free | .exporting => .error .segmentState
  | .held => .ok (grantExport g it s, 0)
  | .closed => if hasRoom s.rc.table then .ok (grantExport g it s, 0) else .error .holdLimit
  | .filling => if s.rc.pendingExport.isSome then .error .exportPending else .ok (placeExport g it s, 0)

/-- EXPORT_REQUEST (R152, R153). -/
def ownExportRequest : Owner := archiveCommand exportOn

/-- The state an EXPORT segment returns to: its before-export state (R154). -/
def returnState (g : Segment) : SegState := if g.beforeExportHeld = some true then .held else .closed

/-- EXPORT_DONE on a segment (R154). -/
def exportDoneOn (g : Segment) : Owner := fun _ s =>
  match g.state with
  | .exporting => .ok (putSegment (withState (returnState g) g) s, 0)
  | .free | .filling | .closed | .held => .error .segmentState

/-- EXPORT_DONE (R154). -/
def ownExportDone : Owner := archiveCommand exportDoneOn

end Sys2Proof.Machine
end

