-- ==== Sys2Proof/Machine/Layout.lean ====
section
/-! DEFINITION. The layouts of the report records and of the status image, byte by byte (11 sections 11.6 to 11.8). -/

namespace Sys2Proof.Machine

/-! ### Fields and beats (R173) -/

/-- A field of a layout: its first byte, its width in bytes and its value. -/
structure Field where
  at_ : Nat
  bytes : Nat
  value : Nat
  deriving DecidableEq, Repr

/-- The bytes of a layout as one little-endian number; a byte that no field names is zero (R173). -/
def packFields (fs : List Field) : Nat := (fs.map fun f => f.value % 256 ^ f.bytes * 256 ^ f.at_).sum

/-- n beats from a little-endian number (R173). -/
def beatsOf (n total : Nat) : List Beat := (List.range n).map fun k => BitVec.ofNat 64 (total / 2 ^ (64 * k))

/-- An entry list as it is written: four 2-byte ids, zero beyond its length (R175). -/
def entryListField (ids : List EntryId) : Nat :=
  packFields ((ids.take 4).zipIdx.map fun p => ⟨2 * p.2, 2, p.1.toNat⟩)

/-- The list length in bits 0 to 2 and MORE in bit 7 (R175). -/
def listLengthField (g : Segment) : Nat := g.entries.length + 128 * bit g.more

/-- A time that may be absent, as it is written: the head start of a STRAY_CUE without a head is 0 (R175), and a segment that
a report names has its times (R137). -/
def timeField (t : Option Time) : Nat := (t.map (·.toNat)).getD 0

/-- A bank as ENTRY_OPENED carries it: 2 is unbanked (R175). -/
def bankField : Option Bank → Nat
  | some .a => 0
  | some .b => 1
  | none => 2

/-- The code of a before-export state: HELD or CLOSED (R175). -/
def beforeExportField (g : Segment) : Nat := if g.beforeExportHeld = some true then SegState.held.code else SegState.closed.code

/-! ### Record kinds (11 section 11.8) -/

/-- The kind code of a record. -/
def kindCode : Report → Nat
  | .commandDone .. => 1
  | .commandRefused .. => 2
  | .entryOpened .. => 3
  | .verdict _ => 4
  | .shortTermOver .. => 5
  | .captionGap .. => 6
  | .captionGapEnd .. => 7
  | .captionTorn .. => 8
  | .deadAir .. => 9
  | .deadAirEnd .. => 10
  | .audioState .. => 11
  | .segmentClosed .. => 12
  | .holdPlaced .. => 13
  | .deniedRequest .. | .deniedClose .. | .deniedExport .. => 14
  | .exportGranted .. => 15
  | .recordBlocked .. => 16
  | .accessBlocked .. => 17
  | .strayCue .. => 18

/-- The kind code of LOST, which no producer offers (R163). -/
def lostKind : Nat := 19

/-- The positions a record takes (R158). -/
def positions : Report → Nat
  | .verdict _ => 2
  | _ => 1

/-! ### Payloads (R175) -/

/-- The fields of a hold request in HOLD_PLACED and HOLD_DENIED: marks, id and interval. A request that is not there has
the id none and the rest zero (R175). -/
def requestFields (req : Option HoldRequest) (incomplete : Bool) : List Field :=
  match req with
  | some q => [⟨17, 1, bit incomplete + 2⟩, ⟨20, 4, q.id.toNat⟩, ⟨24, 4, q.start.toNat⟩, ⟨28, 4, q.finish.toNat⟩]
  | none => [⟨20, 4, idField none⟩]

/-- The fields of an outcome record (R175). -/
def outcomeFields (tag : Tag) (code : Nat) (master : Master) (offset reason count : Nat) : List Field :=
  [⟨12, 2, tag.toNat⟩, ⟨14, 1, code⟩, ⟨15, 1, master.toNat⟩, ⟨16, 2, offset⟩, ⟨18, 1, reason⟩, ⟨19, 1, count⟩]

/-- The flags of a verdict (R175). -/
def verdictMarks (c : ClosedEntry) : Nat :=
  bit c.record.cuedEarly + 2 * bit c.record.entry.lateCommit + 4 * bit c.record.isPartial + 8 * bit c.aborted
    + 16 * bit c.record.replay + 32 * bit c.record.evidenceIncomplete + 64 * bit c.record.captionPresent

/-- The payload of a verdict's first position (R175). -/
def verdictFirst (v : Verdict) : List Field :=
  let e := v.closed.record
  [⟨12, 4, e.entry.id.toNat⟩, ⟨16, 1, e.entry.cls.code⟩, ⟨17, 1, e.cause.code⟩, ⟨18, 2, verdictMarks v.closed⟩,
   ⟨20, 4, e.actualStart.toNat⟩, ⟨24, 4, v.closed.actualEnd.toNat⟩, ⟨28, 4, v.closed.duration⟩,
   ⟨32, 2, levelField v.integrated⟩, ⟨34, 2, levelField v.ungated⟩,
   ⟨36, 2, levelField e.maxMomentary⟩, ⟨38, 2, levelField e.maxShortTerm⟩,
   ⟨40, 2, levelField v.samplePeak⟩, ⟨42, 1, v.peakChannel⟩,
   ⟨43, 1, v.loudness.code⟩, ⟨44, 1, v.shortTerm.code⟩, ⟨45, 1, v.caption.code⟩, ⟨46, 1, v.deadAir.code⟩,
   ⟨48, 4, e.measuredMs.toNat⟩, ⟨52, 4, e.unmeasuredMs.toNat⟩, ⟨56, 4, e.activeMs⟩, ⟨60, 4, e.coveredMs⟩]

/-- The payload of a verdict's second position (R175). -/
def verdictSecond (v : Verdict) : List Field :=
  let e := v.closed.record
  [⟨12, 2, v.coverage⟩, ⟨14, 2, e.unitCount.toNat⟩, ⟨16, 2, e.otherService.toNat⟩, ⟨18, 2, e.gapCount.toNat⟩,
   ⟨20, 2, e.tornCount.toNat⟩, ⟨22, 2, e.malformed.toNat⟩, ⟨24, 2, e.deadAirCount.toNat⟩, ⟨26, 2, e.overCount.toNat⟩,
   ⟨28, 2, e.discontinuities.toNat⟩, ⟨32, 4, e.missed.toNat⟩, ⟨36, 4, e.saturations.toNat⟩]

/-- The payload of a record's first position (R175). The decoder time of a CAPTION_TORN whose unit has none yet is a free
value (log 39). -/
def payload : Report → List Field
  | .commandDone tag code master offset count => outcomeFields tag code master offset 0 count
  | .commandRefused tag code master offset reason => outcomeFields tag code master offset reason.code 0
  | .entryOpened e scheduled closed left =>
    [⟨12, 4, e.entry.id.toNat⟩, ⟨16, 1, e.entry.cls.code⟩, ⟨17, 1, e.cause.code⟩,
     ⟨18, 1, bit e.cuedEarly + 2 * bit e.entry.lateCommit + 16 * bit e.replay⟩, ⟨19, 1, bankField e.bank⟩,
     ⟨20, 4, scheduled.toNat⟩, ⟨24, 4, e.actualStart.toNat⟩, ⟨28, 4, idField closed⟩, ⟨32, 1, left⟩]
  | .verdict v => verdictFirst v
  | .shortTermOver id level ceiling time =>
    [⟨12, 4, id.toNat⟩, ⟨16, 2, levelField (some level)⟩, ⟨18, 2, levelField (some ceiling)⟩, ⟨20, 4, time.toNat⟩]
  | .captionGap id service gapStart limit time =>
    [⟨12, 4, id.toNat⟩, ⟨16, 1, service⟩, ⟨20, 4, gapStart.toNat⟩, ⟨24, 4, limit⟩, ⟨28, 4, time.toNat⟩]
  | .captionGapEnd id gapStart length time decoderTime =>
    [⟨12, 4, id.toNat⟩, ⟨20, 4, gapStart.toNat⟩, ⟨24, 4, length⟩, ⟨28, 4, time.toNat⟩, ⟨32, 4, decoderTime.toNat⟩]
  | .captionTorn id u tearing time =>
    [⟨12, 4, id.toNat⟩, ⟨16, 2, u.length⟩, ⟨18, 1, u.collected⟩, ⟨19, 1, bit u.decoderTime.isSome⟩,
     ⟨20, 4, (u.decoderTime.getD Config.absentStamp).toNat⟩, ⟨24, 8, u.header⟩, ⟨32, 8, tearing⟩, ⟨40, 4, time.toNat⟩]
  | .deadAir id quietStart limit time =>
    [⟨12, 4, id.toNat⟩, ⟨20, 4, quietStart.toNat⟩, ⟨24, 4, limit⟩, ⟨28, 4, time.toNat⟩]
  | .deadAirEnd id quietStart length time =>
    [⟨12, 4, id.toNat⟩, ⟨20, 4, quietStart.toNat⟩, ⟨24, 4, length⟩, ⟨28, 4, time.toNat⟩]
  | .audioState cause before after d id time =>
    [⟨12, 1, cause.code⟩, ⟨13, 1, before.code⟩, ⟨14, 1, after.code⟩,
     ⟨15, 1, (d.map (·.coding.code)).getD 0⟩, ⟨16, 1, (d.map (·.rate.code)).getD 0⟩,
     ⟨17, 1, (d.map (·.channels)).getD 0⟩, ⟨18, 2, (d.map (·.generation.toNat)).getD 0⟩,
     ⟨20, 4, idField id⟩, ⟨24, 4, time.toNat⟩]
  | .segmentClosed g cleared count =>
    [⟨12, 1, g.index⟩, ⟨13, 1, g.state.code⟩, ⟨14, 1, g.reasons.toNat⟩, ⟨15, 1, cleared.toNat⟩,
     ⟨16, 4, timeField g.start⟩, ⟨20, 4, timeField g.finish⟩, ⟨24, 4, g.bytes.toNat⟩, ⟨28, 4, g.blocked.toNat⟩,
     ⟨32, 8, entryListField g.entries⟩, ⟨40, 1, listLengthField g⟩, ⟨41, 1, count⟩, ⟨42, 2, levelField g.maxShortTerm⟩]
  | .holdPlaced g reason req count incomplete =>
    [⟨12, 1, g.index⟩, ⟨13, 1, reason.code⟩, ⟨14, 1, g.reasons.toNat⟩, ⟨15, 1, g.state.code⟩, ⟨16, 1, count⟩]
      ++ requestFields req incomplete
  | .deniedRequest index req count incomplete =>
    [⟨12, 1, index⟩, ⟨13, 1, 0⟩, ⟨14, 1, req.reason.code⟩, ⟨16, 1, count⟩] ++ requestFields (some req) incomplete
  | .deniedClose index cleared => [⟨12, 1, index⟩, ⟨13, 1, 1⟩, ⟨15, 1, cleared.toNat⟩] ++ requestFields none false
  | .deniedExport index tag master =>
    [⟨12, 1, index⟩, ⟨13, 1, 2⟩, ⟨18, 1, Reason.holdLimit.code⟩, ⟨19, 1, master.toNat⟩, ⟨32, 2, tag.toNat⟩]
      ++ requestFields none false
  | .exportGranted g tag master count =>
    [⟨12, 1, g.index⟩, ⟨13, 1, beforeExportField g⟩, ⟨14, 1, g.reasons.toNat⟩, ⟨15, 1, master.toNat⟩,
     ⟨16, 2, tag.toNat⟩, ⟨18, 1, count⟩, ⟨20, 4, timeField g.start⟩, ⟨24, 4, timeField g.finish⟩,
     ⟨32, 8, entryListField g.entries⟩, ⟨40, 1, listLengthField g⟩]
  | .recordBlocked g master addr time id =>
    [⟨12, 1, g.index⟩, ⟨13, 1, g.state.code⟩, ⟨14, 1, master.toNat⟩, ⟨16, 8, addr⟩, ⟨24, 4, g.blocked.toNat⟩,
     ⟨28, 4, time.toNat⟩, ⟨32, 4, idField id⟩]
  | .accessBlocked index reason master isWrite addr count =>
    [⟨12, 1, index⟩, ⟨13, 1, reason.code⟩, ⟨14, 1, master.toNat⟩, ⟨15, 1, bit isWrite⟩, ⟨16, 8, addr⟩,
     ⟨24, 4, count.toNat⟩]
  | .strayCue captured head window count =>
    [⟨12, 4, captured.toNat⟩, ⟨16, 4, idField (head.map (·.1))⟩, ⟨20, 4, timeField (head.map (·.2))⟩, ⟨24, 4, window⟩,
     ⟨28, 4, count.toNat⟩]

/-! ### Positions (R175) -/

/-- The common part of a position (R175). -/
def commonFields (kind positions : Nat) (number : BitVec 32) (time : Time) : List Field :=
  [⟨0, 1, kind⟩, ⟨1, 1, positions⟩, ⟨4, 4, number.toNat⟩, ⟨8, 4, time.toNat⟩]

/-- The beats of one 64-byte position. -/
def positionBeats (fs : List Field) : List Beat := beatsOf 8 (packFields fs)

/-- A record's positions as they are laid, in order (R161, R175). -/
def recordPositions (q : QueuedReport) (number : BitVec 32) : List (List Beat) :=
  let first := positionBeats (commonFields (kindCode q.report) 1 number q.time ++ payload q.report)
  match q.report with
  | .verdict v => [first, positionBeats (commonFields (kindCode q.report) 0 number q.time ++ verdictSecond v)]
  | _ => [first]

/-- The position of a LOST record (R163, R175). -/
def lostPosition (count number : BitVec 32) (time : Time) : List Beat :=
  positionBeats (commonFields lostKind 1 number time ++ [⟨12, 4, count.toNat⟩])

/-! ### The status image (R169, R176) -/

/-- The state code of a segment position: 0 is absent (R169). -/
def segmentCode (table : List Segment) (k : Nat) : Nat := (table[k]?.map (·.state.code)).getD 0

/-- The fields of the status image that the part's blocks hold (R169, R176). `running` is the running value. -/
def imageFields (s : State) (running : Option Int) (generation : BitVec 32) : List Field :=
  [⟨0x000, 4, generation.toNat⟩,
   ⟨0x008, 1, s.cu.mode.code⟩, ⟨0x009, 1, s.ao.engine.code⟩, ⟨0x00A, 1, bit s.ag.active⟩,
   ⟨0x00B, 1, s.ag.bankA.state.code⟩, ⟨0x00C, 1, s.ag.bankB.state.code⟩,
   ⟨0x00D, 1, (s.ao.taken.map (·.coding.code)).getD 0⟩, ⟨0x00E, 1, (s.ao.taken.map (·.rate.code)).getD 0⟩,
   ⟨0x00F, 1, (s.ao.taken.map (·.channels)).getD 0⟩,
   ⟨0x010, 4, s.tb.time.toNat⟩, ⟨0x014, 4, idField (openId s)⟩,
   ⟨0x018, 2, (s.ao.taken.map (·.generation.toNat)).getD 0⟩, ⟨0x01A, 2, levelField s.lu.momentary⟩,
   ⟨0x01C, 2, levelField s.lu.shortTerm⟩, ⟨0x01E, 2, levelField running⟩,
   ⟨0x020, 4, s.ca.gapTimer⟩, ⟨0x024, 4, s.ag.deadTimer⟩,
   ⟨0x028, 2, s.ru.writeIndex⟩, ⟨0x02A, 2, s.ru.readIndex⟩, ⟨0x02C, 4, s.ru.lostCount.toNat⟩,
   ⟨0x030, 2, s.ru.flags.toNat⟩, ⟨0x032, 2, s.ru.enables.toNat⟩, ⟨0x034, 1, holdCount s.rc.table⟩]
    ++ (match s.ru.lastRefusal with
      | some r => [⟨0x038, 2, r.tag.toNat⟩, ⟨0x03A, 1, r.code⟩, ⟨0x03B, 1, r.master.toNat⟩, ⟨0x03C, 1, r.reason.code⟩]
      | none => [])
    ++ (List.range 64).map (fun k => ⟨0x040 + k, 1, segmentCode s.rc.table k⟩)
    ++ s.mp.blocked.toList.zipIdx.map (fun p => ⟨0x080 + 4 * p.2, 4, p.1.toNat⟩)
    ++ [⟨0x0F8, 4, generation.toNat⟩]

/-- The 32 beats of the status image (R176). -/
def imageBeats (s : State) (generation : BitVec 32) : List Beat :=
  beatsOf 32 (packFields (imageFields s (runningValue s) generation))

end Sys2Proof.Machine
end

