-- ==== Sys2Proof/Machine/ReportUnit.lean ====
section
/-! DEFINITION. The report unit's own events: laying the head record, composing the status image, offering own writes, and
changes of the REPORT window (10 sections 10.3, 10.4 and 10.7). -/

namespace Sys2Proof.Machine

/-! ### The ring (R160, R161) -/

/-- The capacity of the ring: 0 while no REPORT window is installed (R162). -/
def capacityOf (ru : Reports) : Nat := (ru.geometry.map (·.capacity)).getD 0

/-- The number of unread positions (R160). -/
def unreadOf (ru : Reports) : Nat := unread (capacityOf ru) ru.writeIndex ru.readIndex

/-- The address of a ring position (R160). -/
def positionAddr (g : Geometry) (p : Nat) : Nat := g.base + 256 + 64 * (p % g.capacity)

/-- The positions that the head record needs: its own, and one for a LOST record ahead of it (R161). -/
def positionsNeeded (r : Report) (ru : Reports) : Nat := positions r + (if ru.lostCount = 0 then 0 else 1)

/-- The head record has room (R161); a ring of capacity 0 has none (R162). -/
def hasRingRoom (r : Report) (ru : Reports) : Bool := unreadOf ru + positionsNeeded r ru < capacityOf ru

/-- The next unit is a status image (R161). -/
def imageNext (ru : Reports) : Bool := ru.imageDue && ru.geometry.isSome

/-! ### Laying a record (R161 to R163) -/

/-- The bursts of a LOST record at the write index, if one is owed (R163). -/
def lostBursts (g : Geometry) (now : Time) (ru : Reports) : List Burst :=
  if ru.lostCount = 0 then [] else [⟨positionAddr g ru.writeIndex, lostPosition ru.lostCount ru.recordNumber now⟩]

/-- The bursts of a record whose first position is p (R161). -/
def recordBursts (g : Geometry) (p : Nat) (q : QueuedReport) (number : BitVec 32) : List Burst :=
  (recordPositions q number).zipIdx.map fun x => ⟨positionAddr g (p + x.2), x.1⟩

/-- The head record is laid: a LOST record takes the present record number if one is owed, the record the next, and the
lost count becomes 0 (R161, R163). The positions are written as their bursts are taken (log 20). -/
def layHead (g : Geometry) (now : Time) (q : QueuedReport) (ru : Reports) : Reports :=
  let owed := ru.lostCount != 0
  let number := if owed then ru.recordNumber + 1 else ru.recordNumber
  let p := if owed then ru.writeIndex + 1 else ru.writeIndex
  { ru with
    recordNumber := number + 1
    lostCount := 0
    current := some ⟨false, lostBursts g now ru ++ recordBursts g p q number, if owed then some ru.lostCount else none⟩ }

/-- The report unit takes the head record as its next unit: it lays it, or drops it for want of room. It does so only
when no unit is in progress and no image goes first (R161, R162). -/
def layRecord (s : State) : State :=
  if s.ru.current.isSome || imageNext s.ru then s
  else
    match s.ru.queue with
    | [] => s
    | q :: rest =>
      match s.ru.geometry with
      | some g =>
        if hasRingRoom q.report s.ru then { s with ru := layHead g s.tb.time q s.ru }
        else { s with ru := dropReport q.report { s.ru with queue := rest } }
      | none => { s with ru := dropReport q.report { s.ru with queue := rest } }

/-! ### Composing the status image (R171) -/

/-- The six bursts of an image: the leading beat, the body of 8, 8, 8 and 6 beats, the trailing beat (R171). -/
def imageBursts (base : Nat) (beats : List Beat) : List Burst :=
  [(0, 1), (1, 8), (9, 8), (17, 8), (25, 6), (31, 1)].map fun p => ⟨base + 8 * p.1, (beats.drop p.1).take p.2⟩

/-- The report unit takes a status image as its next unit and composes it (R161, R171). -/
def composeImage (s : State) : State :=
  match s.ru.current, s.ru.geometry with
  | none, some g =>
    if s.ru.imageDue then
      let generation := s.ru.imageGeneration + 1
      { s with ru := { s.ru with
          imageGeneration := generation
          imageDue := false
          imageTicks := 0
          current := some ⟨true, imageBursts g.base (imageBeats s generation), none⟩ } }
    else s
  | _, _ => s

/-! ### Offering own writes (R14, R161, R165) -/

/-- The write index moved on by k positions (R161). -/
def moveWrite (k : Nat) (ru : Reports) : Reports := { ru with writeIndex := (ru.writeIndex + k) % capacityOf ru }

/-- The unread count is at three-quarters of the capacity or more (R165). -/
def ringHigh (ru : Reports) : Bool := 3 * capacityOf ru ≤ 4 * unreadOf ru

/-- A record's last burst has been taken: the record leaves the report queue, the write index moves on, RING_HIGH is
judged, and an outcome makes an image due (R161, R165, R170). -/
def finishRecord (ru : Reports) : Reports :=
  match ru.queue with
  | [] => { ru with current := none }
  | q :: rest =>
    let ru := moveWrite (positions q.report) { ru with queue := rest, current := none,
                                                       imageDue := ru.imageDue || isOutcome q.report }
    if ringHigh ru then setFlag .ringHigh ru else ru

/-- The report unit after the memory path has taken the first burst of the unit in progress, with `rest` still to be
taken. A LOST record's burst moves the write index by itself (log 20). -/
def burstTaken (u : UnitInProgress) (rest : List Burst) (ru : Reports) : Reports :=
  if u.lost.isSome then moveWrite 1 { ru with current := some { u with bursts := rest, lost := none } }
  else if rest.isEmpty then (if u.image then { ru with current := none } else finishRecord ru)
  else { ru with current := some { u with bursts := rest } }

/-- An own write joins the own-write queue (R14). -/
def pushOwn (b : Burst) (mp : MemPath) : MemPath :=
  { mp with ownQueue := mp.ownQueue ++ [⟨mp.nextOwn, b.addr, b.beats⟩], nextOwn := mp.nextOwn + 1 }

/-- The memory path takes the own write that the report unit offers, if its queue holds fewer than 8 (R14). -/
def offerOwnWrite (s : State) : State :=
  match s.ru.current with
  | none => s
  | some u =>
    match u.bursts with
    | [] => s
    | b :: rest =>
      if s.mp.ownQueue.length < Config.ownWriteDepth then
        { s with mp := pushOwn b s.mp, ru := burstTaken u rest s.ru }
      else s

/-! ### Changes of the REPORT window (R160, R172) -/

/-- The ring of a REPORT window: its capacity is (window bytes − 256) / 64 (R160). -/
def geometryOf (w : Window) : Geometry := ⟨w.basePage * 4096, (w.pages * 4096 - 256) / 64⟩

/-- The unit in progress is abandoned: an image is due again, and a record begun is dropped, with the count of a LOST
record whose burst was not taken added back (R172). -/
def abandonUnit (ru : Reports) : Reports :=
  match ru.current with
  | none => ru
  | some u =>
    if u.image then { ru with current := none, imageDue := true }
    else
      match ru.queue with
      | [] => { ru with current := none }
      | q :: rest =>
        dropReport q.report
          { ru with current := none, queue := rest, lostCount := satAdd ru.lostCount ((u.lost.map (·.toNat)).getD 0) }

/-- The report unit is told that the REPORT window has changed (R160). -/
def reportWindowChanged (new : Option Window) (ru : Reports) : Reports :=
  let ru := abandonUnit ru
  { ru with geometry := new.map geometryOf, writeIndex := 0, readIndex := 0, imageDue := ru.imageDue || new.isSome }

end Sys2Proof.Machine
end

