-- ==== Sys2Proof/Machine/MemoryPath.lean ====
section
/-! DEFINITION. The memory path: judging pass-through requests, blocked counts, the memory-port arbiter, own writes, the
read hold, answers, and the WINDOW command (01). -/

namespace Sys2Proof.Machine

/-! ### Regions (R3, R7) -/

/-- An address lies in a window (R3). -/
def inWindow (w : Window) (addr : Nat) : Bool := w.basePage * 4096 ≤ addr && addr < (w.basePage + w.pages) * 4096

/-- An address lies in the control page (R3). -/
def inControlPage (mp : MemPath) (addr : Nat) : Bool := mp.ctlBase ≤ addr && addr < mp.ctlBase + 4096

/-- The window in a slot. -/
def windowAt (mp : MemPath) (slot : Nat) : Option Window := (mp.slots[slot]?).getD none

/-- The index of the control page among the nine counted regions (R13). -/
def controlIndex : Nat := 8

/-- The region in which an address lies: 8 for the control page, a slot number for its window, or none (R7). -/
def regionAt (mp : MemPath) (addr : Nat) : Option Nat :=
  if inControlPage mp addr then some controlIndex
  else (List.range 8).find? fun k => ((windowAt mp k).map (inWindow · addr)).getD false

/-- The regions of a request's beats, in ascending order. -/
def beatRegions (mp : MemPath) (r : Request) : List (Option Nat) :=
  (List.range r.access.length).map fun k => regionAt mp (r.addr + 8 * k)

/-- Where a whole request lies. A crossing burst is charged to the first region that its beats enter (R7); it has none
only when it runs past the top of memory outside every region (log 17). -/
inductive Region where
  | crossing (charged : Option Nat)
  | outside
  | inside (index : Nat)
  deriving DecidableEq, Repr

/-- The region of a request (R7). -/
def regionOf (mp : MemPath) (r : Request) : Region :=
  let beats := beatRegions mp r
  let first := regionAt mp r.addr
  if Config.addressEnd < r.addr + 8 * r.access.length then .crossing (beats.findSome? id)
  else if beats.all (· == first) then
    match first with
    | none => .outside
    | some k => .inside k
  else .crossing (beats.findSome? id)

/-! ### Judgement (R8 to R10) -/

/-- What the memory path decides of a request, before the recorder's segment check (R7 to R10). -/
inductive Judgement where
  | forward
  | block (index : Option Nat) (reason : BlockReason)
  | checkSegments (slot : Nat) (w : Window)
  deriving DecidableEq, Repr

/-- The judgement of a request in the window of one slot (R9). -/
def judgeWindow (slot : Nat) (w : Window) (r : Request) : Judgement :=
  if r.access.isWrite then
    if w.kind = .report then .block (some slot) .reportWrite
    else if !inSet r.master w.writeMask then .block (some slot) .writeMask
    else if w.kind = .record then .checkSegments slot w
    else .forward
  else if inSet r.master w.readMask then .forward
  else .block (some slot) .readMask

/-- The judgement of a request (R7 to R9). -/
def judge (s : State) (r : Request) : Judgement :=
  match regionOf s.mp r with
  | .crossing charged => .block charged .crossing
  | .outside => .forward
  | .inside k =>
    if k = controlIndex then
      if inSet r.master s.cu.controlMask then .forward else .block (some controlIndex) .controlMask
    else
      match windowAt s.mp k with
      | some w => judgeWindow k w r
      | none => .forward

/-! ### Blocked requests (R11, R13) -/

/-- The answer to a blocked request: an acknowledgement, or as many zero beats as were asked for (R11). -/
def blockedAnswer (r : Request) : Answer :=
  match r.access with
  | .read n => .data (List.replicate n 0)
  | .write _ => .ack

/-- A request joins the requests taken and not yet answered. -/
def addTxn (r : Request) (p : Progress) (s : State) : State :=
  { s with mp := { s.mp with txns := s.mp.txns ++ [⟨s.mp.nextTxn, r, p⟩], nextTxn := s.mp.nextTxn + 1 } }

/-- The blocked count of an index (R13). -/
def blockedCount (mp : MemPath) (index : Nat) : BitVec 32 := (mp.blocked[index]?).getD 0

/-- A blocked request adds 1 to a count (R13). -/
def chargeBlock (index : Nat) (s : State) : State :=
  { s with mp := { s.mp with blocked := s.mp.blocked.setIfInBounds index (satAdd (blockedCount s.mp index) 1) } }

/-- An ACCESS_BLOCKED is due for an index: none was offered before, or 100 ms have passed, or time was moved back (R13). -/
def accessReportDue (s : State) (index : Nat) : Bool :=
  match (s.mp.lastReport[index]?).getD none with
  | none => true
  | some t => 100 ≤ since s.tb.time t || since s.tb.time t < 0

/-- ACCESS_BLOCKED is offered and its time kept (R13). -/
def reportBlock (index : Nat) (reason : BlockReason) (r : Request) (s : State) : State :=
  let s := { s with mp := { s.mp with lastReport := s.mp.lastReport.setIfInBounds index (some s.tb.time) } }
  offer (.accessBlocked index reason r.master r.access.isWrite r.addr (blockedCount s.mp index)) s

/-- A request is blocked by its judgement: it is counted, perhaps reported, and answered without memory (R11, R13). -/
def blockRequest (index : Option Nat) (reason : BlockReason) (r : Request) (s : State) : State :=
  let s := match index with
    | none => s
    | some k =>
      let s := chargeBlock k s
      if accessReportDue s k then reportBlock k reason r s else s
  addTxn r (.answered (blockedAnswer r)) s

/-! ### Handing over writes (R8, R12) -/

/-- The beats of a write with their offsets from a base, in ascending order. -/
def offsetBeats (base : Nat) (r : Request) : List (Nat × WBeat) :=
  match r.access with
  | .read _ => []
  | .write beats => beats.zipIdx.map fun p => (r.addr + 8 * p.2 - base, p.1)

/-- The command unit is handed each beat of a control-page write (R8). -/
def handControl (r : Request) (s : State) : State :=
  { s with cu := { s.cu with
      beats := s.cu.beats ++ (offsetBeats s.mp.ctlBase r).map fun p => ⟨p.1, p.2, r.master⟩ } }

/-- The audio observer's items of a beat: a descriptor-area beat, or its presented words, lower address first (R52). -/
def audioItems (p : Nat × WBeat) : List AudioItem :=
  if p.1 < 0x40 then [.descriptor p.1 p.2]
  else
    (if p.2.enables.extractLsb' 0 4 = 0 then []
      else [.word p.1 (p.2.data.extractLsb' 0 32) (p.2.enables.extractLsb' 0 4)])
    ++ (if p.2.enables.extractLsb' 4 4 = 0 then []
      else [.word (p.1 + 4) (p.2.data.extractLsb' 32 32) (p.2.enables.extractLsb' 4 4)])

/-- A window's observer is handed a forwarded write in LIVE and REPLAY if the feeding master made it (R12). -/
def handObserver (w : Window) (r : Request) (s : State) : State :=
  if observing s && r.master == w.feeding then
    let beats := offsetBeats (w.basePage * 4096) r
    match w.kind with
    | .audio => { s with ao := { s.ao with inbox := s.ao.inbox ++ beats.flatMap audioItems } }
    | .caption => { s with ca := { s.ca with inbox := s.ca.inbox ++ beats.map fun p => ⟨p.1, p.2⟩ } }
    | .record | .report | .guard => s
  else s

/-- A forwarded request is handed to the block that watches its region (R8, R12). -/
def handOver (r : Request) (s : State) : State :=
  match regionOf s.mp r with
  | .inside k =>
    if k = controlIndex then handControl r s
    else
      match windowAt s.mp k with
      | some w => handObserver w r s
      | none => s
  | .outside | .crossing _ => s

/-! ### Read hold (R16) -/

/-- A read covers an address that an own write writes (R16). -/
def overlapsOwn (r : Request) (w : OwnWrite) : Bool :=
  r.addr < w.addr + 8 * w.beats.length && w.addr < r.addr + 8 * r.access.length

/-- A read is in the read-hold list (R16). -/
def isHeld (t : Txn) : Bool :=
  match t.progress with
  | .held _ => true
  | .waiting | .behind _ | .issued | .answered _ => false

/-- A read waits for own writes that it overlapped when it was taken. -/
def awaitsOwn (t : Txn) : Bool :=
  match t.progress with
  | .held _ | .behind _ => true
  | .waiting | .issued | .answered _ => false

/-- A request stands behind a read of its master that waits for own writes, so that the master's requests go out in the
order in which they were taken (R16, log 16). -/
def behindHeld (txns : List Txn) (t : Txn) : Bool :=
  txns.any fun h => awaitsOwn h && h.req.master == t.req.master && h.id < t.id

/-- The progress of a request forwarded by its judgement: every read is compared with the own writes that are queued, and
one that overlaps any of them waits for exactly those. It joins the read-hold list, or stands behind a read of its master
that waits already, so a master has at most one read in the list (R16, log 16). -/
def forwardProgress (mp : MemPath) (r : Request) : Progress :=
  let on := (mp.ownQueue.filter (overlapsOwn r)).map (·.id)
  if r.access.isWrite || on.isEmpty then .waiting
  else if mp.txns.any fun h => awaitsOwn h && h.req.master == r.master then .behind on
  else .held on

/-- A request is forwarded (R8 to R10, R12, R16). -/
def forwardRequest (r : Request) (s : State) : State := addTxn r (forwardProgress s.mp r) (handOver r s)

/-! ### Taking a request (R1, R10) -/

/-- A RECORD-window write that passed the write mask: the recorder answers, and reacts in the same event (R10, R139 to
R142). -/
def presentWrite (slot : Nat) (w : Window) (r : Request) (s : State) : State :=
  let ts := touches w r
  if recorderBlocks ts s.rc.table then
    addTxn r (.answered .ack) (blockRecordWrite r ts (chargeBlock slot s))
  else
    let s := if isCapture w r ts s then capture ts s else s
    addTxn r .waiting s

/-- A request is taken at the system port and judged once (R1, R7 to R13). -/
def takeRequest (r : Request) (s : State) : State :=
  match judge s r with
  | .forward => forwardRequest r s
  | .block index reason => blockRequest index reason r s
  | .checkSegments slot w => presentWrite slot w r s

/-! ### Answers (R1) -/

/-- The oldest request of a master that is not yet answered. -/
def oldestOf (mp : MemPath) (m : Master) : Option Txn := mp.txns.find? (·.req.master == m)

/-- The answer to a master's oldest request is returned, if it is there (R1). -/
def answerReturn (m : Master) (s : State) : State :=
  match oldestOf s.mp m with
  | none => s
  | some t =>
    match t.progress with
    | .answered a =>
      { s with mp := { s.mp with txns := s.mp.txns.filter (·.id != t.id), sysOut := some (m, a) } }
    | .waiting | .held _ | .behind _ | .issued => s

/-! ### The memory port (R2, R14, R15) -/

/-- A forwarded request is ready: it waits for nothing but the arbiter, and no read of its master that waits for own writes
is ahead of it (R15, R16). -/
def isReady (txns : List Txn) (t : Txn) : Bool := t.progress == .waiting && !behindHeld txns t

/-- The pass-through request that the arbiter would issue: released reads first, in the order of their release, then the
oldest that is ready (R15). -/
def passCandidate (mp : MemPath) : Option Txn :=
  match mp.released with
  | id :: _ => mp.txns.find? (·.id == id)
  | [] => mp.txns.find? (isReady mp.txns)

/-- The own write that may be issued: the head, once it is not issued yet (R14, R15). -/
def ownCandidate (mp : MemPath) : Option OwnWrite := if mp.ownIssued then none else mp.ownQueue.head?

/-- A change of one request's progress. -/
def setProgress (id : Nat) (p : Progress) (txns : List Txn) : List Txn :=
  txns.map fun t => if t.id = id then { t with progress := p } else t

/-- A pass-through request is issued (R2, R15). -/
def issuePass (t : Txn) (mp : MemPath) : MemPath :=
  { mp with
    txns := setProgress t.id .issued mp.txns
    released := mp.released.filter (· != t.id)
    lastGrant := .pass
    memOut := some (.pass t.id t.req) }

/-- An own write as the memory port carries it: a write of master 15 with every byte enabled (R2, R14). -/
def ownRequest (w : OwnWrite) : Request := ⟨15, w.addr, .write (w.beats.map fun d => ⟨d, 0xFF⟩)⟩

/-- The head own write is issued (R2, R14, R15). -/
def issueOwn (w : OwnWrite) (mp : MemPath) : MemPath :=
  { mp with ownIssued := true, lastGrant := .own, memOut := some (.own w.id (ownRequest w)) }

/-- The memory port accepts an issue: the arbiter grants the kind that waits, or the kind that is not the last grant when
both wait (R15). -/
def arbitrate (mp : MemPath) : MemPath :=
  match ownCandidate mp, passCandidate mp with
  | none, none => mp
  | some w, none => issueOwn w mp
  | none, some t => issuePass t mp
  | some w, some t => if mp.lastGrant = .own then issuePass t mp else issueOwn w mp

/-- A completion fits a request: as many beats as a read asked for, none for a write (R2). -/
def completionFits (r : Request) (data : List Beat) : Bool :=
  match r.access with
  | .read n => data.length == n
  | .write _ => data.isEmpty

/-- What a completion answers a request with (R1, R2). -/
def completionAnswer (r : Request) (data : List Beat) : Answer :=
  match r.access with
  | .read _ => .data data
  | .write _ => .ack

/-- The issued request that a completion names and fits (R2). -/
def completedTxn (id : Nat) (data : List Beat) (mp : MemPath) : Option Txn :=
  mp.txns.find? fun t => t.id == id && t.progress == .issued && completionFits t.req data

/-- The completion of a forwarded request is matched to it (R2). -/
def completePass (t : Txn) (data : List Beat) (s : State) : State :=
  { s with mp := { s.mp with txns := setProgress t.id (.answered (completionAnswer t.req data)) s.mp.txns } }

/-- A read that waits for own writes, after the completion of one of them (R16). -/
def dropHold (own : Nat) (t : Txn) : Txn :=
  match t.progress with
  | .held on => { t with progress := if (on.filter (· != own)).isEmpty then .waiting else .held (on.filter (· != own)) }
  | .behind on => { t with progress := if (on.filter (· != own)).isEmpty then .waiting else .behind (on.filter (· != own)) }
  | .waiting | .issued | .answered _ => t

/-- A read that leaves the read-hold list at the completion of an own write (R16). A read behind it that waits for nothing
more was never in the list: it becomes ready in its turn, after its master's requests that were taken before it (log 16). -/
def releasedBy (own : Nat) (t : Txn) : Bool :=
  match t.progress with
  | .held on => (on.filter (· != own)).isEmpty
  | .waiting | .behind _ | .issued | .answered _ => false

/-- The head own write completes: it leaves the queue, and reads that waited for nothing more leave the read-hold list
(R14, R16). -/
def completeOwn (w : OwnWrite) (mp : MemPath) : MemPath :=
  { mp with
    ownQueue := mp.ownQueue.tail
    ownIssued := false
    txns := mp.txns.map (dropHold w.id)
    released := mp.released ++ (mp.txns.filter (releasedBy w.id)).map (·.id) }

/-! ### WINDOW (R4 to R6) -/

/-- The size and end of a staged window (R4). -/
def sizeOk (w : StagedWindow) : Bool :=
  1 ≤ w.pages && w.pages ≤ 16777215 && (w.basePage + w.pages) * 4096 ≤ Config.addressEnd

/-- The feeding master of a staged window (R4). -/
def feedingOk (k : WindowKind) (w : StagedWindow) : Bool :=
  match k with
  | .audio | .caption | .record => w.feeding ≤ 14 && inSet (BitVec.ofNat 4 w.feeding) w.writeMask
  | .report | .guard => true

/-- The masks of a staged window name no master 15; only a RECORD descriptor holds an archive mask (R3, R4, log 22). -/
def masksOk (k : WindowKind) (w : StagedWindow) : Bool :=
  !namesMaster15 w.writeMask && !namesMaster15 w.readMask && !(k == .record && namesMaster15 w.archiveMask)

/-- The sizes that REPORT and RECORD windows may have (R4). -/
def kindSizeOk (k : WindowKind) (w : StagedWindow) : Bool :=
  match k with
  | .report => 2 ≤ w.pages && w.pages ≤ 256
  | .record =>
    4 ≤ w.segCount && w.segCount ≤ 64 && 1 ≤ w.segSize && w.segSize ≤ 256 && w.pages == w.segCount * w.segSize * 256
  | .audio | .caption | .guard => true

/-- The windows of the slots other than one. -/
def otherWindows (mp : MemPath) (slot : Nat) : List Window :=
  ((List.range 8).filter (· != slot)).filterMap (windowAt mp)

/-- No other slot holds a window of the same kind, GUARD apart (R4). -/
def kindFree (k : WindowKind) (slot : Nat) (mp : MemPath) : Bool :=
  k == .guard || (otherWindows mp slot).all (·.kind != k)

/-- A staged descriptor is well formed (R4). -/
def descriptorOk (k : WindowKind) (w : StagedWindow) (mp : MemPath) : Bool :=
  sizeOk w && feedingOk k w && masksOk k w && kindSizeOk k w && kindFree k w.slot mp

/-- Two byte ranges share a byte. -/
def rangesMeet (b₁ e₁ b₂ e₂ : Nat) : Bool := b₁ < e₂ && b₂ < e₁

/-- A staged window shares a byte with another slot's window or with the control page (R5). -/
def overlapsOther (w : StagedWindow) (mp : MemPath) : Bool :=
  let b := w.basePage * 4096
  let e := (w.basePage + w.pages) * 4096
  rangesMeet b e mp.ctlBase (mp.ctlBase + 4096)
    || (otherWindows mp w.slot).any fun o => rangesMeet b e (o.basePage * 4096) ((o.basePage + o.pages) * 4096)

/-- The descriptor as it is installed: the fields a kind does not use are stored as 0 and empty (R4). -/
def installed (k : WindowKind) (w : StagedWindow) : Window where
  kind := k
  basePage := w.basePage
  pages := w.pages
  feeding := match k with
    | .audio | .caption | .record => BitVec.ofNat 4 w.feeding
    | .report | .guard => 0
  writeMask := if k = .report then 0 else w.writeMask
  readMask := w.readMask
  archiveMask := if k = .record then w.archiveMask else 0
  segCount := if k = .record then w.segCount else 0
  segSize := if k = .record then w.segSize else 0

/-- A window of one kind changes in a commit that replaces `old` by `new` (R6). -/
def kindChanges (k : WindowKind) (old new : Option Window) : Bool := (old.toList ++ new.toList).any (·.kind == k)

/-- The new window, if it is of one kind. -/
def newOfKind (k : WindowKind) (new : Option Window) : Option Window := new.filter (·.kind == k)

/-- The audio observer is told that the AUDIO window has changed (R51). -/
def audioWindowChanged (s : State) : State :=
  let s := abandon s
  { s with ao := idleObserver zeroShadow s.ao }

/-- The owners of the kinds involved are told of a commit (R6, R51, R99, R136, R160). -/
def tellOwners (old new : Option Window) (s : State) : State :=
  let s := if kindChanges .audio old new then audioWindowChanged s else s
  let s := if kindChanges .caption old new then
      { s with ca := captionWindowChanged (newOfKind .caption new).isSome s.ca }
    else s
  let s := if kindChanges .record old new then { s with rc := recordWindowChanged (newOfKind .record new) } else s
  if kindChanges .report old new then { s with ru := reportWindowChanged (newOfKind .report new) s.ru } else s

/-- An accepted WINDOW commit (R6). -/
def commitWindow (slot : Nat) (new : Option Window) (s : State) : State :=
  let old := windowAt s.mp slot
  let s := { s with mp := { s.mp with
      slots := s.mp.slots.setIfInBounds slot new
      blocked := s.mp.blocked.setIfInBounds slot 0
      lastReport := s.mp.lastReport.setIfInBounds slot none } }
  tellOwners old new s

/-- A slot that may change in LIVE and REPLAY: empty or holding a GUARD window (R5). -/
def guardOrEmpty (w : Option Window) : Bool :=
  match w with
  | none => true
  | some w => w.kind == .guard

/-- The staged kind is GUARD or empty (R5). -/
def stagesGuardOrEmpty (w : StagedWindow) : Bool :=
  kindOfCode w.kindCode == some none || kindOfCode w.kindCode == some (some .guard)

/-- The slot holds the RECORD window and a segment is HELD or EXPORT (R5). -/
def holdsPresent (slot : Nat) (s : State) : Bool :=
  ((windowAt s.mp slot).map (·.kind == .record)).getD false && s.rc.table.any isKept

/-- WINDOW, with the checks in their order (R5, R6). -/
def ownWindow : Owner := fun it s =>
  let w := stagedWindow it
  if 7 < w.slot then .error .badValue
  else if observing s && !(guardOrEmpty (windowAt s.mp w.slot) && stagesGuardOrEmpty w) then .error .busyLive
  else if holdsPresent w.slot s then .error .holdsPresent
  else
    match kindOfCode w.kindCode with
    | none => .error .badDescriptor
    | some none => .ok (commitWindow w.slot none s, 0)
    | some (some k) =>
      if !descriptorOk k w s.mp then .error .badDescriptor
      else if overlapsOther w s.mp then .error .overlap
      else .ok (commitWindow w.slot (some (installed k w)) s, 0)

end Sys2Proof.Machine
end

