-- ==== Sys2Proof/Machine/LineRows.lean ====
section
/-! DEFINITION. The rows of RESET_N, the tick and REF_CLK: LINE_RESET, RESET_N_RELEASE, TICK, REF_CLK_EDGE (01, 03). -/

namespace Sys2Proof.Machine

/-- LINE_RESET: every request, own write, held read, queued command, scan and report in flight is abandoned, and every
block takes its reset values. The part does nothing until the release (R17, R35, R177). The sender's queue stands. -/
def execLineReset (s : State) : Host.Outcome State Fault Refusal :=
  .next { State.reset with pending := s.pending, resetAsserted := true }

/-- RESET_N_RELEASE: the straps are sampled and the control-page base is set; without a reset there is no release
(R3, R177). -/
def execResetNRelease (straps : BitVec 8) (s : State) : Host.Outcome State Fault Refusal :=
  .next (if s.resetAsserted then
      { s with resetAsserted := false, mp := { s.mp with ctlBase := straps.toNat * 67108864 } }
    else s)

/-- A tick by the source of the mode: in REPLAY the tick that a frame has made, otherwise the edges of REF_CLK that are
left to the prescaler, and their tick (R37 to R39, log 3). -/
def tickRow (cueHigh : Bool) (later : TickSet) (s : State) : State :=
  if s.cu.mode = .replay then takeFrameTick later s
  else
    let s := passEdges (s.tb.divisor - s.tb.prescale) s
    tickEvent cueHigh later { s with tb := { s.tb with prescale := 0 } }

/-- TICK: station time moves on by 1 ms and the blocks take the tick (R37). A sub-block completion that is due comes
first (log 5). -/
def execTick (cueHigh : Bool) (later : TickSet) (s : State) : Host.Outcome State Fault Refusal :=
  .next (if s.resetAsserted then s else tickRow cueHigh later (completeSubBlock s))

/-- REF_CLK_EDGE: a rising edge of REF_CLK (R38). -/
def execRefClkEdge (cueHigh : Bool) (later : TickSet) (s : State) : Host.Outcome State Fault Refusal :=
  running s (edgeEvent cueHigh later)

end Sys2Proof.Machine
end

