-- ==== Sys2Proof/WellFormed.lean ====
section
/-! DEFINITION. Which commands the ports can carry: the shape of a request (01 section 1.1, 00 section 4.5). -/

namespace Sys2Proof

/-- A request is a burst of 1 to 32 beats (01 section 1.1). -/
def Request.lengthOk (r : Request) : Bool := 1 ≤ r.access.length && r.access.length ≤ 32

/-- The address of the first beat is aligned to 8 bytes (01 section 1.1). -/
def Request.aligned (r : Request) : Bool := r.addr % 8 == 0

/-- The address of the first beat is a 36-bit byte address (00 section 4.5). -/
def Request.inSpace (r : Request) : Bool := r.addr < 2 ^ 36

/-- A request that a bus master can make at the system port. -/
def Request.wf (r : Request) : Bool := r.lengthOk && r.aligned && r.inSpace

/-- A command that can happen at the part's ports and lines. The memory port answers a read with at most the 32 beats a
request may ask for (01 section 1.1); every other row has no operand that a port could not carry. -/
def Instr.wf : Instr → Bool
  | .passThroughRequest r => r.wf
  | .memoryPortCompletion _ data => data.length ≤ 32
  | .lineReset | .resetNRelease _ | .answerReturn _ | .memoryPortIssue | .ownWriteOffer | .ownWriteCompletion
  | .controlPageBeat | .setMode | .setTime | .setPrescale | .controlMask | .readIndex | .flagEnableSet
  | .flagEnableClear | .ackFlags | .cancelFrom | .replayCue | .holdPolicy | .layoutOverrideSet | .layoutOverrideClear
  | .activitySet | .defaultEntryLoudness | .defaultEntryCaption | .defaultEntryDeadAir | .lineForce | .restart | .hold
  | .releaseHold | .exportRequest | .exportDone | .cueSet | .window | .entry | .filter | .tick _ _ | .cue
  | .startCompare | .stall | .deadAir | .captionGap | .imageDue | .descriptorBeat | .sampleWord | .subBlockCompletion
  | .captionBeat | .scanCompletion _ | .layRecord | .statusImageCompose | .refClkEdge _ _ => true

end Sys2Proof
end

