-- ==== Sys2Proof/Machine/PortRows.lean ====
section
/-! DEFINITION. The rows of the system port and the memory port, and the own-write offer (01). -/

namespace Sys2Proof.Machine

/-- PASS_THROUGH_REQUEST (R1, R7 to R13). A request that the port cannot carry is refused (log 13). -/
def execPassThroughRequest (r : Request) (s : State) : Host.Outcome State Fault Refusal :=
  if r.wf then running s (takeRequest r) else .refused .illFormedRequest

/-- ANSWER_RETURN (R1). -/
def execAnswerReturn (master : Master) (s : State) : Host.Outcome State Fault Refusal := running s (answerReturn master)

/-- MEMORY_PORT_ISSUE (R15). -/
def execMemoryPortIssue (s : State) : Host.Outcome State Fault Refusal :=
  running s fun s => { s with mp := arbitrate s.mp }

/-- The issued request that a completion names. -/
def issuedTxn (id : Nat) (mp : MemPath) : Option Txn := mp.txns.find? fun t => t.id == id && t.progress == .issued

/-- MEMORY_PORT_COMPLETION (R2). A completion that names no issued request has nothing to be matched to and changes
nothing; one with the wrong number of beats is refused (log 14). -/
def execMemoryPortCompletion (id : Nat) (data : List Beat) (s : State) : Host.Outcome State Fault Refusal :=
  match issuedTxn id s.mp with
  | none => running s fun s => s
  | some t => if completionFits t.req data then running s (completePass t data) else .refused .illFormedCompletion

/-- OWN_WRITE_OFFER (R14, R161). -/
def execOwnWriteOffer (s : State) : Host.Outcome State Fault Refusal := running s offerOwnWrite

/-- The completion of the own write that is issued, if one is (R14). -/
def ownWriteCompletion (s : State) : State :=
  match s.mp.ownQueue with
  | [] => s
  | w :: _ => if s.mp.ownIssued then { s with mp := completeOwn w s.mp } else s

/-- OWN_WRITE_COMPLETION (R14, R16). -/
def execOwnWriteCompletion (s : State) : Host.Outcome State Fault Refusal := running s ownWriteCompletion

end Sys2Proof.Machine
end

