-- ==== Sys2Proof/Machine/CommandRows.lean ====
section
/-! DEFINITION. The rows of the commands: each carries out the head of the command queue when it is the row's own item
(R24, log 2), with the checks and the outcome of R25 and R27. -/

namespace Sys2Proof.Machine

/-- SET_MODE (R29 to R31). -/
def execSetMode (s : State) : Host.Outcome State Fault Refusal := running s (carryOut (isKind .setMode) ownSetMode)

/-- SET_TIME (R40). -/
def execSetTime (s : State) : Host.Outcome State Fault Refusal := running s (carryOut (isKind .setTime) ownSetTime)

/-- SET_PRESCALE (R41). -/
def execSetPrescale (s : State) : Host.Outcome State Fault Refusal :=
  running s (carryOut (isKind .setPrescale) ownSetPrescale)

/-- CONTROL_MASK (R28). -/
def execControlMask (s : State) : Host.Outcome State Fault Refusal :=
  running s (carryOut (isKind .controlMask) ownControlMask)

/-- READ_INDEX (R164). -/
def execReadIndex (s : State) : Host.Outcome State Fault Refusal :=
  running s (carryOut (isKind .readIndex) ownReadIndex)

/-- FLAG_ENABLE_SET (R166). -/
def execFlagEnableSet (s : State) : Host.Outcome State Fault Refusal :=
  running s (carryOut (isKind .flagEnableSet) ownFlagEnableSet)

/-- FLAG_ENABLE_CLEAR (R166). -/
def execFlagEnableClear (s : State) : Host.Outcome State Fault Refusal :=
  running s (carryOut (isKind .flagEnableClear) ownFlagEnableClear)

/-- ACK_FLAGS (R167). -/
def execAckFlags (s : State) : Host.Outcome State Fault Refusal := running s (carryOut (isKind .ackFlags) ownAckFlags)

/-- CANCEL_FROM (R117). -/
def execCancelFrom (s : State) : Host.Outcome State Fault Refusal :=
  running s (carryOut (isKind .cancelFrom) ownCancelFrom)

/-- REPLAY_CUE (R123). -/
def execReplayCue (s : State) : Host.Outcome State Fault Refusal :=
  running s (carryOut (isKind .replayCue) ownReplayCue)

/-- HOLD_POLICY (R120). -/
def execHoldPolicy (s : State) : Host.Outcome State Fault Refusal :=
  running s (carryOut (isKind .holdPolicy) ownHoldPolicy)

/-- LAYOUT_OVERRIDE with operation SET (R65, log 31). -/
def execLayoutOverrideSet (s : State) : Host.Outcome State Fault Refusal :=
  running s (carryOut (isOverrideOp 1) ownLayoutOverride)

/-- LAYOUT_OVERRIDE with operation CLEAR (R65, log 31). -/
def execLayoutOverrideClear (s : State) : Host.Outcome State Fault Refusal :=
  running s (carryOut (isOverrideOp 2) ownLayoutOverride)

/-- ACTIVITY_SET (R85). -/
def execActivitySet (s : State) : Host.Outcome State Fault Refusal :=
  running s (carryOut (isKind .activitySet) ownActivitySet)

/-- DEFAULT_ENTRY with part LOUDNESS (R119, log 31). -/
def execDefaultEntryLoudness (s : State) : Host.Outcome State Fault Refusal :=
  running s (carryOut (isDefaultPart 1) ownDefaultEntry)

/-- DEFAULT_ENTRY with part CAPTION (R119, log 31). -/
def execDefaultEntryCaption (s : State) : Host.Outcome State Fault Refusal :=
  running s (carryOut (isDefaultPart 2) ownDefaultEntry)

/-- DEFAULT_ENTRY with part DEAD_AIR (R119, log 31). -/
def execDefaultEntryDeadAir (s : State) : Host.Outcome State Fault Refusal :=
  running s (carryOut (isDefaultPart 3) ownDefaultEntry)

/-- LINE_FORCE (R48). -/
def execLineForce (s : State) : Host.Outcome State Fault Refusal :=
  running s (carryOut (isKind .lineForce) ownLineForce)

/-- RESTART (R33, R34). -/
def execRestart (s : State) : Host.Outcome State Fault Refusal := running s (carryOut (isKind .restart) ownRestart)

/-- HOLD (R150). -/
def execHold (s : State) : Host.Outcome State Fault Refusal := running s (carryOut (isKind .hold) ownHold)

/-- RELEASE_HOLD (R151). -/
def execReleaseHold (s : State) : Host.Outcome State Fault Refusal :=
  running s (carryOut (isKind .releaseHold) ownReleaseHold)

/-- EXPORT_REQUEST (R152, R153). -/
def execExportRequest (s : State) : Host.Outcome State Fault Refusal :=
  running s (carryOut (isKind .exportRequest) ownExportRequest)

/-- EXPORT_DONE (R154). -/
def execExportDone (s : State) : Host.Outcome State Fault Refusal :=
  running s (carryOut (isKind .exportDone) ownExportDone)

/-- CUE_SET (R46). -/
def execCueSet (s : State) : Host.Outcome State Fault Refusal := running s (carryOut (isKind .cueSet) ownCueSet)

/-- WINDOW (R4 to R6). -/
def execWindow (s : State) : Host.Outcome State Fault Refusal := running s (carryOut (isKind .window) ownWindow)

/-- ENTRY (R116, R118). -/
def execEntry (s : State) : Host.Outcome State Fault Refusal := running s (carryOut (isKind .entry) ownEntry)

/-- FILTER (R69). -/
def execFilter (s : State) : Host.Outcome State Fault Refusal := running s (carryOut (isKind .filter) ownFilter)

end Sys2Proof.Machine
end

