-- ==== Sys2Proof/Machine/EventRows.lean ====
section
/-! DEFINITION. The rows of the part's own events: beats and words taken, completions, ticks taken apart, firings and
cues, scans, and the report unit's units. A row that finds nothing to take changes nothing (log 2). -/

namespace Sys2Proof.Machine

/-- CONTROL_PAGE_BEAT: the command unit takes the oldest beat handed to it (R18 to R23). -/
def execControlPageBeat (s : State) : Host.Outcome State Fault Refusal := running s takeControlBeat

/-- CUE: the schedule unit takes the oldest qualified cue (R122). -/
def execCue (s : State) : Host.Outcome State Fault Refusal := running s takeCue

/-- START_COMPARE: the schedule unit takes the firing of the start compare (R121). -/
def execStartCompare (s : State) : Host.Outcome State Fault Refusal := running s takeFiring

/-- STALL: the audio observer takes the tick it is owed, which may bring the stall count to 500 (R61). -/
def execStall (s : State) : Host.Outcome State Fault Refusal := running s takeObserverTick

/-- DEAD_AIR: the activity and gating unit takes the tick it is owed, which may begin an episode (R86, R87). -/
def execDeadAir (s : State) : Host.Outcome State Fault Refusal := running s takeActivityTick

/-- CAPTION_GAP: the caption unit takes the tick it is owed, which may begin a gap episode (R107, R108). -/
def execCaptionGap (s : State) : Host.Outcome State Fault Refusal := running s takeCaptionTick

/-- IMAGE_DUE: the report unit takes the tick it is owed, which may bring the image tick count to 100 (R170). -/
def execImageDue (s : State) : Host.Outcome State Fault Refusal := running s takeReportTick

/-- The oldest item handed to the audio observer is taken, if it is of one sort. -/
def takeItem (mine : AudioItem → Bool) (s : State) : State :=
  match s.ao.inbox with
  | [] => s
  | i :: rest => if mine i then audioItemEvent i { s with ao := { s.ao with inbox := rest } } else s

/-- An item is a beat of the descriptor area (R52). -/
def isDescriptorItem : AudioItem → Bool
  | .descriptor _ _ => true
  | .word _ _ _ => false

/-- DESCRIPTOR_BEAT (R53 to R55). -/
def execDescriptorBeat (s : State) : Host.Outcome State Fault Refusal := running s (takeItem isDescriptorItem)

/-- SAMPLE_WORD (R57 to R60). -/
def execSampleWord (s : State) : Host.Outcome State Fault Refusal := running s (takeItem fun i => !isDescriptorItem i)

/-- SUB_BLOCK_COMPLETION: the completion that the last word has made due (R63, log 5). -/
def execSubBlockCompletion (s : State) : Host.Outcome State Fault Refusal :=
  .next (if s.resetAsserted then s else completeSubBlock s)

/-- CAPTION_BEAT (R100 to R106). -/
def execCaptionBeat (s : State) : Host.Outcome State Fault Refusal := running s takeCaption

/-- SCAN_COMPLETION (R94 to R96). -/
def execScanCompletion (bank : Bank) (s : State) : Host.Outcome State Fault Refusal := running s (completeScan bank)

/-- LAY_RECORD (R161 to R163). -/
def execLayRecord (s : State) : Host.Outcome State Fault Refusal := running s layRecord

/-- STATUS_IMAGE_COMPOSE (R171). -/
def execStatusImageCompose (s : State) : Host.Outcome State Fault Refusal := running s composeImage

end Sys2Proof.Machine
end

