-- ==== Sys2Proof/Machine/Dispatch.lean ====
section
/-! DEFINITION. The meaning of each row: one arm per constructor of `Instr`. -/

namespace Sys2Proof.Machine

def exec (i : Instr) (s : State) : Host.Outcome State Fault Refusal :=
  match i with
  | .lineReset => Sys2Proof.Machine.execLineReset s
  | .resetNRelease straps => Sys2Proof.Machine.execResetNRelease straps s
  | .passThroughRequest r => Sys2Proof.Machine.execPassThroughRequest r s
  | .answerReturn master => Sys2Proof.Machine.execAnswerReturn master s
  | .memoryPortIssue => Sys2Proof.Machine.execMemoryPortIssue s
  | .memoryPortCompletion id data => Sys2Proof.Machine.execMemoryPortCompletion id data s
  | .ownWriteOffer => Sys2Proof.Machine.execOwnWriteOffer s
  | .ownWriteCompletion => Sys2Proof.Machine.execOwnWriteCompletion s
  | .controlPageBeat => Sys2Proof.Machine.execControlPageBeat s
  | .setMode => Sys2Proof.Machine.execSetMode s
  | .setTime => Sys2Proof.Machine.execSetTime s
  | .setPrescale => Sys2Proof.Machine.execSetPrescale s
  | .controlMask => Sys2Proof.Machine.execControlMask s
  | .readIndex => Sys2Proof.Machine.execReadIndex s
  | .flagEnableSet => Sys2Proof.Machine.execFlagEnableSet s
  | .flagEnableClear => Sys2Proof.Machine.execFlagEnableClear s
  | .ackFlags => Sys2Proof.Machine.execAckFlags s
  | .cancelFrom => Sys2Proof.Machine.execCancelFrom s
  | .replayCue => Sys2Proof.Machine.execReplayCue s
  | .holdPolicy => Sys2Proof.Machine.execHoldPolicy s
  | .layoutOverrideSet => Sys2Proof.Machine.execLayoutOverrideSet s
  | .layoutOverrideClear => Sys2Proof.Machine.execLayoutOverrideClear s
  | .activitySet => Sys2Proof.Machine.execActivitySet s
  | .defaultEntryLoudness => Sys2Proof.Machine.execDefaultEntryLoudness s
  | .defaultEntryCaption => Sys2Proof.Machine.execDefaultEntryCaption s
  | .defaultEntryDeadAir => Sys2Proof.Machine.execDefaultEntryDeadAir s
  | .lineForce => Sys2Proof.Machine.execLineForce s
  | .restart => Sys2Proof.Machine.execRestart s
  | .hold => Sys2Proof.Machine.execHold s
  | .releaseHold => Sys2Proof.Machine.execReleaseHold s
  | .exportRequest => Sys2Proof.Machine.execExportRequest s
  | .exportDone => Sys2Proof.Machine.execExportDone s
  | .cueSet => Sys2Proof.Machine.execCueSet s
  | .window => Sys2Proof.Machine.execWindow s
  | .entry => Sys2Proof.Machine.execEntry s
  | .filter => Sys2Proof.Machine.execFilter s
  | .tick cueHigh later => Sys2Proof.Machine.execTick cueHigh later s
  | .cue => Sys2Proof.Machine.execCue s
  | .startCompare => Sys2Proof.Machine.execStartCompare s
  | .stall => Sys2Proof.Machine.execStall s
  | .deadAir => Sys2Proof.Machine.execDeadAir s
  | .captionGap => Sys2Proof.Machine.execCaptionGap s
  | .imageDue => Sys2Proof.Machine.execImageDue s
  | .descriptorBeat => Sys2Proof.Machine.execDescriptorBeat s
  | .sampleWord => Sys2Proof.Machine.execSampleWord s
  | .subBlockCompletion => Sys2Proof.Machine.execSubBlockCompletion s
  | .captionBeat => Sys2Proof.Machine.execCaptionBeat s
  | .scanCompletion bank => Sys2Proof.Machine.execScanCompletion bank s
  | .layRecord => Sys2Proof.Machine.execLayRecord s
  | .statusImageCompose => Sys2Proof.Machine.execStatusImageCompose s
  | .refClkEdge cueHigh later => Sys2Proof.Machine.execRefClkEdge cueHigh later s

end Sys2Proof.Machine
end

