-- ==== Sys2Proof/Safety.lean ====
section
/-! DEFINITION. What a run of the part keeps: the invariants that the spec states of the whole machine or that its rules
imply, block by block, and when the part can take a row. -/

namespace Sys2Proof.Machine

/-! ### When a row has its effect -/

/-- Nothing of a word's event is left over: no sub-block completion is due and no frame tick waits (log 5). -/
def settled (s : State) : Bool := !completionDue s && !s.tb.frameTick

/-- The part is out of reset and nothing is left over. -/
def ready (s : State) : Bool := !s.resetAsserted && settled s

/-- The command queue with its head taken. -/
def withQueue (rest : List CmdItem) (s : State) : State := { s with cu := { s.cu with queue := rest } }

/-- The part is ready and its command queue begins with an item of one kind. -/
def headIs (k : CmdKind) (it : CmdItem) (rest : List CmdItem) (s : State) : Prop :=
  ready s = true ∧ s.cu.queue = it :: rest ∧ it.kind = k

/-- Nothing has been handed to an observer or offered to a block that has not taken it (log 4, log 6). -/
def nothingHanded (s : State) : Prop :=
  s.ao.inbox = [] ∧ s.ca.inbox = [] ∧ s.tb.owed = TickSet.none ∧ s.tb.firing = none ∧ s.tb.cues = []

/-- No scan is in flight (R94). -/
def noScan (s : State) : Prop := s.su.slotA = none ∧ s.su.slotB = none

/-! ### Openings (R125) -/

/-- The activity and gating unit with one bank, if one is named, in a given state (R90). -/
def bankGoes (bank : Option Bank) (now : BankState) (ag : Activity) : Activity :=
  { ag with
    bankA := if bank = some .a then { ag.bankA with state := now } else ag.bankA
    bankB := if bank = some .b then { ag.bankB with state := now } else ag.bankB }

/-- The bank that an opening takes: A if it is FREE, otherwise B if it is FREE, otherwise none (R91). -/
def bankToTake (ag : Activity) : Option Bank :=
  if ag.bankA.state = .free then some .a else if ag.bankB.state = .free then some .b else none

/-- The open-entry record at its opening: the fields that the opening sets, and every other field as R127 and R111 say that it
begins. -/
def recordAtOpening (e : Entry) (start : Time) (cause : Cause) (early replay : Bool) (bank : Option Bank)
    (captionPresent : Bool) : OpenEntry :=
  { entry := e, actualStart := start, cause := cause, cuedEarly := early, replay := replay, bank := bank
    subBlocks := 0, measuredMs := 0, unmeasuredMs := 0, evidenceIncomplete := false
    discontinuities := 0, saturations := 0, peaks := #v[0, 0, 0, 0, 0, 0, 0, 0]
    maxMomentary := none, maxShortTerm := none, overMark := false, overCount := 0, deadAirCount := 0
    missed := 0, isPartial := false
    captionPresent := captionPresent, activeMs := 0, coveredMs := 0, unitCount := 0, otherService := 0, gapCount := 0
    tornCount := 0, tornMark := false, malformed := 0 }

/-- `t` is `s` after its head `e` has opened with a given actual start and cause, and the head after it has not: the old
entry has closed into a slot, where its scan has until the second tick or, in REPLAY, 2 × D edges (log 9), or with its
verdict, its bank SCANNING; the record is as R127 begins it, with the bank that is FREE then, now COLLECTING; the timers and
sums are 0, ENTRY_OPENED is offered and the compare follows the new head (R90, R91, R94, R125, R127). -/
def HeadOpened (s t : State) (old : OpenEntry) (e : Entry) (rest : List Entry) (start : Time) (cause : Cause)
    (early : Bool) : Prop :=
  let ag := bankGoes old.bank .scanning s.ag
  let bank := bankToTake ag
  let record := recordAtOpening e start cause early (s.cu.mode = .replay) bank s.ca.windowPresent
  let opened : Report := .entryOpened record e.start (some old.entry.id) rest.length
  t = { s with tb := t.tb, ag := t.ag, ca := t.ca, su := t.su, rc := t.rc, ru := t.ru }
    ∧ t.tb = { s.tb with firing := none, compare := rest.head?.map (·.start) }
    ∧ t.ag = { bankGoes bank .collecting ag with
        deadTimer := 0, sumN := 0, sumS := [], quietStart := if s.ag.active then none else some s.tb.time }
    ∧ t.ca = { s.ca with gapTimer := 0 }
    ∧ t.su.queue = rest ∧ t.su.openEntry = some record ∧ t.su.defaults = s.su.defaults ∧ t.su.policy = s.su.policy
    ∧ t.su.strayCues = s.su.strayCues
    ∧ (∀ bank, old.bank = some bank → slotOf t.su bank
        = some ⟨closedOf old start false, if s.cu.mode = .replay then .edges (2 * s.tb.divisor) else .ticks 1⟩)
    ∧ (∀ bank, old.bank ≠ some bank → slotOf t.su bank = slotOf s.su bank)
    ∧ t.rc = (noteOpening e.id s).rc
    ∧ (old.bank ≠ none → t.ru = takeOffer opened s.tb.time s.ru)
    ∧ (old.bank = none → t.ru = takeOffer opened s.tb.time
        (takeOffer (.verdict (verdictOf (closedOf old start false) none none)) s.tb.time s.ru))

/-- `t` is `s` after START has opened the default entry in mode `m` and `items` are left in the command queue, before any
head opens and before COMMAND_DONE: the observers begin QUIET and in WAIT_HEADER, the record is the default entry's, with a
FREE bank if there is one, and the compare follows the head of the pending queue (R30, R119, R125). -/
def StartOpened (s t : State) (m : Mode) (items : List CmdItem) : Prop :=
  let d := s.su.defaults
  let bank := bankToTake s.ag
  let entry : Entry :=
    { id := 0, cls := .programme, start := s.tb.time, target := d.target, tolerance := d.tolerance, margin := d.margin
      required := d.required, service := d.service, gapLimit := d.gapLimit, permille := d.permille
      deadAirLimit := d.deadAirLimit, lateCommit := false }
  let record := recordAtOpening entry s.tb.time .start false (m = .replay) bank s.ca.windowPresent
  t = { s with cu := t.cu, tb := t.tb, ag := t.ag, ca := t.ca, su := t.su, rc := t.rc, ru := t.ru }
    ∧ t.cu = { s.cu with mode := m, queue := items }
    ∧ t.tb = { s.tb with
        compare := s.su.queue.head?.map (·.start), cueLevel := none, cueRun := 0, cueStart := none, residue := 0
        prescale := if m = .replay then 0 else s.tb.prescale }
    ∧ t.su = { s.su with openEntry := some record }
    ∧ t.ag = { bankGoes bank .collecting s.ag with
        active := false, onCount := 0, offCount := 0, quietStart := some s.tb.time, deadTimer := 0, sumN := 0, sumS := [] }
    ∧ t.ca = { s.ca with
        collecting := false, shadow := none, expected := none, gapTimer := 0, lastQualifying := none }
    ∧ t.rc = (noteOpening 0 { s with cu := { s.cu with mode := m } }).rc
    ∧ t.ru = takeOffer (.entryOpened record s.tb.time none s.su.queue.length) s.tb.time s.ru

/-- A head opens in the event in which it becomes head: its start has been reached, or it carries LATE_COMMIT; at START only
the start counts (R30, R118, log 18). -/
def dueAtOnce (atStart : Bool) (now : Time) (e : Entry) : Prop :=
  (e.start - now).toInt ≤ 0 ∨ (e.lateCommit = true ∧ atStart = false)

/-- `t` is `s` after the heads that are due at once have opened one after the other, each at the present station time, with
the cause LATE_COMMIT when it carries the flag and COMPARE otherwise; the first head that is not due stays pending (R30, R118,
R125). -/
inductive HeadsOpenOn (atStart : Bool) : State → State → Prop where
  | stays (s : State) (h : ∀ e, s.su.queue.head? = some e → ¬ dueAtOnce atStart s.tb.time e) : HeadsOpenOn atStart s s
  | opens (s u t : State) (old : OpenEntry) (e : Entry) (rest : List Entry) (hold : s.su.openEntry = some old)
      (hq : s.su.queue = e :: rest) (due : dueAtOnce atStart s.tb.time e)
      (now : HeadOpened s u old e rest s.tb.time (if e.lateCommit then .lateCommit else .compare) false)
      (more : HeadsOpenOn atStart u t) : HeadsOpenOn atStart s t

/-- The head after an opening stays pending: its start is later than the present, and it carries no LATE_COMMIT (R118). -/
def staysPending (now : Time) (rest : List Entry) : Prop :=
  ∀ n, rest.head? = some n → 0 < (n.start - now).toInt ∧ n.lateCommit = false

/-! ### Windows (R3 to R5) -/

/-- The first byte of a window. -/
def Window.base (w : Window) : Nat := w.basePage * 4096

/-- The byte after a window. -/
def Window.stop (w : Window) : Nat := (w.basePage + w.pages) * 4096

/-- An installed descriptor is well formed (R4). -/
def Window.ok (w : Window) : Bool :=
  1 ≤ w.pages && w.pages ≤ 16777215 && w.stop ≤ 2 ^ 36
    && !namesMaster15 w.writeMask && !namesMaster15 w.readMask && !namesMaster15 w.archiveMask
    && match w.kind with
      | .audio | .caption => inSet w.feeding w.writeMask && w.archiveMask == 0 && w.segCount == 0 && w.segSize == 0
      | .record =>
        inSet w.feeding w.writeMask && 4 ≤ w.segCount && w.segCount ≤ 64 && 1 ≤ w.segSize && w.segSize ≤ 256
          && w.pages == w.segCount * w.segSize * 256
      | .report =>
        2 ≤ w.pages && w.pages ≤ 256 && w.writeMask == 0 && w.feeding == 0 && w.archiveMask == 0 && w.segCount == 0
          && w.segSize == 0
      | .guard => w.feeding == 0 && w.archiveMask == 0 && w.segCount == 0 && w.segSize == 0

/-- Two windows share no byte, and only GUARD windows share a kind (R4, R5). -/
def Window.apart (v w : Window) : Bool :=
  !rangesMeet v.base v.stop w.base w.stop && (v.kind != w.kind || v.kind == .guard)

/-- A window lies outside the control page (R5). -/
def Window.offPage (mp : MemPath) (w : Window) : Bool := !rangesMeet w.base w.stop mp.ctlBase (mp.ctlBase + 4096)

/-- Every installed window is well formed and apart from the control page and from every other window; none is installed
while RESET_N is asserted (R3 to R5). -/
def WindowsOk (s : State) : Prop :=
  (∀ k w, windowAt s.mp k = some w → w.ok ∧ w.offPage s.mp)
    ∧ (∀ j k v w, j ≠ k → windowAt s.mp j = some v → windowAt s.mp k = some w → v.apart w)
    ∧ (s.resetAsserted = true → ∀ k, windowAt s.mp k = none)

/-- The owners know their windows: the segment table has the N records of the RECORD window, the ring lies in the REPORT
window, and the caption unit knows whether a CAPTION window is installed (R98, R136, R160). -/
def OwnersAgree (s : State) : Prop :=
  s.rc.table.length = ((windowOf .record s.mp).map (·.segCount)).getD 0
    ∧ s.ru.geometry = (windowOf .report s.mp).map geometryOf
    ∧ s.ca.windowPresent = (windowOf .caption s.mp).isSome

/-! ### The segment table (R137, R138, R153) -/

/-- A segment record's fields agree with its state: HELD exactly with reasons, an end once it has closed, and the
before-export state that its reasons give (R137). -/
def segmentOk (g : Segment) : Bool :=
  g.entries.length ≤ 4 && match g.state with
    | .free => g == freeSegment g.index
    | .filling => g.start.isSome && g.finish.isNone && g.beforeExportHeld == none
    | .closed => g.start.isSome && g.finish.isSome && g.reasons == 0 && g.beforeExportHeld == none
    | .held => g.start.isSome && g.finish.isSome && g.reasons != 0 && g.beforeExportHeld == none
    | .exporting => g.start.isSome && g.finish.isSome && g.beforeExportHeld == some (g.reasons != 0)

/-- A segment is FILLING. -/
def isFilling (g : Segment) : Bool := g.state == .filling

/-- The segment table: records stand at their index and agree with their state, at least two segments are outside HELD and
EXPORT, at most one is FILLING, and the pending export names it (R137, R138, R153). -/
def RecorderOk (s : State) : Prop :=
  (∀ i g, s.rc.table[i]? = some g → g.index = i ∧ segmentOk g)
    ∧ (s.rc.table ≠ [] → holdCount s.rc.table + 2 ≤ s.rc.table.length)
    ∧ s.rc.table.countP isFilling ≤ 1
    ∧ (∀ p, s.rc.pendingExport = some p → ∃ g, s.rc.table[p.segment]? = some g ∧ isFilling g)

/-! ### Modes (R29 to R31) -/

/-- In OFF no entry is open, nothing is offered to the schedule unit, and the observers stand still (R31). -/
def offQuiet (s : State) : Bool :=
  s.su.openEntry == none && s.tb.compare == none && s.tb.firing == none && s.tb.cues == [] && !s.tb.frameTick
    && s.ao.engine == .idle && s.ao.sub == none && s.ao.history == [] && s.ao.inbox == []
    && !s.ag.active && s.ag.deadTimer == 0
    && !s.ca.collecting && s.ca.gapTimer == 0 && s.ca.inbox == []

/-- The compare or its firing stands for the head of the pending queue (R43, R121, R125). -/
def compareFollowsHead (s : State) : Bool :=
  match s.tb.firing with
  | none => s.tb.compare == s.su.queue.head?.map (·.start)
  | some v => s.tb.compare == none && s.su.queue.head?.map (·.start) == some v

/-- An entry is open exactly while the part observes, and the start compare follows the head of the pending queue
(R30, R31, R43). -/
def ModeOk (s : State) : Prop :=
  (s.cu.mode = .off → offQuiet s) ∧ (s.cu.mode ≠ .off → s.su.openEntry.isSome ∧ compareFollowsHead s)
    ∧ (s.tb.frameTick = true → s.cu.mode = .replay)

/-! ### Banks (R89 to R92, R129) -/

/-- A histogram in its canonical form: rising bins below 800, no zero count. -/
def Histogram.wf (h : Histogram) : Bool :=
  h.all (fun x => x.1 < 800 && 0 < x.2) && (h.map (·.1)).Pairwise (· < ·)

/-- A bank: its histogram is canonical and within the largest count, and a FREE bank is cleared (R90). -/
def HistBank.ok (b : HistBank) : Bool :=
  Histogram.wf b.counts && b.counts.all (fun x => x.2 ≤ Config.binCap) && (b.state != .free || b.counts == [])

/-- The bank of the open entry. -/
def openBank (s : State) : Option Bank := s.su.openEntry.bind (·.bank)

/-- Each bank is SCANNING exactly while its closing slot is occupied and COLLECTING exactly while it is the open entry's;
the running sums are those of the open entry's bank, and 0 without one (R90 to R92, R129). -/
def BanksOk (s : State) : Prop :=
  (∀ bank, (bankOf s.ag bank).ok
      ∧ ((bankOf s.ag bank).state = .scanning ↔ (slotOf s.su bank).isSome)
      ∧ ((bankOf s.ag bank).state = .collecting ↔ openBank s = some bank))
    ∧ s.ag.sumN = binTotal s.ag.sumS
    ∧ (∀ bank, openBank s = some bank → s.ag.sumS = (bankOf s.ag bank).counts)
    ∧ (openBank s = none → s.ag.sumS = [])

/-! ### Bounds (R14, R23, R38, R39, R44 to R46, R50, R63, R114, R157, R159, R160) -/

/-- Every queue is within its depth. -/
def QueuesOk (s : State) : Prop :=
  s.cu.queue.length ≤ 4 ∧ s.mp.ownQueue.length ≤ 8 ∧ s.ru.queue.length ≤ 16 ∧ s.su.queue.length ≤ 32
    ∧ s.ao.history.length ≤ 30

/-- The counts of the time base are within their ranges. -/
def TimeOk (s : State) : Prop :=
  s.tb.prescale < s.tb.divisor ∧ s.tb.divisor ≤ 65536 ∧ s.tb.residue < 48
    ∧ 1 ≤ s.tb.cueQ ∧ s.tb.cueQ ≤ 16 ∧ s.tb.cueRun < s.tb.cueQ ∧ s.tb.earlyWindow ≤ 60000
    ∧ s.ru.imageTicks < 100

/-- A unit in progress has a burst to offer. A record is the one at the head of the report queue: with the positions that it
and a LOST record ahead of it still take from the write index on, the unread count stays below the capacity, and its bursts
lie in the last of these positions. So no burst goes to an unread position (R160 to R163, log 20). -/
def UnitFits (g : Geometry) (ru : Reports) (u : UnitInProgress) : Prop :=
  let unread := (ru.writeIndex + g.capacity - ru.readIndex) % g.capacity
  u.bursts ≠ [] ∧ (u.image = true → u.lost = none)
    ∧ (u.image = false → ∃ q rest, ru.queue = q :: rest
        ∧ let n := positions q.report + if u.lost.isSome then 1 else 0
          unread + n < g.capacity ∧ u.bursts.length ≤ n ∧ (u.lost.isSome → u.bursts.length = n)
            ∧ ∀ i b, u.bursts[i]? = some b →
                b.addr = g.base + 256 + 64 * ((ru.writeIndex + (n - u.bursts.length) + i) % g.capacity))

/-- The indices of the ring are ring positions, a unit in progress has its room, and there is no ring and no unit in progress
without a REPORT window. -/
def RingOk (s : State) : Prop :=
  match s.ru.geometry with
  | none => s.ru.writeIndex = 0 ∧ s.ru.readIndex = 0 ∧ s.ru.current = none
  | some g =>
    s.ru.writeIndex < g.capacity ∧ s.ru.readIndex < g.capacity ∧ ∀ u, s.ru.current = some u → UnitFits g s.ru u

/-! ### What a position and the status image hold (R173, R175, R176) -/

/-- A field as a table of a layout names it: first byte, bytes, value. A negative value stands in two's complement (R173). -/
abbrev LaidField := Nat × Nat × Int

/-- The n bytes from byte `first` of beats laid one after the other, as a little-endian number (R173). -/
def fieldAt (beats : List Beat) (first n : Nat) : Nat :=
  (beats.zipIdx.map fun b => b.1.toNat * 2 ^ (64 * b.2)).sum / 256 ^ first % 256 ^ n

/-- Beats hold the fields of a table, and every other byte is zero (R173, R175, R176). -/
def HoldsFields (beats : List Beat) (table : List LaidField) : Prop :=
  (∀ x ∈ table, (fieldAt beats x.1 x.2.1 : Int) = x.2.2 % 256 ^ x.2.1)
    ∧ ∀ byte < 8 * beats.length, (∀ x ∈ table, ¬ (x.1 ≤ byte ∧ byte < x.1 + x.2.1)) → fieldAt beats byte 1 = 0

/-- A level as a layout holds it: tenths, or −32768 for none (R173). -/
def levelValue (l : Option Int) : Int := l.getD (-32768)

/-- An entry id as a layout holds it: 0xFFFFFFFF for none (R173). -/
def idValue (id : Option EntryId) : Int := (id.map fun i => (i.toNat : Int)).getD (-1)

/-- A present time, and 0 for an absent one. -/
def timeValue (t : Option Time) : Int := (t.getD 0).toNat

/-- The ids of an entry list in their four places, zero beyond its length (R175). -/
def entryListTable (first : Nat) (g : Segment) : List LaidField :=
  (List.range 4).map (fun k => (first + 2 * k, 2, ((g.entries[k]?.getD 0).toNat : Int)))
    ++ [(first + 8, 1, (g.entries.length : Int) + if g.more then 128 else 0)]

/-- The id and the interval of a hold request (R175). -/
def requestTable (q : HoldRequest) (incomplete : Bool) : List LaidField :=
  [(17, 1, if incomplete then 3 else 2), (20, 4, q.id.toNat), (24, 4, q.start.toNat), (28, 4, q.finish.toNat)]

/-- A set of marks as a layout holds it, one bit each. -/
def marksValue (marks : List (Bool × Nat)) : Int := ((marks.map fun x => if x.1 then 2 ^ x.2 else 0).sum : Nat)

/-- The table of R175: the payload of a record's first position by kind. -/
def payloadTable : Report → List LaidField
  | .commandDone tag code master offset count =>
    [(12, 2, tag.toNat), (14, 1, code), (15, 1, master.toNat), (16, 2, offset), (18, 1, 0), (19, 1, count)]
  | .commandRefused tag code master offset reason =>
    [(12, 2, tag.toNat), (14, 1, code), (15, 1, master.toNat), (16, 2, offset), (18, 1, reason.code), (19, 1, 0)]
  | .entryOpened e scheduled closed left =>
    [(12, 4, e.entry.id.toNat), (16, 1, e.entry.cls.code), (17, 1, e.cause.code),
     (18, 1, marksValue [(e.cuedEarly, 0), (e.entry.lateCommit, 1), (e.replay, 4)]),
     (19, 1, match e.bank with | some .a => 0 | some .b => 1 | none => 2),
     (20, 4, scheduled.toNat), (24, 4, e.actualStart.toNat), (28, 4, idValue closed), (32, 1, left)]
  | .verdict v =>
    let e := v.closed.record
    [(12, 4, e.entry.id.toNat), (16, 1, e.entry.cls.code), (17, 1, e.cause.code),
     (18, 2, marksValue [(e.cuedEarly, 0), (e.entry.lateCommit, 1), (e.isPartial, 2), (v.closed.aborted, 3), (e.replay, 4),
       (e.evidenceIncomplete, 5), (e.captionPresent, 6)]),
     (20, 4, e.actualStart.toNat), (24, 4, v.closed.actualEnd.toNat), (28, 4, v.closed.duration),
     (32, 2, levelValue v.integrated), (34, 2, levelValue v.ungated), (36, 2, levelValue e.maxMomentary),
     (38, 2, levelValue e.maxShortTerm), (40, 2, levelValue v.samplePeak), (42, 1, v.peakChannel),
     (43, 1, v.loudness.code), (44, 1, v.shortTerm.code), (45, 1, v.caption.code), (46, 1, v.deadAir.code),
     (48, 4, e.measuredMs.toNat), (52, 4, e.unmeasuredMs.toNat), (56, 4, e.activeMs), (60, 4, e.coveredMs)]
  | .shortTermOver id level ceiling time => [(12, 4, id.toNat), (16, 2, level), (18, 2, ceiling), (20, 4, time.toNat)]
  | .captionGap id service start limit time =>
    [(12, 4, id.toNat), (16, 1, service), (20, 4, start.toNat), (24, 4, limit), (28, 4, time.toNat)]
  | .captionGapEnd id start length time stamp =>
    [(12, 4, id.toNat), (20, 4, start.toNat), (24, 4, length), (28, 4, time.toNat), (32, 4, stamp.toNat)]
  | .captionTorn id u tearing time =>
    [(12, 4, id.toNat), (16, 2, u.length), (18, 1, u.collected), (19, 1, if u.decoderTime.isSome then 1 else 0),
     (20, 4, (u.decoderTime.getD Config.absentStamp).toNat), (24, 8, u.header), (32, 8, tearing), (40, 4, time.toNat)]
  | .deadAir id quiet span time | .deadAirEnd id quiet span time =>
    [(12, 4, id.toNat), (20, 4, quiet.toNat), (24, 4, span), (28, 4, time.toNat)]
  | .audioState cause before after d id time =>
    [(12, 1, cause.code), (13, 1, before.code), (14, 1, after.code), (15, 1, ((d.map (·.coding.code)).getD 0 : Nat)),
     (16, 1, ((d.map (·.rate.code)).getD 0 : Nat)), (17, 1, ((d.map (·.channels)).getD 0 : Nat)),
     (18, 2, ((d.map (·.generation.toNat)).getD 0 : Nat)), (20, 4, idValue id), (24, 4, time.toNat)]
  | .segmentClosed g cleared count =>
    entryListTable 32 g ++ ([(12, 1, g.index), (13, 1, g.state.code), (14, 1, g.reasons.toNat), (15, 1, cleared.toNat),
     (16, 4, timeValue g.start), (20, 4, timeValue g.finish), (24, 4, g.bytes.toNat), (28, 4, g.blocked.toNat),
     (41, 1, count), (42, 2, levelValue g.maxShortTerm)] : List LaidField)
  | .holdPlaced g reason req count incomplete =>
    ([(12, 1, g.index), (13, 1, reason.code), (14, 1, g.reasons.toNat), (15, 1, g.state.code), (16, 1, count)] : List LaidField)
      ++ match req with
        | some q => requestTable q incomplete
        | none => [(20, 4, -1)]
  | .deniedRequest index q count incomplete =>
    requestTable q incomplete ++ ([(12, 1, index), (13, 1, 0), (14, 1, q.reason.code), (16, 1, count)] : List LaidField)
  | .deniedClose index cleared => [(12, 1, index), (13, 1, 1), (15, 1, cleared.toNat), (20, 4, -1)]
  | .deniedExport index tag master =>
    [(12, 1, index), (13, 1, 2), (18, 1, 15), (19, 1, master.toNat), (20, 4, -1), (32, 2, tag.toNat)]
  | .exportGranted g tag master count =>
    entryListTable 32 g ++ ([(12, 1, g.index), (13, 1, if g.beforeExportHeld = some true then 4 else 3),
     (14, 1, g.reasons.toNat), (15, 1, master.toNat), (16, 2, tag.toNat), (18, 1, count), (20, 4, timeValue g.start),
     (24, 4, timeValue g.finish)] : List LaidField)
  | .recordBlocked g master addr time id =>
    [(12, 1, g.index), (13, 1, g.state.code), (14, 1, master.toNat), (16, 8, addr), (24, 4, g.blocked.toNat),
     (28, 4, time.toNat), (32, 4, idValue id)]
  | .accessBlocked index reason master isWrite addr count =>
    [(12, 1, index), (13, 1, reason.code), (14, 1, master.toNat), (15, 1, if isWrite then 1 else 0), (16, 8, addr),
     (24, 4, count.toNat)]
  | .strayCue captured head window count =>
    [(12, 4, captured.toNat), (16, 4, idValue (head.map (·.1))), (20, 4, timeValue (head.map (·.2))), (24, 4, window),
     (28, 4, count.toNat)]

/-- The table of R175: the payload of a VERDICT's second position. -/
def secondTable (v : Verdict) : List LaidField :=
  let e := v.closed.record
  [(12, 2, v.coverage), (14, 2, e.unitCount.toNat), (16, 2, e.otherService.toNat), (18, 2, e.gapCount.toNat),
   (20, 2, e.tornCount.toNat), (22, 2, e.malformed.toNat), (24, 2, e.deadAirCount.toNat), (26, 2, e.overCount.toNat),
   (28, 2, e.discontinuities.toNat), (32, 4, e.missed.toNat), (36, 4, e.saturations.toNat)]

/-- The table of R175: position i of a record with a given number, the common part and the payload. -/
def positionTable (q : QueuedReport) (kind : Nat) (number : BitVec 32) (i : Nat) : List LaidField :=
  ([(0, 1, kind), (1, 1, if i = 0 then 1 else 0), (4, 4, number.toNat), (8, 4, q.time.toNat)] : List LaidField)
    ++ match q.report, i with
      | .verdict v, 1 => secondTable v
      | r, _ => payloadTable r

/-- The table of R176: the status image of a state, with its running value and its generation. -/
def imageTable (s : State) (running : Option Int) (generation : BitVec 32) : List LaidField :=
  let d := s.ao.taken
  ([(0x000, 4, generation.toNat), (0x0F8, 4, generation.toNat),
   (0x008, 1, s.cu.mode.code), (0x009, 1, s.ao.engine.code), (0x00A, 1, if s.ag.active then 1 else 0),
   (0x00B, 1, s.ag.bankA.state.code), (0x00C, 1, s.ag.bankB.state.code),
   (0x00D, 1, ((d.map (·.coding.code)).getD 0 : Nat)), (0x00E, 1, ((d.map (·.rate.code)).getD 0 : Nat)),
   (0x00F, 1, ((d.map (·.channels)).getD 0 : Nat)),
   (0x010, 4, s.tb.time.toNat), (0x014, 4, idValue (s.su.openEntry.map (·.entry.id))),
   (0x018, 2, ((d.map (·.generation.toNat)).getD 0 : Nat)), (0x01A, 2, levelValue s.lu.momentary),
   (0x01C, 2, levelValue s.lu.shortTerm), (0x01E, 2, levelValue running),
   (0x020, 4, s.ca.gapTimer), (0x024, 4, s.ag.deadTimer),
   (0x028, 2, s.ru.writeIndex), (0x02A, 2, s.ru.readIndex), (0x02C, 4, s.ru.lostCount.toNat),
   (0x030, 2, s.ru.flags.toNat), (0x032, 2, s.ru.enables.toNat), (0x034, 1, holdCount s.rc.table),
   (0x038, 2, ((s.ru.lastRefusal.map (·.tag.toNat)).getD 0 : Nat)), (0x03A, 1, ((s.ru.lastRefusal.map (·.code)).getD 0 : Nat)),
   (0x03B, 1, ((s.ru.lastRefusal.map (·.master.toNat)).getD 0 : Nat)),
   (0x03C, 1, ((s.ru.lastRefusal.map (·.reason.code)).getD 0 : Nat))] : List LaidField)
    ++ (List.range 64).map (fun k => ((0x040 + k, 1, (((s.rc.table[k]?.map (·.state.code)).getD 0 : Nat) : Int)) : LaidField))
    ++ (List.range 9).map fun k => ((0x080 + 4 * k, 4, ((s.mp.blocked[k]?.getD 0).toNat : Int)) : LaidField)

/-! ### The alert latch (R168) -/

/-- While ALERT_N is asserted, some flag is both set and enabled (R168). -/
def AlertOk (s : State) : Prop := s.ru.latch = true → alertCause s.ru = true

/-! ### Requests in flight (R14 to R16) -/

/-- A read that waits for own writes waits for some, and all of them are still queued (R16). -/
def waitsFor (mp : MemPath) (t : Txn) : Bool :=
  match t.progress with
  | .held on | .behind on => !on.isEmpty && on.all fun id => mp.ownQueue.any (·.id == id)
  | .waiting | .issued | .answered _ => true

/-- Requests and own writes have their own rising numbers; a read that waits for own writes waits for queued ones, a
master has at most one in the read-hold list, and a released read waits for the arbiter (R1, R14 to R16). -/
def PortsOk (s : State) : Prop :=
  (s.mp.txns.map (·.id)).Pairwise (· < ·) ∧ (∀ t ∈ s.mp.txns, t.id < s.mp.nextTxn)
    ∧ (s.mp.ownQueue.map (·.id)).Pairwise (· < ·) ∧ (∀ w ∈ s.mp.ownQueue, w.id < s.mp.nextOwn)
    ∧ (∀ t ∈ s.mp.txns, waitsFor s.mp t)
    ∧ (∀ t ∈ s.mp.txns, ∀ u ∈ s.mp.txns, isHeld t → isHeld u → t.req.master = u.req.master → t = u)
    ∧ (∀ id ∈ s.mp.released, ∃ t ∈ s.mp.txns, t.id = id ∧ t.progress = .waiting)
    ∧ (s.mp.ownIssued = true → s.mp.ownQueue ≠ [])

/-! ### Reads of the whole status image (R171, log 36) -/

/-- A request reads all 256 bytes of the status image in one burst (R171). -/
def readsImage (ru : Reports) (r : Request) : Bool := ru.geometry.map (·.base) == some r.addr && r.access == .read 32

/-- A request was taken and is not answered, and the memory port has not issued it. -/
def unissued (t : Txn) : Bool :=
  match t.progress with
  | .waiting | .held _ | .behind _ => true
  | .issued | .answered _ => false

/-- The leading beat of an image is the next burst that the report unit offers; an image has six (R171). -/
def leadingNext (ru : Reports) : Bool := ru.current.any fun u => u.image && 6 ≤ u.bursts.length

/-- The leading beat of an image has been taken, and bursts of it are still to be taken (R171). -/
def imageBegun (ru : Reports) : Bool := ru.current.any fun u => u.image && 0 < u.bursts.length && u.bursts.length < 6

/-- The rows that break the order in which R171 has the images and the reads of a whole image: the leading beat of an image
is offered before a read of the image ahead of it has been issued, or such a read is taken between the bursts of one image.
R14, R15 and R16 give the result of these orders too; a part of which R171's words hold makes none of them (log 36). -/
def breaksImageOrder (s : State) (c : Instr) : Prop :=
  (c = .ownWriteOffer ∧ leadingNext s.ru = true ∧ ∃ t ∈ s.mp.txns, readsImage s.ru t.req = true ∧ unissued t = true)
    ∨ (imageBegun s.ru = true ∧ ∃ r, c = .passThroughRequest r ∧ readsImage s.ru r = true)

/-- A read of the whole image that is not yet issued finds no image half offered, and waits for every queued own write that
it overlaps (R16, R171). -/
def ImagesMetWhole (s : State) : Prop :=
  ∀ t ∈ s.mp.txns, readsImage s.ru t.req = true → unissued t = true →
    imageBegun s.ru = false
      ∧ ∀ w ∈ s.mp.ownQueue, overlapsOwn t.req w = true → ∃ on, (t.progress = .held on ∨ t.progress = .behind on) ∧ w.id ∈ on

end Sys2Proof.Machine
end

