-- ==== Sys2Proof/Certificates/Slice0/Obligations.lean ====
section
/-! DEFINITION. The statements for the provers: what each row does, and what every row keeps. Hypotheses speak of the state
and the operands alone; a conclusion is the next state. -/

open Sys2Proof Sys2Proof.Machine

/-! ### The queue of rows and RESET_N -/

/-- A step takes the row at the front of the queue and carries it out with the rest; on an empty queue the part idles, which
is the model's choice (log 1). -/
def Obligations.StepTakesTheFrontRow : Prop :=
  (∀ (c : Instr) (rest : List Instr) (s : State),
      step { s with pending := c :: rest } = exec c { s with pending := rest })
    ∧ ∀ s : State, s.pending = [] → step s = .next s

/-- Every row completes and leaves the queue of rows that wait as it is, but for a request no bus master can make and a
completion with the wrong number of beats for the issued request it names. The queue and the two refusals are the model's
choices (logs 1, 13 and 14). -/
def Obligations.EveryRowCompletes : Prop :=
  ∀ (c : Instr) (s : State),
    (∃ t, exec c s = .next t ∧ t.pending = s.pending)
      ∨ (∃ r : Request, c = .passThroughRequest r ∧ exec c s = .refused .illFormedRequest
          ∧ ¬ (1 ≤ r.access.length ∧ r.access.length ≤ 32 ∧ 8 ∣ r.addr ∧ r.addr < 2 ^ 36))
      ∨ ∃ (id : Nat) (data : List Beat) (t : Txn), c = .memoryPortCompletion id data
          ∧ exec c s = .refused .illFormedCompletion ∧ t ∈ s.mp.txns ∧ t.id = id ∧ t.progress = .issued
          ∧ data.length ≠ (match t.req.access with | .read n => n | .write _ => 0)

/-- LINE_RESET gives every block its reset values, and RESET_N_RELEASE sets the control-page base from the straps (R3, R17,
R35, R177). The model's reading: without a reset there is no release, and while RESET_N is asserted no other row does
anything (log 11). -/
def Obligations.ResetAndRelease : Prop :=
  ((∀ s : State, exec .lineReset s = .next { State.reset with pending := s.pending, resetAsserted := true })
     ∧ (∀ (straps : BitVec 8) (s : State), s.resetAsserted = true →
         exec (.resetNRelease straps) s
           = .next { s with resetAsserted := false, mp := { s.mp with ctlBase := straps.toNat * (64 * 2 ^ 20) } })
     ∧ ∀ (straps : BitVec 8) (s : State), s.resetAsserted = false → exec (.resetNRelease straps) s = .next s)
    ∧ (∀ (c : Instr) (s : State), s.resetAsserted = true → s.mp.txns = [] → c.wf = true → c ≠ .lineReset →
         (∀ straps, c ≠ .resetNRelease straps) → exec c s = .next s)

/-- The values that the spec gives every register at the release of RESET_N, block by block: memory path, command unit, time
base, audio observer, loudness unit, activity and gating unit, caption unit, schedule unit, recorder, report unit. The
control-page base is set by the straps and stands in ResetAndRelease. -/
def Obligations.ResetValues : Prop :=
  (∀ k, windowAt State.reset.mp k = none) ∧ (∀ k, blockedCount State.reset.mp k = 0)
    ∧ (∀ k, accessReportDue State.reset k = true)
    ∧ State.reset.mp.ownQueue = [] ∧ State.reset.mp.ownIssued = false ∧ State.reset.mp.txns = []
    ∧ State.reset.mp.released = [] ∧ State.reset.mp.lastGrant = .own
    ∧ State.reset.cu.queue = [] ∧ State.reset.cu.beats = [] ∧ State.reset.cu.mode = .off
    ∧ (∀ m : Master, m ≠ 15 → inSet m State.reset.cu.controlMask = true)
    ∧ (∀ w ∈ State.reset.cu.windowShadow.toList ++ State.reset.cu.entryShadow.toList
        ++ State.reset.cu.filterShadow.toList, w = 0)
    ∧ State.reset.tb.time = 0 ∧ State.reset.tb.prescale = 0 ∧ State.reset.tb.divisor = 10000
    ∧ State.reset.tb.residue = 0 ∧ State.reset.tb.compare = none ∧ State.reset.tb.cueLevel = none
    ∧ State.reset.tb.cueRun = 0 ∧ State.reset.tb.cueStart = none ∧ State.reset.tb.cueQ = 3
    ∧ State.reset.tb.earlyWindow = 5000 ∧ State.reset.tb.force = .function
    ∧ (∀ w ∈ State.reset.ao.shadow.toList, w = 0) ∧ State.reset.ao.engine = .idle ∧ State.reset.ao.taken = none
    ∧ State.reset.ao.expected = none ∧ State.reset.ao.channel = 0 ∧ State.reset.ao.stallCount = 0
    ∧ (∀ c, filterOf State.reset.ao c = ⟨⟨0, 0, 0, 0⟩, ⟨0, 0, 0, 0⟩⟩) ∧ State.reset.ao.sub = none
    ∧ State.reset.ao.history = []
    ∧ State.reset.lu.stage1 = ⟨0x40000000, 0, 0, 0, 0⟩ ∧ State.reset.lu.stage2 = ⟨0x40000000, 0, 0, 0, 0⟩
    ∧ State.reset.lu.calibration = -7 ∧ State.reset.lu.momentary = none ∧ State.reset.lu.shortTerm = none
    ∧ State.reset.lu.overrides.toList = List.replicate 8 none
    ∧ State.reset.ag.active = false ∧ State.reset.ag.onCount = 0 ∧ State.reset.ag.offCount = 0
    ∧ State.reset.ag.quietStart = none ∧ State.reset.ag.deadTimer = 0 ∧ State.reset.ag.sumN = 0
    ∧ (∀ bin, binCount State.reset.ag.sumS bin = 0) ∧ runningValue State.reset = none
    ∧ State.reset.ag.tOn = -500 ∧ State.reset.ag.tOff = -600
    ∧ State.reset.ag.qOn = 5 ∧ State.reset.ag.qOff = 5
    ∧ (∀ bank, (bankOf State.reset.ag bank).state = .free ∧ ∀ bin, binCount (bankOf State.reset.ag bank).counts bin = 0)
    ∧ State.reset.ca.collecting = false ∧ State.reset.ca.shadow = none ∧ State.reset.ca.expected = none
    ∧ State.reset.ca.gapTimer = 0 ∧ State.reset.ca.lastQualifying = none ∧ State.reset.ca.windowPresent = false
    ∧ State.reset.su.queue = [] ∧ State.reset.su.openEntry = none ∧ (∀ bank, slotOf State.reset.su bank = none)
    ∧ State.reset.su.defaults.target = -230 ∧ State.reset.su.defaults.tolerance = 10 ∧ State.reset.su.defaults.margin = 0
    ∧ State.reset.su.defaults.required = false ∧ State.reset.su.defaults.service = 1
    ∧ State.reset.su.defaults.gapLimit = 10000 ∧ State.reset.su.defaults.permille = 950
    ∧ State.reset.su.defaults.deadAirLimit = 0 ∧ State.reset.su.strayCues = 0
    ∧ (∀ (c : EntryClass) (r : HoldReason), r ≠ .manual → policyHolds State.reset c r = true)
    ∧ State.reset.rc.table = [] ∧ State.reset.rc.pendingExport = none
    ∧ State.reset.ru.queue = [] ∧ State.reset.ru.current = none ∧ State.reset.ru.geometry = none
    ∧ State.reset.ru.writeIndex = 0 ∧ State.reset.ru.readIndex = 0 ∧ State.reset.ru.recordNumber = 0
    ∧ State.reset.ru.lostCount = 0 ∧ State.reset.ru.lastRefusal = none ∧ State.reset.ru.flags = 0
    ∧ State.reset.ru.enables = 0 ∧ State.reset.ru.latch = false ∧ State.reset.ru.imageGeneration = 0
    ∧ State.reset.ru.imageTicks = 0 ∧ State.reset.ru.imageDue = false
    ∧ alertAsserted State.reset = false ∧ tallyAsserted State.reset = false

/-- The part after reset meets every invariant that StepKeepsWindows, StepKeepsPorts, StepKeepsRecorder, StepKeepsBounds and
StepKeepsModesAndBanks state of every step. -/
def Obligations.InvariantsHoldAtReset : Prop :=
  WindowsOk State.reset ∧ OwnersAgree State.reset ∧ PortsOk State.reset ∧ ImagesMetWhole State.reset
    ∧ RecorderOk State.reset ∧ QueuesOk State.reset ∧ TimeOk State.reset ∧ RingOk State.reset ∧ AlertOk State.reset ∧ ModeOk State.reset ∧ BanksOk State.reset

/-! ### Requests at the system port (R1, R7 to R13, R16) -/

/-- The region of a request: the control page or a slot when every beat lies there, none when no beat lies in any, and
otherwise a crossing burst charged to the first region that its beats enter (R7). -/
def Obligations.RegionOfRequest : Prop :=
  ∀ (s : State) (r : Request), WindowsOk s → 1 ≤ r.access.length →
    let beat (i : Nat) : Nat := r.addr + 8 * i
    let inPage (a : Nat) : Prop := s.mp.ctlBase ≤ a ∧ a < s.mp.ctlBase + 4096
    let inSlot (k a : Nat) : Prop := ∃ w, windowAt s.mp k = some w ∧ w.base ≤ a ∧ a < w.stop
    let lies (k a : Nat) : Prop := (k = 8 ∧ inPage a) ∨ (k < 8 ∧ inSlot k a)
    let fits : Prop := r.addr + 8 * r.access.length ≤ 2 ^ 36
    (∀ k, regionOf s.mp r = .inside k ↔ fits ∧ ∀ i < r.access.length, lies k (beat i))
      ∧ (regionOf s.mp r = .outside ↔ fits ∧ ∀ i < r.access.length, ∀ k, ¬ lies k (beat i))
      ∧ (∀ k, regionOf s.mp r = .crossing (some k) →
          ∃ i < r.access.length, lies k (beat i) ∧ ∀ j < i, ∀ n, ¬ lies n (beat j))
      ∧ (regionOf s.mp r = .crossing none → ¬ fits ∧ ∀ i < r.access.length, ∀ k, ¬ lies k (beat i))

/-- What is decided of a request by its region: the masks of R8 and R9, the refusal of every REPORT write, CROSSING, and
the segment check of a RECORD write that passed the write mask. -/
def Obligations.JudgementOfRequest : Prop :=
  ∀ (s : State) (r : Request),
    (∀ c, regionOf s.mp r = .crossing c → judge s r = .block c .crossing)
      ∧ (regionOf s.mp r = .outside → judge s r = .forward)
      ∧ (regionOf s.mp r = .inside 8 →
          judge s r = if r.master ≠ 15 ∧ s.cu.controlMask.getLsbD r.master.toNat then .forward
            else .block (some 8) .controlMask)
      ∧ ∀ k w, k < 8 → regionOf s.mp r = .inside k → windowAt s.mp k = some w →
          (r.access.isWrite = false →
            judge s r = if r.master ≠ 15 ∧ w.readMask.getLsbD r.master.toNat then .forward else .block (some k) .readMask)
          ∧ (r.access.isWrite = true → w.kind = .report → judge s r = .block (some k) .reportWrite)
          ∧ (r.access.isWrite = true → w.kind ≠ .report → ¬ (r.master ≠ 15 ∧ w.writeMask.getLsbD r.master.toNat) →
              judge s r = .block (some k) .writeMask)
          ∧ (r.access.isWrite = true → w.kind ≠ .report → r.master ≠ 15 → w.writeMask.getLsbD r.master.toNat →
              judge s r = if w.kind = .record then .checkSegments k w else .forward)

/-- PASS_THROUGH_REQUEST, blocked by its judgement: the count of its index goes up by 1 and stays at 2^32 − 1,
ACCESS_BLOCKED is offered when none was offered in the last 100 ms, and the request is answered with an acknowledgement or
with zeros without touching anything else (R11, R13). -/
def Obligations.BlockedRequest : Prop :=
  ∀ (s : State) (r : Request) (k : Nat) (reason : BlockReason), ready s = true → r.wf = true →
    judge s r = .block (some k) reason → k < 9 →
    let count : BitVec 32 := if blockedCount s.mp k = BitVec.allOnes 32 then BitVec.allOnes 32 else blockedCount s.mp k + 1
    let due : Bool := match s.mp.lastReport[k]? with
      | some (some t) => decide (100 ≤ (s.tb.time - t).toInt) || decide ((s.tb.time - t).toInt < 0)
      | _ => true
    let answer : Answer := match r.access with
      | .read n => .data (List.replicate n 0)
      | .write _ => .ack
    let s' : State := { s with mp := { s.mp with
      blocked := s.mp.blocked.setIfInBounds k count
      lastReport := if due then s.mp.lastReport.setIfInBounds k (some s.tb.time) else s.mp.lastReport
      txns := s.mp.txns ++ [⟨s.mp.nextTxn, r, .answered answer⟩]
      nextTxn := s.mp.nextTxn + 1 } }
    exec (.passThroughRequest r) s
      = .next (if due then offer (.accessBlocked k reason r.master r.access.isWrite r.addr count) s' else s')

/-- PASS_THROUGH_REQUEST, forwarded: it joins the requests in flight as it arrived, and a read that meets queued own writes
waits for exactly those: in the read-hold list where no earlier read of its master waits for own writes, and behind that
read where one does, which is the model's reading (log 16). A control-page write hands its beats to the command unit; a
write by the feeding master of an AUDIO or CAPTION window in LIVE or REPLAY hands them to its observer. A beat below 0x40 of
the AUDIO window is a descriptor beat; any other is one or two presented words, the lower first, and a word with no byte
enabled is not presented (R2, R8, R12, R16, R52). -/
def Obligations.ForwardedRequest : Prop :=
  ∀ (s : State) (r : Request), ready s = true → r.wf = true → judge s r = .forward →
    let met : List OwnWrite := s.mp.ownQueue.filter fun w =>
      decide (r.addr < w.addr + 8 * w.beats.length) && decide (w.addr < r.addr + 8 * r.access.length)
    let presented (o : Nat) (b : WBeat) : List AudioItem :=
      if o < 0x40 then [.descriptor o b]
      else (if b.enables.extractLsb' 0 4 = 0 then [] else [.word o (b.data.extractLsb' 0 32) (b.enables.extractLsb' 0 4)])
        ++ (if b.enables.extractLsb' 4 4 = 0 then []
          else [.word (o + 4) (b.data.extractLsb' 32 32) (b.enables.extractLsb' 4 4)])
    ∃ p : Progress,
      (r.access.isWrite = true ∨ met = [] → p = .waiting)
      ∧ (r.access.isWrite = false → met ≠ [] →
          (∀ h ∈ s.mp.txns, h.req.master = r.master → ∀ on, h.progress ≠ .held on ∧ h.progress ≠ .behind on) →
          p = .held (met.map (·.id)))
      ∧ (r.access.isWrite = false → met ≠ [] →
          (∃ h ∈ s.mp.txns, h.req.master = r.master ∧ ∃ on, h.progress = .held on ∨ h.progress = .behind on) →
          p = .behind (met.map (·.id)))
      ∧ ∃ t, exec (.passThroughRequest r) s = .next t
        ∧ t.mp = { s.mp with txns := s.mp.txns ++ [⟨s.mp.nextTxn, r, p⟩], nextTxn := s.mp.nextTxn + 1 }
        ∧ t = { s with mp := t.mp, cu := t.cu, ao := t.ao, ca := t.ca }
        ∧ t.cu = { s.cu with beats := t.cu.beats } ∧ t.ao = { s.ao with inbox := t.ao.inbox }
        ∧ t.ca = { s.ca with inbox := t.ca.inbox }
        ∧ (∀ beats, r.access = .write beats → regionOf s.mp r = .inside 8 →
            t.cu.beats = s.cu.beats ++ beats.zipIdx.map fun b => ⟨r.addr + 8 * b.2 - s.mp.ctlBase, b.1, r.master⟩)
        ∧ (regionOf s.mp r ≠ .inside 8 ∨ r.access.isWrite = false → t.cu = s.cu)
        ∧ (∀ k w beats, k < 8 → r.access = .write beats → regionOf s.mp r = .inside k → windowAt s.mp k = some w →
            let watched : Prop := s.cu.mode ≠ .off ∧ r.master = w.feeding
            (w.kind = .caption ∧ watched →
              t.ca.inbox = s.ca.inbox ++ beats.zipIdx.map fun b => ⟨r.addr + 8 * b.2 - w.base, b.1⟩)
            ∧ (w.kind = .audio ∧ watched →
              t.ao.inbox = s.ao.inbox ++ beats.zipIdx.flatMap fun b => presented (r.addr + 8 * b.2 - w.base) b.1)
            ∧ (w.kind ≠ .caption ∨ ¬ watched → t.ca = s.ca) ∧ (w.kind ≠ .audio ∨ ¬ watched → t.ao = s.ao))
        ∧ (r.access.isWrite = false ∨ regionOf s.mp r = .inside 8 ∨ regionOf s.mp r = .outside →
            t.ca = s.ca ∧ t.ao = s.ao)

/-- MEMORY_PORT_COMPLETION: the answer of an issued request is what the memory port delivers, unaltered. ANSWER_RETURN: a
master gets the answer to the oldest of its requests, and only once it is there (R1, R2). -/
def Obligations.RequestsAnswered : Prop :=
  (∀ (s : State) (before after : List Txn) (t : Txn) (data : List Beat), ready s = true →
     s.mp.txns = before ++ t :: after → (∀ u ∈ before ++ after, u.id ≠ t.id) → t.progress = .issued →
     data.length = (match t.req.access with | .read n => n | .write _ => 0) →
     exec (.memoryPortCompletion t.id data) s = .next { s with mp := { s.mp with
       txns := before ++ { t with progress := .answered (match t.req.access with | .read _ => .data data | .write _ => .ack) }
         :: after } })
    ∧ (∀ (s : State) (m : Master) (before after : List Txn) (t : Txn), ready s = true →
         s.mp.txns = before ++ t :: after → t.req.master = m → (∀ u ∈ before, u.req.master ≠ m) →
         (∀ u ∈ before ++ after, u.id ≠ t.id) →
         (∀ a, t.progress = .answered a →
           exec (.answerReturn m) s = .next { s with mp := { s.mp with txns := before ++ after, sysOut := some (m, a) } })
         ∧ ((∀ a, t.progress ≠ .answered a) → exec (.answerReturn m) s = .next s))

/-! ### The memory port (R2, R14 to R16) -/

/-- MEMORY_PORT_ISSUE: the arbiter grants the kind that waits, and when both wait the kind that is not the last grant. An own
write goes out as a write of master 15 with every byte enabled, and a forwarded request as it arrived (R2, R14, R15). -/
def Obligations.ArbiterAlternates : Prop :=
  ∀ s : State, ready s = true →
    let own : Option OwnWrite := if s.mp.ownIssued then none else s.mp.ownQueue.head?
    let grantOwn (w : OwnWrite) : State :=
      { s with mp := { s.mp with
        ownIssued := true
        lastGrant := .own
        memOut := some (.own w.id ⟨15, w.addr, .write (w.beats.map fun data => ⟨data, 0xFF⟩)⟩) } }
    let grantPass (t : Txn) : State := { s with mp := { s.mp with
      txns := s.mp.txns.map (fun u => if u.id = t.id then { u with progress := .issued } else u)
      released := s.mp.released.filter (· != t.id)
      lastGrant := .pass
      memOut := some (.pass t.id t.req) } }
    (∀ w t, own = some w → passCandidate s.mp = some t →
        exec .memoryPortIssue s = .next (if s.mp.lastGrant = .own then grantPass t else grantOwn w))
      ∧ (∀ w, own = some w → passCandidate s.mp = none → exec .memoryPortIssue s = .next (grantOwn w))
      ∧ (∀ t, own = none → passCandidate s.mp = some t → exec .memoryPortIssue s = .next (grantPass t))
      ∧ (own = none → passCandidate s.mp = none → exec .memoryPortIssue s = .next s)

/-- Which pass-through request waits for the arbiter: the first released read, and without one the oldest forwarded request
that is not held and not behind a held read of its master (R15, R16). A read behind a held one that overlaps own writes waits
for those too, and its master's later requests wait behind it, which is the model's reading (log 16). -/
def Obligations.OldestReadyRequest : Prop :=
  ∀ s : State, PortsOk s →
    let awaits (h : Txn) : Prop := ∃ on, h.progress = .held on ∨ h.progress = .behind on
    (passCandidate s.mp = none → s.mp.released = [] ∧ ∀ u ∈ s.mp.txns, u.progress = .waiting →
      ∃ h ∈ s.mp.txns, awaits h ∧ h.req.master = u.req.master ∧ h.id < u.id)
    ∧ ∀ t, passCandidate s.mp = some t → t ∈ s.mp.txns ∧ t.progress = .waiting
      ∧ (∀ id rest, s.mp.released = id :: rest → t.id = id)
      ∧ (s.mp.released = [] →
          (∀ h ∈ s.mp.txns, awaits h → h.req.master = t.req.master → t.id < h.id)
            ∧ ∀ u ∈ s.mp.txns, u.progress = .waiting → u.id < t.id →
                ∃ h ∈ s.mp.txns, awaits h ∧ h.req.master = u.req.master ∧ h.id < u.id)

/-- OWN_WRITE_OFFER: a burst of the unit in progress joins the own-write queue while that holds fewer than 8, and waits
while it is full; here the burst is not the unit's last and not a LOST record's. OWN_WRITE_COMPLETION: the issued head leaves
the queue, and a read that waited for nothing else waits for the arbiter; one in the read-hold list leaves it and is issued
ahead, in the order in which such reads were taken, and one behind such a read keeps its place among its master's requests,
which is the model's reading (R14 to R16, log 16). -/
def Obligations.OwnWritesMoveOn : Prop :=
  (∀ (s : State) (u : UnitInProgress) (b : Burst) (rest : List Burst), ready s = true →
     s.ru.current = some u → u.bursts = b :: rest →
     (8 ≤ s.mp.ownQueue.length → exec .ownWriteOffer s = .next s)
     ∧ (s.mp.ownQueue.length < 8 → u.lost = none → rest ≠ [] →
         exec .ownWriteOffer s = .next { s with
           mp := { s.mp with ownQueue := s.mp.ownQueue ++ [⟨s.mp.nextOwn, b.addr, b.beats⟩], nextOwn := s.mp.nextOwn + 1 }
           ru := { s.ru with current := some { u with bursts := rest } } }))
    ∧ (∀ (s : State) (w : OwnWrite) (rest : List OwnWrite), ready s = true → s.mp.ownQueue = w :: rest → s.mp.ownIssued = true →
         ∃ t : State, exec .ownWriteCompletion s = .next t
           ∧ t = { s with mp := { s.mp with
               ownQueue := rest, ownIssued := false, txns := t.mp.txns, released := t.mp.released } }
           ∧ t.mp.txns.length = s.mp.txns.length
           ∧ (∀ (i : Nat) (u : Txn), s.mp.txns[i]? = some u →
               ((∀ on, u.progress ≠ .held on ∧ u.progress ≠ .behind on) → t.mp.txns[i]? = some u)
               ∧ (∀ on, u.progress = .held on →
                   t.mp.txns[i]? = some { u with progress :=
                     if ∀ id ∈ on, id = w.id then .waiting else .held (on.filter (· != w.id)) })
               ∧ ∀ on, u.progress = .behind on →
                   t.mp.txns[i]? = some { u with progress :=
                     if ∀ id ∈ on, id = w.id then .waiting else .behind (on.filter (· != w.id)) })
           ∧ t.mp.released = s.mp.released
               ++ (s.mp.txns.filter fun u => match u.progress with
                   | .held on => on.all (· == w.id)
                   | _ => false).map (·.id))

/-! ### The control page and the command unit (R18 to R35) -/

/-- CONTROL_PAGE_BEAT: beats with no byte enabled and beats at unassigned offsets are passed over; a whole beat in a slot
forms a command; a partial beat is refused at once; and a formed item joins a queue of fewer than 4, or is refused (R18 to
R20, R23). -/
def Obligations.SlotBeatFormsCommand : Prop :=
  ∀ (s : State) (b : CtlBeat) (rest : List CtlBeat), ready s = true → s.cu.beats = b :: rest →
    let s' : State := { s with cu := { s.cu with beats := rest } }
    let tag : Tag := b.beat.data.extractLsb' 0 16
    let low : BitVec 8 := if b.beat.enables.getLsbD 0 then b.beat.data.extractLsb' 0 8 else 0
    let high : BitVec 8 := if b.beat.enables.getLsbD 1 then b.beat.data.extractLsb' 8 8 else 0
    (b.beat.enables = 0 → exec .controlPageBeat s = .next s')
    ∧ ((0x0A8 ≤ b.offset ∧ b.offset < 0x100) ∨ (0x120 ≤ b.offset ∧ b.offset < 0x200)
        ∨ (0x240 ≤ b.offset ∧ b.offset < 0x300) ∨ 0x330 ≤ b.offset → exec .controlPageBeat s = .next s')
    ∧ ∀ k : CmdKind, b.offset = 8 * k.code → k.code ≤ 20 →
        (b.beat.enables = 0xFF → s.cu.queue.length < 4 →
          exec .controlPageBeat s = .next { s' with cu := { s'.cu with
            queue := s.cu.queue ++ [⟨k, tag, b.beat.data.extractLsb' 16 48, [], b.master⟩] } })
        ∧ (b.beat.enables = 0xFF → 4 ≤ s.cu.queue.length →
          exec .controlPageBeat s = .next (offer (.commandRefused tag k.code b.master b.offset .commandOverflow) s'))
        ∧ (b.beat.enables ≠ 0 → b.beat.enables ≠ 0xFF →
          exec .controlPageBeat s
            = .next (offer (.commandRefused (high ++ low) k.code b.master b.offset .partialBeat) s'))

/-- CONTROL_PAGE_BEAT at a staging word: a whole beat replaces the word's shadow, and at the commit word forms a staged
command with the area's shadows as they then stand; a partial beat changes no shadow and is refused, with tag 0 at a word
that is not the commit word (R19, R21 to R23). -/
def Obligations.StagingBeatKeepsShadow : Prop :=
  ∀ (s : State) (b : CtlBeat) (rest : List CtlBeat) (word : Nat), ready s = true → s.cu.beats = b :: rest →
    let s' : State := { s with cu := { s.cu with beats := rest } }
    let low : BitVec 8 := if b.beat.enables.getLsbD 0 then b.beat.data.extractLsb' 0 8 else 0
    let high : BitVec 8 := if b.beat.enables.getLsbD 1 then b.beat.data.extractLsb' 8 8 else 0
    let area (k : CmdKind) (base n : Nat) (cu : CmdUnit) (words : List Beat) : Prop :=
      word < n → b.offset = base + 8 * word →
        (b.beat.enables = 0xFF → word + 1 ≠ n → exec .controlPageBeat s = .next { s' with cu := cu })
        ∧ (b.beat.enables = 0xFF → word + 1 = n → s.cu.queue.length < 4 →
            exec .controlPageBeat s = .next { s' with cu := { cu with
              queue := s.cu.queue ++ [⟨k, b.beat.data.extractLsb' 0 16, 0, words, b.master⟩] } })
        ∧ (b.beat.enables = 0xFF → word + 1 = n → 4 ≤ s.cu.queue.length →
            exec .controlPageBeat s = .next (offer
              (.commandRefused (b.beat.data.extractLsb' 0 16) k.code b.master (base + 8 * (n - 1)) .commandOverflow)
              { s' with cu := cu }))
        ∧ (b.beat.enables ≠ 0 → b.beat.enables ≠ 0xFF →
            exec .controlPageBeat s = .next (offer
              (.commandRefused (if word + 1 = n then high ++ low else 0) k.code b.master b.offset .partialBeat) s'))
    let w := s.cu.windowShadow.setIfInBounds word b.beat.data
    let e := s.cu.entryShadow.setIfInBounds word b.beat.data
    let f := s.cu.filterShadow.setIfInBounds word b.beat.data
    area .window 0x100 4 { s'.cu with windowShadow := w } w.toList
      ∧ area .entry 0x200 8 { s'.cu with entryShadow := e } e.toList
      ∧ area .filter 0x300 6 { s'.cu with filterShadow := f } f.toList

/-- The mode checks: a command refused for the mode ends in one COMMAND_REFUSED and has no other effect (R25, R27, R29). -/
def Obligations.ModeChecks : Prop :=
  ∀ (s : State) (it : CmdItem) (rest : List CmdItem),
    let refused (code offset : Nat) (reason : Reason) : State :=
      offer (.commandRefused it.tag code it.master offset reason) (withQueue rest s)
    let target := it.arg.toNat % 256
    (headIs .setTime it rest s → s.cu.mode ≠ .off → exec .setTime s = .next (refused 1 0x008 .busyLive))
      ∧ (headIs .setPrescale it rest s → s.cu.mode ≠ .off → exec .setPrescale s = .next (refused 2 0x010 .busyLive))
      ∧ (headIs .filter it rest s → s.cu.mode ≠ .off → exec .filter s = .next (refused 34 0x328 .busyLive))
      ∧ (headIs .replayCue it rest s → s.cu.mode ≠ .replay → exec .replayCue s = .next (refused 9 0x048 .modeSequence))
      ∧ (headIs .setMode it rest s → 2 < target → exec .setMode s = .next (refused 0 0x000 .badValue))
      ∧ (headIs .setMode it rest s → target ≤ 2 → (s.cu.mode = .off ↔ target = 0) →
          exec .setMode s = .next (refused 0 0x000 .modeSequence))
      ∧ (headIs .setMode it rest s → target = 1 ∨ target = 2 → s.cu.mode = .off → windowOf .report s.mp = none →
          exec .setMode s = .next (refused 0 0x000 .noReport))

/-- SET_MODE, START: the mode is set, the default entry opens at the present with the DEFAULT_ENTRY parameters and a FREE
bank if there is one, the observers begin QUIET and in WAIT_HEADER, and the compare takes the head. Heads whose start is not
later than the present open one after the other in the same event, and the first later one stays pending; COMMAND_DONE comes
last (R24, R29, R30, R42). Nothing is offered from before (log 6). The model's choices: a scan begun in REPLAY is bounded by
the divisor at the close (log 9), a head with LATE_COMMIT opens at START by its start alone (log 18), a head whose start
lies exactly 2^31 ms ahead of the present counts as reached (log 24), and START into LIVE adds the ids that it opens to the
entry list of a segment left FILLING (log 38). -/
def Obligations.StartOpensDefaultEntry : Prop :=
  ∀ (s : State) (it : CmdItem) (rest : List CmdItem) (m : Mode), headIs .setMode it rest s → nothingHanded s →
    s.cu.mode = .off → s.su.openEntry = none → windowOf .report s.mp ≠ none →
    (m = .live ∧ it.arg.toNat % 256 = 1) ∨ (m = .replay ∧ it.arg.toNat % 256 = 2) →
    ∃ u t : State, StartOpened s u m rest ∧ HeadsOpenOn true u t
      ∧ exec .setMode s = .next (offer (.commandDone it.tag 0 it.master 0x000 0) t)
      ∧ ((∀ e, s.su.queue.head? = some e → 0 < (e.start - s.tb.time).toInt) → t = u)

/-- SET_MODE to OFF: the open entry closes with ABORTED and its scan begins, or its verdict is built at once when it is
unbanked; the observers stand down, the start compare is emptied, and the pending queue, the settings and the recorder's
table are kept (R31). Nothing is offered from before (log 6). The model's choice: the scan is bounded in ticks from REPLAY
too, since R31 sets the mode before the entry closes (log 29). -/
def Obligations.ChangeToOff : Prop :=
  ∀ (s : State) (it : CmdItem) (rest : List CmdItem) (e : OpenEntry), headIs .setMode it rest s → nothingHanded s →
    s.cu.mode ≠ .off → it.arg.toNat % 256 = 0 → s.su.openEntry = some e →
    let closed := closedOf e s.tb.time true
    ∃ t : State, exec .setMode s = .next t
      ∧ t = { s with cu := t.cu, tb := t.tb, ao := t.ao, lu := t.lu, ag := t.ag, ca := t.ca, su := t.su, ru := t.ru }
      ∧ t.cu = { s.cu with mode := .off, queue := rest }
      ∧ t.tb = { s.tb with
          compare := none, cueLevel := none, cueRun := 0, cueStart := none, residue := 0
          prescale := if s.cu.mode = .replay then 0 else s.tb.prescale }
      ∧ t.ao = { s.ao with
          taken := none, engine := .idle, expected := none, channel := 0, stallCount := 0
          filters := Vector.replicate 8 .clear, sub := none, history := [] }
      ∧ t.lu = { s.lu with momentary := none, shortTerm := none }
      ∧ t.ca = { s.ca with collecting := false, shadow := none, expected := none, gapTimer := 0 }
      ∧ (∀ bank, e.bank = some bank →
          t.su = setSlot bank (some ⟨closed, .ticks 1⟩) { s.su with openEntry := none }
          ∧ t.ag = { setBank bank { bankOf s.ag bank with state := .scanning } s.ag with
              active := false, onCount := 0, offCount := 0, quietStart := none, deadTimer := 0, sumN := 0, sumS := [] }
          ∧ t.ru = takeOffer (.commandDone it.tag 0 it.master 0x000 0) s.tb.time s.ru)
      ∧ (e.bank = none →
          t.su = { s.su with openEntry := none }
          ∧ t.ag = { s.ag with
              active := false, onCount := 0, offCount := 0, quietStart := none, deadTimer := 0, sumN := 0, sumS := [] }
          ∧ t.ru = takeOffer (.commandDone it.tag 0 it.master 0x000 0) s.tb.time
              (takeOffer (.verdict (verdictOf closed none none)) s.tb.time s.ru))

/-- RESTART: the pending queue is emptied and counted, the observers are cleared, banks that are not SCANNING are FREE and
those that are keep their counts and their records, the pending export is dropped, the mode is OFF; the installation, the
segment table, station time, the ring and every setting are kept (R33, R34). The open entry closes with its scan's bound, by
the mode that RESTART finds (R94). Nothing is offered from before (log 6). The model's reading: the scan is bounded in edges
in REPLAY, by the divisor at the close (logs 9 and 29). -/
def Obligations.RestartClearsAndKeeps : Prop :=
  ∀ (s : State) (it : CmdItem) (rest : List CmdItem), headIs .restart it rest s → nothingHanded s →
    (s.cu.mode = .off ↔ s.su.openEntry = none) →
    ∃ t : State, exec .restart s = .next t
      ∧ t.mp = s.mp ∧ t.cu = { s.cu with mode := .off, queue := rest }
      ∧ t.tb = (if s.cu.mode = .off then { s.tb with compare := none } else { s.tb with
          compare := none, cueLevel := none, cueRun := 0, cueStart := none, residue := 0
          prescale := if s.cu.mode = .replay then 0 else s.tb.prescale })
      ∧ t.ao = { AudioObs.reset with inbox := [] }
      ∧ t.lu = { s.lu with momentary := none, shortTerm := none }
      ∧ t.ca = { Caption.reset with windowPresent := s.ca.windowPresent }
      ∧ t.ag.tOn = s.ag.tOn ∧ t.ag.tOff = s.ag.tOff ∧ t.ag.qOn = s.ag.qOn ∧ t.ag.qOff = s.ag.qOff
      ∧ t.ag.active = false ∧ t.ag.onCount = 0 ∧ t.ag.offCount = 0 ∧ t.ag.quietStart = none ∧ t.ag.deadTimer = 0
      ∧ t.ag.sumN = 0 ∧ t.ag.sumS = []
      ∧ t.rc = { s.rc with pendingExport := none }
      ∧ t.su.queue = [] ∧ t.su.openEntry = none ∧ t.su.defaults = s.su.defaults ∧ t.su.policy = s.su.policy
      ∧ t.su.strayCues = s.su.strayCues
      ∧ (∀ bank, (∀ e, s.su.openEntry = some e → e.bank ≠ some bank) →
          slotOf t.su bank = slotOf s.su bank
          ∧ bankOf t.ag bank = if (bankOf s.ag bank).state = .scanning then bankOf s.ag bank else ⟨.free, []⟩)
      ∧ (∀ e bank, s.su.openEntry = some e → e.bank = some bank →
          bankOf t.ag bank = ⟨.scanning, (bankOf s.ag bank).counts⟩
          ∧ slotOf t.su bank = some
              ⟨closedOf e s.tb.time true, if s.cu.mode = .replay then .edges (2 * s.tb.divisor) else .ticks 1⟩)
      ∧ (let done := takeOffer (.commandDone it.tag 15 it.master 0x078 s.su.queue.length) s.tb.time
        ((∀ e, s.su.openEntry = some e → e.bank ≠ none) → t.ru = done s.ru)
        ∧ ∀ e, s.su.openEntry = some e → e.bank = none →
            t.ru = done (takeOffer (.verdict (verdictOf (closedOf e s.tb.time true) none none)) s.tb.time s.ru))

/-! ### Station time and lines (R37 to R49) -/

/-- SET_TIME and SET_PRESCALE in OFF load station time and the divisor, and start the prescaler again; CUE_SET replaces the
cue settings; LINE_FORCE forces TALLY or lets it follow its function. The function is asserted while an entry is open and
its caption gap or its dead air has reached its limit or its short-term over mark is set. The other line, ALERT_N, is
asserted exactly while the alert latch is set (R40, R41, R46 to R49). -/
def Obligations.TimeAndLineSettings : Prop :=
  (∀ (s : State) (it : CmdItem) (rest : List CmdItem), s.cu.mode = .off →
     (headIs .setTime it rest s →
       exec .setTime s = .next (offer (.commandDone it.tag 1 it.master 0x008 0)
         { withQueue rest s with tb := { s.tb with time := it.arg.extractLsb' 0 32, prescale := 0 } }))
     ∧ (headIs .setPrescale it rest s →
       let d := it.arg.toNat % 2 ^ 32
       exec .setPrescale s = .next (
         if 1 ≤ d ∧ d ≤ 65536 then
           offer (.commandDone it.tag 2 it.master 0x010 0)
             { withQueue rest s with tb := { s.tb with divisor := d, prescale := 0 } }
         else offer (.commandRefused it.tag 2 it.master 0x010 .badValue) (withQueue rest s))))
    ∧ (∀ (s : State) (it : CmdItem) (rest : List CmdItem),
         (headIs .cueSet it rest s →
           let q := it.arg.toNat % 2 ^ 8
           let window := it.arg.toNat / 2 ^ 8 % 2 ^ 16
           exec .cueSet s = .next (
             if 1 ≤ q ∧ q ≤ 16 ∧ window ≤ 60000 then
               offer (.commandDone it.tag 20 it.master 0x0A0 0) { withQueue rest s with
                 tb := { s.tb with cueQ := q, earlyWindow := window, cueRun := 0, cueStart := none } }
             else offer (.commandRefused it.tag 20 it.master 0x0A0 .badValue) (withQueue rest s)))
         ∧ (headIs .lineForce it rest s →
           let force (f : Force) : State :=
             offer (.commandDone it.tag 14 it.master 0x070 0) { withQueue rest s with tb := { s.tb with force := f } }
           let code := it.arg.toNat % 2 ^ 8
           (code = 0 → exec .lineForce s = .next (force .function) ∧ tallyAsserted (force .function) = tallyFunction s)
           ∧ (code = 1 → exec .lineForce s = .next (force .off) ∧ tallyAsserted (force .off) = false)
           ∧ (code = 2 → exec .lineForce s = .next (force .on) ∧ tallyAsserted (force .on) = true)
           ∧ (2 < code → exec .lineForce s
               = .next (offer (.commandRefused it.tag 14 it.master 0x070 .badValue) (withQueue rest s)))))
    ∧ (∀ s : State, tallyFunction s = true ↔ ∃ e, s.su.openEntry = some e
        ∧ ((e.entry.required = true ∧ e.entry.gapLimit ≤ s.ca.gapTimer)
          ∨ (0 < e.entry.deadAirLimit ∧ e.entry.deadAirLimit ≤ s.ag.deadTimer) ∨ e.overMark = true))
    ∧ ∀ s : State, alertAsserted s = s.ru.latch

/-- REF_CLK_EDGE: an edge that finds the count below D − 1 adds 1 to it, one that finds it at D − 1 makes a tick, and in
REPLAY edges are not counted. TICK in OFF and LIVE stands for the edges left to the prescaler: D less the count edges of
REF_CLK, one after the other, do what it does, scans included. TICK in OFF: station time goes up by 1, wrapping, and nothing
else happens but the count to the status image's 100 ms (R37, R38, R43, R94, R170). The model's choices: a TICK stands for
the edges still needed (log 3), and the hundredth tick is not counted by the TICK row and is left to IMAGE_DUE (log 4). -/
def Obligations.TicksAndEdges : Prop :=
  (∀ (s : State) (high : Bool) (late : TickSet), ready s = true → noScan s →
     (s.cu.mode ≠ .replay → s.tb.prescale + 1 < s.tb.divisor →
       exec (.refClkEdge high late) s = .next { s with tb := { s.tb with prescale := s.tb.prescale + 1 } })
     ∧ (s.cu.mode ≠ .replay → s.tb.prescale + 1 = s.tb.divisor →
       exec (.refClkEdge high late) s = exec (.tick high late) s)
     ∧ (s.cu.mode = .replay → exec (.refClkEdge high late) s = .next s))
    ∧ (∀ (s : State) (high : Bool) (late : TickSet), ready s = true → s.cu.mode ≠ .replay → s.tb.prescale < s.tb.divisor →
         s.pending = [] →
         Host.Core.run Sys2Proof.core (s.tb.divisor - s.tb.prescale)
             { s with pending := List.replicate (s.tb.divisor - s.tb.prescale) (.refClkEdge high late) }
           = exec (.tick high late) s)
    ∧ (∀ (s : State) (high : Bool), ready s = true → nothingHanded s → noScan s → s.cu.mode = .off → s.su.openEntry = none →
         s.ao.engine = .idle →
         exec (.tick high .none) s = .next { s with
           tb := { s.tb with
             time := BitVec.ofNat 32 (s.tb.time.toNat + 1), prescale := 0
             owed := { TickSet.none with ru := s.ru.imageTicks = 99 } }
           ru := if s.ru.imageTicks = 99 then s.ru else { s.ru with imageTicks := s.ru.imageTicks + 1 } })

/-- TICK in LIVE and REPLAY: station time goes up by 1 and the start compare fires when it has reached the held value; in
LIVE the prescaler starts again and the CUE sample is qualified, a rise being offered with the time of its first sample; in
REPLAY CUE is not sampled. The open entry's measured ms grow by 1 while the engine is MEASURING and its unmeasured ms
otherwise, both staying at 2^32 − 1. The other blocks take the tick in its event: the stall count of a MEASURING stream, the
dead-air timer, the gap timer with active and covered ms, and the image tick count go up by 1 where their rules count it.
Scans: one with a tick left has one tick fewer after a TICK, and one with none completes just before the TICK is taken; a
scan begun in REPLAY counts the edges of REF_CLK in the same way in every mode, one by one, and at a TICK in OFF or LIVE the
edges that the TICK stands for (R37, R39, R42 to R45, R61, R86, R94, R107, R128, R170). The model's choices: a block that
the operand names, and one whose count the tick brings to its limit, is owed the tick instead and takes it in an event of
its own (log 4), a scan no row completes does so at its bound (log 8), a held value exactly 2^31 ms ahead counts as reached
(log 24), and a TICK stands for the edges still needed (log 3). -/
def Obligations.TickInLiveAndReplay : Prop :=
  (∀ (s : State) (high : Bool) (late : TickSet), s.resetAsserted = false → completionDue s = false → nothingHanded s →
     noScan s → (s.cu.mode = .live ∧ s.tb.frameTick = false) ∨ (s.cu.mode = .replay ∧ s.tb.frameTick = true) →
     let now : Time := s.tb.time + 1
     let fires : Prop := ∃ v, s.tb.compare = some v ∧ (v - now).toInt ≤ 0
     ∃ t : State, exec (.tick high late) s = .next t ∧ t.tb.time = now ∧ t.tb.frameTick = false
       ∧ t.cu = s.cu ∧ t.mp = s.mp ∧ t.resetAsserted = false ∧ t.lu.calibration = s.lu.calibration
       ∧ t.tb.divisor = s.tb.divisor ∧ t.tb.residue = s.tb.residue ∧ t.tb.cueQ = s.tb.cueQ
       ∧ t.tb.earlyWindow = s.tb.earlyWindow ∧ t.tb.force = s.tb.force
       ∧ (fires → t.tb.compare = none ∧ t.tb.firing = s.tb.compare)
       ∧ (¬ fires → t.tb.compare = s.tb.compare ∧ t.tb.firing = none)
       ∧ (s.cu.mode = .replay → t.tb.prescale = s.tb.prescale ∧ t.tb.cueLevel = s.tb.cueLevel
           ∧ t.tb.cueRun = s.tb.cueRun ∧ t.tb.cueStart = s.tb.cueStart ∧ t.tb.cues = [])
       ∧ (s.cu.mode = .live → t.tb.prescale = 0
           ∧ (s.tb.cueLevel = none ∨ s.tb.cueLevel = some high →
               t.tb.cueLevel = some high ∧ t.tb.cueRun = 0 ∧ t.tb.cueStart = none ∧ t.tb.cues = [])
           ∧ ∀ start : Time, s.tb.cueLevel = some (!high) →
               (s.tb.cueRun = 0 ∧ start = now) ∨ (0 < s.tb.cueRun ∧ s.tb.cueStart = some start) →
               (s.tb.cueRun + 1 < s.tb.cueQ →
                 t.tb.cueLevel = some (!high) ∧ t.tb.cueRun = s.tb.cueRun + 1 ∧ t.tb.cueStart = some start ∧ t.tb.cues = [])
               ∧ (s.tb.cueRun + 1 = s.tb.cueQ →
                 t.tb.cueLevel = some high ∧ t.tb.cueRun = 0 ∧ t.tb.cueStart = none
                 ∧ t.tb.cues = if high then [start] else [])))
    ∧ (∀ (s : State) (high : Bool) (late : TickSet) (e : OpenEntry), s.resetAsserted = false → completionDue s = false →
         nothingHanded s → noScan s → s.su.openEntry = some e → late.su = false →
         (s.cu.mode = .live ∧ s.tb.frameTick = false) ∨ (s.cu.mode = .replay ∧ s.tb.frameTick = true) →
         let inc (n : BitVec 32) : BitVec 32 := if n = BitVec.allOnes 32 then n else n + 1
         ∃ t e', exec (.tick high late) s = .next t ∧ t.su.openEntry = some e' ∧ e'.entry = e.entry
           ∧ t.su = { s.su with openEntry := some e' }
           ∧ (s.ao.engine = .measuring → e'.measuredMs = inc e.measuredMs ∧ e'.unmeasuredMs = e.unmeasuredMs)
           ∧ (s.ao.engine ≠ .measuring → e'.measuredMs = e.measuredMs ∧ e'.unmeasuredMs = inc e.unmeasuredMs))
    ∧ (∀ (s : State) (high : Bool) (late : TickSet), s.resetAsserted = false → completionDue s = false → nothingHanded s →
         noScan s → (s.cu.mode = .live ∧ s.tb.frameTick = false) ∨ (s.cu.mode = .replay ∧ s.tb.frameTick = true) →
         let inc (n : Nat) : Nat := if n < 2147483647 then n + 1 else n
         let stalls : Prop := s.ao.engine = .measuring ∧ s.ao.stallCount + 1 = 500
         let quiet (e : OpenEntry) : Prop :=
           0 < e.entry.deadAirLimit ∧ s.ag.active = false ∧ (s.ao.engine = .measuring ∨ s.ao.engine = .stalled)
         let dead : Prop := ∃ e, s.su.openEntry = some e ∧ quiet e ∧ inc s.ag.deadTimer = e.entry.deadAirLimit
         let runs (e : OpenEntry) : Prop := e.entry.required = true ∧ s.ag.active = true ∧ s.ca.windowPresent = true
         let gap : Prop := ∃ e, s.su.openEntry = some e ∧ runs e ∧ s.ca.gapTimer < e.entry.gapLimit
           ∧ inc s.ca.gapTimer = e.entry.gapLimit
         ∃ t, exec (.tick high late) s = .next t
           ∧ (t.tb.owed.ao = true ↔ late.ao = true ∨ stalls) ∧ (t.tb.owed.ag = true ↔ late.ag = true ∨ dead)
           ∧ (t.tb.owed.ca = true ↔ late.ca = true ∨ gap) ∧ t.tb.owed.su = late.su
           ∧ (t.tb.owed.ru = true ↔ late.ru = true ∨ s.ru.imageTicks + 1 = 100)
           ∧ t.lu = s.lu ∧ t.rc = s.rc
           ∧ (t.tb.owed.ao = true ∨ s.ao.engine ≠ .measuring → t.ao = s.ao)
           ∧ (t.tb.owed.ao = false → s.ao.engine = .measuring → t.ao = { s.ao with stallCount := s.ao.stallCount + 1 })
           ∧ (t.tb.owed.ag = true ∨ (∀ e, s.su.openEntry = some e → ¬ quiet e) → t.ag = s.ag)
           ∧ (∀ e, t.tb.owed.ag = false → s.su.openEntry = some e → quiet e →
               t.ag = { s.ag with deadTimer := inc s.ag.deadTimer })
           ∧ (t.tb.owed.ca = true ∨ (∀ e, s.su.openEntry = some e → ¬ runs e) → t.ca = s.ca)
           ∧ (∀ e, t.tb.owed.ca = false → s.su.openEntry = some e → runs e →
               t.ca = { s.ca with gapTimer := inc s.ca.gapTimer })
           ∧ (t.tb.owed.ru = true → t.ru = s.ru)
           ∧ (t.tb.owed.ru = false → t.ru = { s.ru with imageTicks := s.ru.imageTicks + 1 })
           ∧ (s.su.openEntry = none → t.su = s.su)
           ∧ ∀ e, s.su.openEntry = some e → ∃ e', t.su = { s.su with openEntry := some e' }
               ∧ e' = { e with
                   measuredMs := e'.measuredMs, unmeasuredMs := e'.unmeasuredMs
                   activeMs := e'.activeMs, coveredMs := e'.coveredMs }
               ∧ (late.su = true → e'.measuredMs = e.measuredMs ∧ e'.unmeasuredMs = e.unmeasuredMs)
               ∧ (t.tb.owed.ca = true ∨ ¬ runs e → e'.activeMs = e.activeMs ∧ e'.coveredMs = e.coveredMs)
               ∧ (t.tb.owed.ca = false → runs e → e'.activeMs = inc e.activeMs
                   ∧ e'.coveredMs = if s.ca.gapTimer < e.entry.gapLimit then inc e.coveredMs else e.coveredMs))
    ∧ (∀ (s : State) (high : Bool) (late : TickSet), s.resetAsserted = false → completionDue s = false → nothingHanded s →
         (s.cu.mode ≠ .replay ∧ s.tb.frameTick = false) ∨ (s.cu.mode = .replay ∧ s.tb.frameTick = true) →
         (∀ bank, slotOf s.su bank = none ∨ ∃ c n, slotOf s.su bank = some ⟨c, .ticks (n + 1)⟩) →
         ∃ t, exec (.tick high late) s = .next t
           ∧ ∀ bank c n, slotOf s.su bank = some ⟨c, .ticks (n + 1)⟩ →
               slotOf t.su bank = some ⟨c, .ticks n⟩ ∧ bankOf t.ag bank = bankOf s.ag bank)
    ∧ (∀ (s : State) (high : Bool) (late : TickSet) (bank other : Bank) (c : ClosedEntry), ready s = true → nothingHanded s →
         s.cu.mode ≠ .replay → bank ≠ other → slotOf s.su bank = some ⟨c, .ticks 0⟩ →
         (slotOf s.su other = none ∨ ∃ d n, slotOf s.su other = some ⟨d, .ticks (n + 1)⟩) →
         ∃ u, exec (.scanCompletion bank) s = .next u ∧ exec (.tick high late) s = exec (.tick high late) u)
    ∧ (∀ (s : State) (high : Bool) (late : TickSet) (bank other : Bank) (c : ClosedEntry) (k : Nat), ready s = true →
         s.cu.mode ≠ .replay → bank ≠ other → slotOf s.su bank = some ⟨c, .edges k⟩ →
         (s.tb.prescale + 1 < s.tb.divisor → (slotOf s.su other = none ∨ ∃ d n, slotOf s.su other = some ⟨d, .ticks n⟩) →
           (2 ≤ k → exec (.refClkEdge high late) s = .next { s with
               tb := { s.tb with prescale := s.tb.prescale + 1 }, su := setSlot bank (some ⟨c, .edges (k - 1)⟩) s.su })
           ∧ (k ≤ 1 → ∃ u, exec (.scanCompletion bank) s = .next u
               ∧ exec (.refClkEdge high late) s = .next { u with tb := { u.tb with prescale := s.tb.prescale + 1 } }))
         ∧ (nothingHanded s → (slotOf s.su other = none ∨ ∃ d n, slotOf s.su other = some ⟨d, .ticks (n + 1)⟩) →
           (s.tb.divisor - s.tb.prescale < k → ∃ t, exec (.tick high late) s = .next t
             ∧ slotOf t.su bank = some ⟨c, .edges (k - (s.tb.divisor - s.tb.prescale))⟩ ∧ bankOf t.ag bank = bankOf s.ag bank)
           ∧ (k ≤ s.tb.divisor - s.tb.prescale → ∃ u, exec (.scanCompletion bank) s = .next u
               ∧ exec (.tick high late) s = exec (.tick high late) u)))
    ∧ ∀ (s : State) (high : Bool) (late : TickSet) (bank other : Bank) (c : ClosedEntry) (k : Nat), ready s = true →
        s.cu.mode = .replay → bank ≠ other → slotOf s.su bank = some ⟨c, .edges k⟩ →
        (slotOf s.su other = none ∨ ∃ d n, slotOf s.su other = some ⟨d, .ticks n⟩) →
        (2 ≤ k → exec (.refClkEdge high late) s
          = .next { s with su := setSlot bank (some ⟨c, .edges (k - 1)⟩) s.su })
        ∧ (k ≤ 1 → ∃ u, exec (.scanCompletion bank) s = .next u ∧ exec (.refClkEdge high late) s = .next u)

/-! ### The window table (R3 to R6) -/

/-- WINDOW: the fields of the staged words, the five checks of R5 in their order with the well-formedness of R4, and the
commit that follows when none fails, with the fields that a kind does not use stored as R4 says (R4, R5, R173, section
11.3). The model's reading: an archive mask is checked for master 15 in a RECORD descriptor only (log 22). -/
def Obligations.WindowChecksInOrder : Prop :=
  ∀ (s : State) (it : CmdItem) (rest : List CmdItem), headIs .window it rest s →
    let word (k : Nat) : Beat := it.words.getD k 0
    let w : StagedWindow :=
      { slot := ((word 0).extractLsb' 0 8).toNat, kindCode := ((word 0).extractLsb' 8 8).toNat
        feeding := ((word 0).extractLsb' 16 8).toNat, basePage := ((word 0).extractLsb' 32 32).toNat
        pages := ((word 1).extractLsb' 0 32).toNat
        writeMask := (word 1).extractLsb' 32 16, readMask := (word 1).extractLsb' 48 16
        archiveMask := (word 2).extractLsb' 0 16
        segCount := ((word 2).extractLsb' 16 16).toNat, segSize := ((word 2).extractLsb' 32 16).toNat }
    let stored (k : WindowKind) : Window :=
      { kind := k, basePage := w.basePage, pages := w.pages
        feeding := if k = .report ∨ k = .guard then 0 else (word 0).extractLsb' 16 4
        writeMask := if k = .report then 0 else w.writeMask
        readMask := w.readMask
        archiveMask := if k = .record then w.archiveMask else 0
        segCount := if k = .record then w.segCount else 0
        segSize := if k = .record then w.segSize else 0 }
    let old := windowAt s.mp w.slot
    let q := withQueue rest s
    let refused (reason : Reason) : Prop :=
      exec .window s = .next (offer (.commandRefused it.tag 32 it.master 0x118 reason) q)
    let frozen : Prop := s.cu.mode ≠ .off ∧ ¬ ((∀ v, old = some v → v.kind = .guard) ∧ (w.kindCode = 0 ∨ w.kindCode = 5))
    let kept : Prop := (∃ v, old = some v ∧ v.kind = .record) ∧ ∃ g ∈ s.rc.table, g.state = .held ∨ g.state = .exporting
    let first := w.basePage * 4096
    let last := (w.basePage + w.pages) * 4096
    let formed (k : WindowKind) : Prop :=
      1 ≤ w.pages ∧ w.pages ≤ 16777215 ∧ last ≤ 2 ^ 36
        ∧ (k = .audio ∨ k = .caption ∨ k = .record → w.feeding ≤ 14 ∧ w.writeMask.getLsbD w.feeding = true)
        ∧ w.writeMask.getLsbD 15 = false ∧ w.readMask.getLsbD 15 = false ∧ (k = .record → w.archiveMask.getLsbD 15 = false)
        ∧ (k = .report → 2 ≤ w.pages ∧ w.pages ≤ 256)
        ∧ (k = .record → 4 ≤ w.segCount ∧ w.segCount ≤ 64 ∧ 1 ≤ w.segSize ∧ w.segSize ≤ 256
            ∧ w.pages = w.segCount * w.segSize * 256)
        ∧ (k = .guard ∨ ∀ j v, j < 8 → j ≠ w.slot → windowAt s.mp j = some v → v.kind ≠ k)
    let meets : Prop :=
      (first < s.mp.ctlBase + 4096 ∧ s.mp.ctlBase < last)
        ∨ ∃ j v, j < 8 ∧ j ≠ w.slot ∧ windowAt s.mp j = some v ∧ first < v.stop ∧ v.base < last
    (7 < w.slot → refused .badValue)
      ∧ (w.slot ≤ 7 → frozen → refused .busyLive)
      ∧ (w.slot ≤ 7 → ¬ frozen → kept → refused .holdsPresent)
      ∧ (w.slot ≤ 7 → ¬ frozen → ¬ kept →
          (5 < w.kindCode → refused .badDescriptor)
          ∧ (w.kindCode = 0 →
              exec .window s = .next (offer (.commandDone it.tag 32 it.master 0x118 0) (commitWindow w.slot none q)))
          ∧ ∀ k, (k, w.kindCode) ∈ [(WindowKind.audio, 1), (.caption, 2), (.record, 3), (.report, 4), (.guard, 5)] →
              (¬ formed k → refused .badDescriptor) ∧ (formed k → meets → refused .overlap)
              ∧ (formed k → ¬ meets →
                  exec .window s = .next (offer (.commandDone it.tag 32 it.master 0x118 0)
                    (commitWindow w.slot (some (stored k)) q))))

/-- An accepted WINDOW commit replaces the slot, clears its blocked count and its last ACCESS_BLOCKED time, and tells the
owner of each kind involved; the owners of other kinds are untouched. A REPORT window that changes abandons the unit in
progress: an image is due again; a record that was begun leaves the queue as dropped, with the count of a LOST record whose
burst was not taken added back, and keeps its number; the records behind it stay (R6, R51, R99, R136, R160, R172). -/
def Obligations.WindowCommitTellsOwners : Prop :=
  ∀ (s : State) (slot : Nat) (new : Option Window), slot < 8 →
    let t := commitWindow slot new s
    let involves (k : WindowKind) : Prop :=
      (∃ v, windowAt s.mp slot = some v ∧ v.kind = k) ∨ ∃ v, new = some v ∧ v.kind = k
    t = { s with mp := t.mp, ao := t.ao, lu := t.lu, ag := t.ag, ca := t.ca, rc := t.rc, ru := t.ru }
      ∧ t.mp = { s.mp with
          slots := s.mp.slots.setIfInBounds slot new
          blocked := s.mp.blocked.setIfInBounds slot 0
          lastReport := s.mp.lastReport.setIfInBounds slot none }
      ∧ windowAt t.mp slot = new ∧ (∀ j, j ≠ slot → windowAt t.mp j = windowAt s.mp j)
      ∧ (¬ involves .audio → t.ao = s.ao ∧ t.lu = s.lu ∧ t.ag = s.ag)
      ∧ (involves .audio →
          t.ao = { AudioObs.reset with inbox := s.ao.inbox } ∧ t.lu = { s.lu with momentary := none, shortTerm := none }
          ∧ t.ag = { s.ag with onCount := 0, offCount := 0 })
      ∧ (¬ involves .caption → t.ca = s.ca)
      ∧ (involves .caption → t.ca = { Caption.reset with
          inbox := s.ca.inbox, windowPresent := new.any (·.kind == .caption) })
      ∧ (¬ involves .record → t.rc = s.rc)
      ∧ (involves .record →
          (∀ v, new = some v → v.kind = .record → t.rc = ⟨(List.range v.segCount).map freeSegment, none⟩)
          ∧ ((∀ v, new = some v → v.kind ≠ .record) → t.rc = ⟨[], none⟩))
      ∧ (¬ involves .report → t.ru = s.ru)
      ∧ (involves .report →
          t.ru = { s.ru with
            geometry := t.ru.geometry, writeIndex := 0, readIndex := 0, current := none, queue := t.ru.queue
            lostCount := t.ru.lostCount, flags := t.ru.flags, latch := t.ru.latch, imageDue := t.ru.imageDue }
          ∧ ((s.ru.current = none ∨ ∃ u, s.ru.current = some u ∧ (u.image = true ∨ s.ru.queue = [])) →
              t.ru.queue = s.ru.queue ∧ t.ru.lostCount = s.ru.lostCount ∧ t.ru.flags = s.ru.flags
              ∧ t.ru.latch = s.ru.latch)
          ∧ (∀ u, s.ru.current = some u → u.image = true → t.ru.imageDue = true)
          ∧ (∀ u q rest, s.ru.current = some u → u.image = false → s.ru.queue = q :: rest →
              t.ru.queue = rest
              ∧ t.ru.lostCount.toNat = min (2 ^ 32 - 1) (s.ru.lostCount.toNat + (u.lost.getD 0).toNat + 1)
              ∧ t.ru.flags = s.ru.flags ||| Flag.reportsLost.set
              ∧ t.ru.latch = (s.ru.latch || s.ru.enables.getLsbD Flag.reportsLost.code)
              ∧ (kindCode q.report = 1 ∨ kindCode q.report = 2 → t.ru.imageDue = true))
          ∧ (∀ v, new = some v → v.kind = .report →
              t.ru.geometry = some ⟨v.base, (v.pages * 4096 - 256) / 64⟩ ∧ t.ru.imageDue = true)
          ∧ ((∀ v, new = some v → v.kind ≠ .report) → t.ru.geometry = none))

/-! ### Audio observation (R50 to R65) -/

/-- DESCRIPTOR_BEAT: each enabled byte replaces the shadow byte at its offset, and only a whole beat at 0x38 takes the
descriptor. A take abandons the measurement, clears the filters, sets the engine by the descriptor and offers AUDIO_STATE.
What it decodes: other codes are NONE and OTHER, a count that is not 1 to 8 makes the coding NONE and the count 0, and
channels at or above the count have the role OTHER (R53 to R56). -/
def Obligations.DescriptorTaken : Prop :=
  (∀ (s : State) (offset : Nat) (b : WBeat) (rest : List AudioItem), ready s = true →
     s.ao.inbox = .descriptor offset b :: rest → offset < 0x40 →
     ∃ shadow : Vector Beat 8,
       (∀ (k j : Nat) (hk : k < 8), j < 8 →
         (shadow[k]).extractLsb' (8 * j) 8 =
           if k = offset / 8 ∧ b.enables.getLsbD j = true then b.data.extractLsb' (8 * j) 8
           else (s.ao.shadow[k]).extractLsb' (8 * j) 8)
       ∧ (¬ (offset = 0x38 ∧ b.enables = 0xFF) →
           exec .descriptorBeat s = .next { s with ao := { s.ao with inbox := rest, shadow := shadow } })
       ∧ (offset = 0x38 → b.enables = 0xFF →
           let d := decodeDescriptor shadow
           let engine : Engine := if d.coding = .pcm ∧ d.rate = .r48000 then .measuring else .unmeasurable
           exec .descriptorBeat s
             = .next (offer (.audioState .descriptor s.ao.engine engine (some d) (s.su.openEntry.map (·.entry.id)) s.tb.time)
               { s with
                 ao := { s.ao with
                   inbox := rest, shadow := shadow, taken := some d, engine := engine, expected := none, channel := 0
                   stallCount := 0, filters := Vector.replicate 8 .clear, sub := none, history := [] }
                 lu := { s.lu with momentary := none, shortTerm := none }
                 ag := { s.ag with onCount := 0, offCount := 0 } })))
    ∧ (∀ shadow : Vector Beat 8,
         let code := (shadow[0].extractLsb' 0 8).toNat
         let rate := (shadow[0].extractLsb' 8 8).toNat
         let count := (shadow[0].extractLsb' 16 8).toNat
         let d := decodeDescriptor shadow
         (1 ≤ count ∧ count ≤ 8 → d.channels = count ∧ (d.coding = .pcm ↔ code = 1) ∧ (d.coding = .compressed ↔ code = 2))
           ∧ (count = 0 ∨ 8 < count → d.channels = 0 ∧ d.coding = .none)
           ∧ (d.rate = .r32000 ↔ rate = 1) ∧ (d.rate = .r44100 ↔ rate = 2) ∧ (d.rate = .r48000 ↔ rate = 3)
           ∧ d.generation = shadow[7].extractLsb' 0 16
           ∧ ∀ (k : Nat) (hk : k < 8),
               let role := (shadow[1].extractLsb' (8 * k) 8).toNat
               (d.channels ≤ k → d.roles[k] = .other)
               ∧ (k < d.channels →
                   (d.roles[k] = .l ↔ role = 1) ∧ (d.roles[k] = .r ↔ role = 2) ∧ (d.roles[k] = .c ↔ role = 3)
                   ∧ (d.roles[k] = .lfe ↔ role = 4) ∧ (d.roles[k] = .ls ↔ role = 5) ∧ (d.roles[k] = .rs ↔ role = 6)))

/-- SAMPLE_WORD: a word is ignored in IDLE and UNMEASURABLE; a partial word, or a whole one out of place, gives up the
measurement and counts a discontinuity, and the whole one is then accepted as a first word. A whole word in place: the engine
measures; the word goes through its channel's two stages, its weighted square joins the channel's energy, its magnitude the
channel's peak and its saturations the open entry's, unless it lies in the rest of a frame that a stall has cut; the channel
index moves on, and a complete frame counts and, in REPLAY, moves the residue or makes a tick (R39, R57 to R62, R70, R71). -/
def Obligations.SampleWords : Prop :=
  (∀ (s : State) (offset : Nat) (data : BitVec 32) (enables : BitVec 4) (rest : List AudioItem), ready s = true →
     s.ao.inbox = .word offset data enables :: rest →
     let broken (expected : Option Nat) (inbox : List AudioItem) : State := { s with
       ao := { s.ao with inbox := inbox, sub := none, history := [], filters := Vector.replicate 8 .clear, channel := 0,
                         expected := expected }
       lu := { s.lu with momentary := none, shortTerm := none }
       ag := { s.ag with onCount := 0, offCount := 0 }
       su := { s.su with openEntry := s.su.openEntry.map fun e =>
         { e with discontinuities :=
             if e.discontinuities = BitVec.allOnes 16 then e.discontinuities else e.discontinuities + 1 } } }
     (s.ao.engine = .idle ∨ s.ao.engine = .unmeasurable →
         exec .sampleWord s = .next { s with ao := { s.ao with inbox := rest } })
     ∧ (s.ao.engine = .measuring ∨ s.ao.engine = .stalled → enables ≠ 0xF →
         exec .sampleWord s = .next (broken none rest))
     ∧ (s.ao.engine = .measuring ∨ s.ao.engine = .stalled → enables = 0xF → offset ≠ 0x40 →
         (∃ a, s.ao.expected = some a ∧ a ≠ offset) →
         exec .sampleWord s = exec .sampleWord (broken none s.ao.inbox)))
    ∧ (∀ (s : State) (offset : Nat) (data : BitVec 32) (rest : List AudioItem) (d : Descriptor), ready s = true →
         s.ao.inbox = .word offset data 0xF :: rest → s.ao.engine = .measuring ∨ s.ao.engine = .stalled →
         s.ao.taken = some d → offset = 0x40 ∨ s.ao.expected = none ∨ s.ao.expected = some offset →
         let v := (data.extractLsb' 8 24).toInt
         let c := s.ao.channel
         let ends : Prop := d.channels ≤ c + 1
         let cut : Prop := s.ao.sub = none ∧ c ≠ 0
         let before : SubBlock := s.ao.sub.getD ⟨0, Vector.replicate 8 0, Vector.replicate 8 0⟩
         let f : ChannelFilter := s.ao.filters[c]?.getD ⟨⟨0, 0, 0, 0⟩, ⟨0, 0, 0, 0⟩⟩
         let x : Int := v * 2 ^ 8
         let y : Int := stageOut s.lu.stage1 f.stage1 x
         let z : Int := stageOut s.lu.stage2 f.stage2 y
         let sub : SubBlock := { before with
           energy := before.energy.setIfInBounds c (before.energy[c]?.getD 0 + z.natAbs ^ 2)
           peak := before.peak.setIfInBounds c (max (before.peak[c]?.getD 0) v.natAbs) }
         let saturated : Nat := (if stageSaturates s.lu.stage1 f.stage1 x then 1 else 0)
           + (if stageSaturates s.lu.stage2 f.stage2 y then 1 else 0)
         ∃ t : State, exec .sampleWord s = .next t
           ∧ t = { s with ao := t.ao, tb := t.tb, su := t.su, ru := t.ru }
           ∧ t.ao = { s.ao with
               inbox := rest, engine := .measuring, stallCount := 0, expected := some (offset + 4), channel := t.ao.channel
               filters := t.ao.filters, sub := t.ao.sub }
           ∧ (ends → t.ao.channel = 0) ∧ (¬ ends → t.ao.channel = c + 1)
           ∧ (cut → t.ao.filters = s.ao.filters ∧ t.ao.sub = none ∧ t.su = s.su ∧ t.tb = s.tb)
           ∧ (¬ cut →
               t.ao.filters = s.ao.filters.setIfInBounds c ⟨stageNext s.lu.stage1 f.stage1 x, stageNext s.lu.stage2 f.stage2 y⟩
               ∧ (ends → t.ao.sub = some { sub with frames := sub.frames + 1 }) ∧ (¬ ends → t.ao.sub = some sub)
               ∧ t.su = { s.su with openEntry := s.su.openEntry.map fun e =>
                   { e with saturations := satAdd e.saturations saturated } }
               ∧ (¬ ends ∨ s.cu.mode ≠ .replay → t.tb = s.tb)
               ∧ (ends → s.cu.mode = .replay → s.tb.residue < 47 → t.tb = { s.tb with residue := s.tb.residue + 1 })
               ∧ (ends → s.cu.mode = .replay → s.tb.residue = 47 → t.tb = { s.tb with residue := 0, frameTick := true }))
           ∧ (s.ao.engine = .measuring → t.ru = s.ru)
           ∧ (s.ao.engine = .stalled → t.ru = takeOffer
               (.audioState .resume .stalled .measuring (some d) (s.su.openEntry.map (·.entry.id)) s.tb.time) s.tb.time s.ru))

/-- SUB_BLOCK_COMPLETION: the weighted energy joins the history of at most 30, the levels of the newest 4 and of all 30 are
held or none, and the open entry counts the completion up to 2^32 − 1, keeps the larger peaks and takes attributed levels as
maxima; then, in this order, an attributed short-term level meets the ceiling, the FILLING segment hears of the held
short-term level, activity is decided by the momentary level, and its block goes to gating with its attribution (R63, R65,
R71, R76 to R80, R83, R89, R144). A completion that is due, and then the tick that a frame has made, belong to the event of
the word that made them (R39, R63): any other row takes them first, TICK the completion before its own tick. That no row
falls between is the model's choice (log 5). -/
def Obligations.SubBlockCompletes : Prop :=
  (∀ (s : State) (b : SubBlock) (d : Descriptor), s.resetAsserted = false → s.ao.sub = some b → s.ao.taken = some d →
     4800 ≤ b.frames → s.ao.history.length ≤ 30 →
     let weight (c : Nat) : Nat := match s.lu.overrides[c]? with
       | some (some w) => w
       | _ => match d.roles[c]? with
         | some .l | some .r | some .c => 1000
         | some .ls | some .rs => 1410
         | _ => 0
     let energy := ((List.range d.channels).map fun c => weight c * b.energy[c]?.getD 0).sum
     let history := (if s.ao.history.length = 30 then s.ao.history.tail else s.ao.history) ++ [energy]
     let newest (n : Nat) : Option Int :=
       if n ≤ history.length then
         some (levelOf (history.reverse.take n).sum (4800 * n * 1000 * 2 ^ 62) s.lu.calibration)
       else none
     ∃ t : State, exec .subBlockCompletion s = .next t
       ∧ t.ao = { s.ao with sub := none, history := history }
       ∧ t.lu = { s.lu with momentary := newest 4, shortTerm := newest 30 }
       ∧ t.mp = s.mp ∧ t.cu = s.cu ∧ t.tb = s.tb ∧ t.ca = s.ca ∧ t.rc.pendingExport = s.rc.pendingExport
       ∧ (s.su.openEntry = none → t.su.openEntry = none
           ∧ t = gateBlock (newest 4) false (decideActivity (newest 4) (noteShortTerm
               { s with ao := t.ao, lu := t.lu })))
       ∧ ∀ e, s.su.openEntry = some e →
           let count : BitVec 32 := if e.subBlocks = BitVec.allOnes 32 then e.subBlocks else e.subBlocks + 1
           let grown : OpenEntry := { e with
             subBlocks := count
             peaks := Vector.ofFn fun c => max e.peaks[c] b.peak[c]
             maxMomentary := match newest 4 with
               | some l => if 4 ≤ count.toNat then some (match e.maxMomentary with | some m => max m l | none => l)
                 else e.maxMomentary
               | none => e.maxMomentary
             maxShortTerm := match newest 30 with
               | some l => if 30 ≤ count.toNat then some (match e.maxShortTerm with | some m => max m l | none => l)
                 else e.maxShortTerm
               | none => e.maxShortTerm }
           let counted : State := { s with ao := t.ao, lu := t.lu, su := { s.su with openEntry := some grown } }
           let checked : State := match newest 30 with
             | some l => if 30 ≤ count.toNat then checkCeiling l counted else counted
             | none => counted
           t = gateBlock (newest 4) (decide (4 ≤ count.toNat)) (decideActivity (newest 4) (noteShortTerm checked))
             ∧ ∃ e', t.su.openEntry = some e' ∧ e' = { grown with
                 overMark := e'.overMark, overCount := e'.overCount, missed := e'.missed, isPartial := e'.isPartial
                 evidenceIncomplete := e'.evidenceIncomplete })
    ∧ ∀ s : State, s.resetAsserted = false → (s.tb.frameTick = true → s.cu.mode = .replay) →
        ∃ u v : State, exec .subBlockCompletion s = .next u ∧ completionDue u = false
          ∧ (completionDue s = false → u = s)
          ∧ u.tb.frameTick = s.tb.frameTick ∧ u.cu.mode = s.cu.mode
          ∧ (∀ (high : Bool) (late : TickSet), exec (.tick high late) s = exec (.tick high late) u)
          ∧ (s.tb.frameTick = false → v = u)
          ∧ (s.tb.frameTick = true → exec (.tick false .none) u = .next v)
          ∧ ready v = true
          ∧ ∀ c : Instr, c ≠ .lineReset → (∀ straps, c ≠ .resetNRelease straps) → c ≠ .subBlockCompletion →
              (∀ high late, c ≠ .tick high late) → exec c s = exec c v

/-- STALL: a tick that the observer is owed adds 1 to the stall count of a MEASURING stream, and the 500th moves the engine
to STALLED, gives up the measurement, forces QUIET and offers AUDIO_STATE (R61, R84). -/
def Obligations.StallTick : Prop :=
  ∀ s : State, ready s = true → s.tb.owed.ao = true →
    let owed : TimeBase := { s.tb with owed := { s.tb.owed with ao := false } }
    (s.ao.engine ≠ .measuring → exec .stall s = .next { s with tb := owed })
    ∧ (s.ao.engine = .measuring → s.ao.stallCount + 1 ≠ 500 →
        exec .stall s = .next { s with tb := owed, ao := { s.ao with stallCount := s.ao.stallCount + 1 } })
    ∧ (s.ao.engine = .measuring → s.ao.stallCount + 1 = 500 →
        exec .stall s
          = .next (offer (.audioState .stall .measuring .stalled s.ao.taken (s.su.openEntry.map (·.entry.id)) s.tb.time)
            { s with
              tb := owed
              ao := { s.ao with stallCount := 500, engine := .stalled, sub := none, history := []
                                filters := Vector.replicate 8 .clear }
              lu := { s.lu with momentary := none, shortTerm := none }
              ag := { s.ag with onCount := 0, offCount := 0, active := false
                                quietStart := if s.ag.active then some s.tb.time else s.ag.quietStart } }))

/-- CONTROL_MASK, LAYOUT_OVERRIDE, FILTER in OFF and ACTIVITY_SET: each replaces its settings together, or is refused with
BAD_VALUE and changes nothing (R28, R65, R69, R85, R174). The model's choice: an item whose code names no LAYOUT_OVERRIDE
operation is taken, and refused, by the row of either operation (log 31). -/
def Obligations.SettingsReplaced : Prop :=
  (∀ (s : State) (it : CmdItem) (rest : List CmdItem), headIs .controlMask it rest s →
     exec .controlMask s = .next (
       if it.arg.getLsbD 15 = true ∨ it.master = 15 ∨ it.arg.getLsbD it.master.toNat = false then
         offer (.commandRefused it.tag 3 it.master 0x018 .badValue) (withQueue rest s)
       else
         offer (.commandDone it.tag 3 it.master 0x018 0)
           { withQueue rest s with cu := { (withQueue rest s).cu with controlMask := it.arg.extractLsb' 0 16 } }))
    ∧ (∀ (s : State) (it : CmdItem) (rest : List CmdItem), headIs .layoutOverride it rest s →
         let op := it.arg.toNat % 2 ^ 8
         let position := it.arg.toNat / 2 ^ 8 % 2 ^ 8
         let weight := it.arg.toNat / 2 ^ 16 % 2 ^ 16
         let done (o : Vector (Option Nat) 8) : State :=
           offer (.commandDone it.tag 11 it.master 0x058 0) { withQueue rest s with lu := { s.lu with overrides := o } }
         let refused : State := offer (.commandRefused it.tag 11 it.master 0x058 .badValue) (withQueue rest s)
         (op = 1 → exec .layoutOverrideSet s = .next (
             if position ≤ 7 ∧ weight ≤ 2000 then done (s.lu.overrides.setIfInBounds position (some weight)) else refused))
         ∧ (op = 2 → exec .layoutOverrideClear s = .next (done (Vector.replicate 8 none)))
         ∧ (op = 0 ∨ 2 < op → exec .layoutOverrideSet s = .next refused ∧ exec .layoutOverrideClear s = .next refused))
    ∧ (∀ (s : State) (it : CmdItem) (rest : List CmdItem), headIs .filter it rest s → s.cu.mode = .off →
         let word (k : Nat) : Beat := it.words.getD k 0
         let stage (lo : Nat) : StageCoeffs :=
           ⟨(word 0).extractLsb' lo 32, (word 1).extractLsb' lo 32, (word 2).extractLsb' lo 32, (word 3).extractLsb' lo 32,
             (word 4).extractLsb' lo 32⟩
         let c : Int := ((word 5).extractLsb' 16 16).toInt
         exec .filter s = .next (
           if -50 ≤ c ∧ c ≤ 50 then
             offer (.commandDone it.tag 34 it.master 0x328 0) { withQueue rest s with
               lu := { s.lu with stage1 := stage 0, stage2 := stage 32, calibration := c } }
           else offer (.commandRefused it.tag 34 it.master 0x328 .badValue) (withQueue rest s)))
    ∧ (∀ (s : State) (it : CmdItem) (rest : List CmdItem), headIs .activitySet it rest s →
         let tOn : Int := (it.arg.extractLsb' 0 16).toInt
         let tOff : Int := (it.arg.extractLsb' 16 16).toInt
         let qOn := (it.arg.extractLsb' 32 8).toNat
         let qOff := (it.arg.extractLsb' 40 8).toNat
         exec .activitySet s = .next (
           if -999 ≤ tOn ∧ tOn ≤ 200 ∧ -999 ≤ tOff ∧ tOff ≤ 200 ∧ tOff < tOn ∧ 1 ≤ qOn ∧ qOn ≤ 50 ∧ 1 ≤ qOff ∧ qOff ≤ 50 then
             offer (.commandDone it.tag 12 it.master 0x060 0) { withQueue rest s with
               ag := { s.ag with onCount := 0, offCount := 0, tOn := tOn, tOff := tOff, qOn := qOn, qOff := qOff } }
           else offer (.commandRefused it.tag 12 it.master 0x060 .badValue) (withQueue rest s)))

/-! ### Loudness arithmetic (R66 to R81) -/

/-- A weighting stage: the exact sum is rounded to the nearest multiple of 2^−31 with ties to the even count and saturated,
the state takes the input and the saturated output, stage 2 takes stage 1's output, and with the coefficients after line
reset the weighted sample is the sample (R66 to R68). -/
def Obligations.WeightingStage : Prop :=
  (∀ (c : StageCoeffs) (st : StageState) (x : Int),
    let sum : Int := c.b0.toInt * x + c.b1.toInt * st.x1 + c.b2.toInt * st.x2 - c.a1.toInt * st.y1 - c.a2.toInt * st.y2
    ∃ n : Int, 2 * (sum - n * 2 ^ 30).natAbs ≤ 2 ^ 30 ∧ (2 * (sum - n * 2 ^ 30).natAbs = 2 ^ 30 → 2 ∣ n)
      ∧ (-2 ^ 34 ≤ n → n ≤ 2 ^ 34 - 1 → stageOut c st x = n ∧ stageSaturates c st x = false)
      ∧ (2 ^ 34 - 1 < n → stageOut c st x = 2 ^ 34 - 1 ∧ stageSaturates c st x = true)
      ∧ (n < -2 ^ 34 → stageOut c st x = -2 ^ 34 ∧ stageSaturates c st x = true)
      ∧ stageNext c st x = { x1 := x, x2 := st.x1, y1 := stageOut c st x, y2 := st.y1 })
    ∧ (∀ (s : State) (c : Nat) (v : Int), c < 8 →
        weightedSample s c v = stageOut s.lu.stage2 (filterOf s.ao c).stage2
          (stageOut s.lu.stage1 (filterOf s.ao c).stage1 (v * 2 ^ 8)))
    ∧ ∀ (st : StageState) (v : Int), -2 ^ 23 ≤ v → v < 2 ^ 23 → stageOut .passThrough st (v * 2 ^ 8) = v * 2 ^ 8

/-- A block mean z = p / q becomes the level whose tenth is nearest to C/10 + 10·log10(z), and a peak magnitude m the tenth
nearest to 20·log10(m / 2^23), both with halves upward and within their ranges; a mean or a magnitude of 0 is −99.9 (R73,
R75). -/
def Obligations.LevelAndPeakRounding : Prop :=
  (∀ (p q : Nat) (c : Int), 0 < q →
     (p = 0 → levelOf p q c = -999)
       ∧ (0 < p → levelOf p q c = max (-999) (min 200 ⌊(c : ℝ) + 100 * Real.logb 10 (p / q) + 1 / 2⌋)))
    ∧ (∀ m : Nat, m ≤ 8388608 →
         (m = 0 → peakOf m = -999)
           ∧ (0 < m → peakOf m = max (-999) ⌊200 * Real.logb 10 ((m : ℝ) / 2 ^ 23) + 1 / 2⌋ ∧ peakOf m ≤ 0))

/-- An attributed short-term level strictly above target plus margin counts as an exceedance; the first of an entry sets its
over mark, offers SHORT_TERM_OVER and asks for a hold over the last 3000 ms if the class's policy includes SHORT_TERM
(R80, R81). -/
def Obligations.CeilingExceeded : Prop :=
  ∀ (s : State) (e : OpenEntry) (level : Int), s.su.openEntry = some e →
    let ceiling := e.entry.target + e.entry.margin
    let count : BitVec 16 := if e.overCount = BitVec.allOnes 16 then e.overCount else e.overCount + 1
    let counted : State := { s with su := { s.su with openEntry := some { e with overCount := count, overMark := true } } }
    let reported := offer (.shortTermOver e.entry.id level ceiling s.tb.time) counted
    (e.entry.margin = 0 ∨ level ≤ ceiling → checkCeiling level s = s)
      ∧ (0 < e.entry.margin → ceiling < level → e.overMark = true → checkCeiling level s = counted)
      ∧ (0 < e.entry.margin → ceiling < level → e.overMark = false →
          checkCeiling level s =
            if policyHolds s e.entry.cls .shortTerm then
              holdRequest ⟨.shortTerm, s.tb.time - 3000, s.tb.time, e.entry.id⟩ reported
            else reported)

/-! ### Activity, dead air and gating (R82 to R97) -/

/-- The activity decision: runs of levels at or above T_on and below T_off are counted and any other level cancels them; the
Q_on-th makes ACTIVE and ends the dead air, with DEAD_AIR_END for an episode that is running, and the Q_off-th makes QUIET
(R83, R88). The model's choice: a quiet start that is absent is reported as the present (log 30). -/
def Obligations.ActivityDecided : Prop :=
  ∀ (s : State) (level : Option Int),
    let counts (on off : Nat) : State := { s with ag := { s.ag with onCount := on, offCount := off } }
    let ended : State := match s.su.openEntry with
      | some e =>
        if 0 < e.entry.deadAirLimit ∧ e.entry.deadAirLimit ≤ s.ag.deadTimer then
          offer (.deadAirEnd e.entry.id (s.ag.quietStart.getD s.tb.time) s.ag.deadTimer s.tb.time) s
        else s
      | none => s
    (level = none → decideActivity level s = counts 0 0)
      ∧ ∀ l, level = some l →
          (s.ag.tOff ≤ l → l < s.ag.tOn → decideActivity level s = counts 0 0)
          ∧ (s.ag.tOn ≤ l → s.ag.active = true → decideActivity level s = counts s.ag.onCount 0)
          ∧ (s.ag.tOn ≤ l → s.ag.active = false → s.ag.onCount + 1 < s.ag.qOn →
              decideActivity level s = counts (s.ag.onCount + 1) 0)
          ∧ (s.ag.tOn ≤ l → s.ag.active = false → s.ag.qOn ≤ s.ag.onCount + 1 →
              decideActivity level s = { ended with ag := { s.ag with
                onCount := 0, offCount := 0, active := true, quietStart := none, deadTimer := 0 } })
          ∧ (l < s.ag.tOff → l < s.ag.tOn → s.ag.active = false → decideActivity level s = counts 0 s.ag.offCount)
          ∧ (l < s.ag.tOff → l < s.ag.tOn → s.ag.active = true → s.ag.offCount + 1 < s.ag.qOff →
              decideActivity level s = counts 0 (s.ag.offCount + 1))
          ∧ (l < s.ag.tOff → l < s.ag.tOn → s.ag.active = true → s.ag.qOff ≤ s.ag.offCount + 1 →
              decideActivity level s = { s with ag := { s.ag with
                onCount := 0, offCount := 0, active := false
                quietStart := if s.su.openEntry.isSome then some s.tb.time else s.ag.quietStart } })

/-- DEAD_AIR: a tick that the unit is owed counts while an entry with a limit is open, activity is QUIET and the engine is
MEASURING or STALLED; the tick that reaches the limit counts an episode, offers DEAD_AIR and asks for the hold over the whole
stretch if the class's policy includes DEAD_AIR (R86, R87). -/
def Obligations.DeadAirTick : Prop :=
  ∀ s : State, ready s = true → s.tb.owed.ag = true →
    let owed : TimeBase := { s.tb with owed := { s.tb.owed with ag := false } }
    let counts (e : OpenEntry) : Prop :=
      0 < e.entry.deadAirLimit ∧ s.ag.active = false ∧ (s.ao.engine = .measuring ∨ s.ao.engine = .stalled)
    ((∀ e, s.su.openEntry = some e → ¬ counts e) → exec .deadAir s = .next { s with tb := owed })
      ∧ ∀ e, s.su.openEntry = some e → counts e →
          (s.ag.deadTimer = 2147483647 → e.entry.deadAirLimit < 2147483647 → exec .deadAir s = .next { s with tb := owed })
          ∧ (s.ag.deadTimer < 2147483647 → s.ag.deadTimer + 1 ≠ e.entry.deadAirLimit →
              exec .deadAir s = .next { s with tb := owed, ag := { s.ag with deadTimer := s.ag.deadTimer + 1 } })
          ∧ ∀ quiet, s.ag.quietStart = some quiet → s.ag.deadTimer + 1 = e.entry.deadAirLimit →
              s.ag.deadTimer < 2147483647 →
              let count : BitVec 16 := if e.deadAirCount = BitVec.allOnes 16 then e.deadAirCount else e.deadAirCount + 1
              let reported := offer (.deadAir e.entry.id quiet e.entry.deadAirLimit s.tb.time) { s with
                tb := owed
                ag := { s.ag with deadTimer := s.ag.deadTimer + 1 }
                su := { s.su with openEntry := some { e with deadAirCount := count } } }
              exec .deadAir s = .next (
                if policyHolds s e.entry.cls .deadAir then
                  holdRequest ⟨.deadAir, quiet, s.tb.time, e.entry.id⟩ reported
                else reported)

/-- Gating: an attributed level of −69.9 or more adds 1 to its bin of the open entry's bank and to the running sums, bins
above +10.0 sharing the last one; with no bank or a full bin it is missed and sets PARTIAL; any other level counts nowhere
(R89, R92, R93). -/
def Obligations.BlockGated : Prop :=
  ∀ (s : State) (e : OpenEntry) (level : Option Int) (attributed : Bool), s.su.openEntry = some e →
    (∀ bank, Histogram.wf (bankOf s.ag bank).counts = true) → Histogram.wf s.ag.sumS = true →
    let count : BitVec 32 := if e.missed = BitVec.allOnes 32 then e.missed else e.missed + 1
    let missed : State :=
      { s with su := { s.su with openEntry := some { e with isPartial := true, missed := count } } }
    (level = none ∨ attributed = false ∨ (∃ l, level = some l ∧ l < -699) → gateBlock level attributed s = s)
      ∧ ∀ l, level = some l → attributed = true → -699 ≤ l →
          let bin : Nat := if l ≤ 100 then (l + 699).toNat else 799
          (e.bank = none → gateBlock level attributed s = missed)
          ∧ ∀ bank, e.bank = some bank →
              (16777215 ≤ binCount (bankOf s.ag bank).counts bin → gateBlock level attributed s = missed)
              ∧ (binCount (bankOf s.ag bank).counts bin < 16777215 →
                  ∃ ag, gateBlock level attributed s = { s with ag := ag }
                    ∧ ag = { setBank bank (bankOf ag bank) s.ag with sumN := s.ag.sumN + 1, sumS := ag.sumS }
                    ∧ (bankOf ag bank).state = (bankOf s.ag bank).state
                    ∧ ∀ b, binCount (bankOf ag bank).counts b
                          = binCount (bankOf s.ag bank).counts b + (if b = bin then 1 else 0)
                        ∧ binCount ag.sumS b = binCount s.ag.sumS b + (if b = bin then 1 else 0))

/-- The level of the mean energy of a histogram's blocks, at 10^(L_b / 10) for bin level L_b = b − 699 tenths, to the
nearest tenth with halves upward; the precision at which the model decides, which is its choice (log 27), is enough where
the sum stays clear of every halfway point by a part in 2^32000. A scan's two values: none for no counted block; otherwise U
of all counts and I of the bins strictly above U − 100, of which there is at least one. The running value is none before the
first counted block, and otherwise the level of the open entry's counts (R92, R95). -/
def Obligations.ScanValuesRounded : Prop :=
  (∀ h : Histogram, Histogram.wf h = true → binTotal h ≠ 0 →
     let total : ℝ := binTotal h
     let sum : ℝ := (h.map fun x => (x.2 : ℝ) * (10 : ℝ) ^ (((x.1 : ℝ) - 699) / 100)).sum
     (∀ k : ℤ, total * (2 : ℝ) ^ (-32000 : ℤ) ≤ |sum / (10 : ℝ) ^ (-699 / 100 : ℝ)
         - total * (10 : ℝ) ^ ((2 * (k : ℝ) - 1) / 200)|) →
     histogramLevel h = some ⌊100 * Real.logb 10 (sum / total) + 1 / 2⌋)
    ∧ (∀ h : Histogram, Histogram.wf h = true →
         (binTotal h = 0 → scanValues h = (none, none))
           ∧ ∀ u, histogramLevel h = some u →
               scanValues h = (some u, histogramLevel (h.filter fun x => decide (u - 100 < (x.1 : Int) - 699)))
               ∧ ∃ i, (scanValues h).2 = some i)
    ∧ ∀ s : State, BanksOk s →
        runningValue s = (if s.ag.sumN = 0 then none else histogramLevel s.ag.sumS)
        ∧ (∀ bank, openBank s = some bank → runningValue s = (scanValues (bankOf s.ag bank).counts).1)
        ∧ (openBank s = none → runningValue s = none)

/-- SCAN_COMPLETION: the verdict of the slot's record is built with the scan's values, the bank is cleared and FREE and the
slot empty, and an unbanked open entry takes the bank at once (R96). -/
def Obligations.ScanCompletes : Prop :=
  ∀ (s : State) (bank : Bank) (slot : ClosingSlot), ready s = true → slotOf s.su bank = some slot →
    let values := scanValues (bankOf s.ag bank).counts
    let v := buildVerdict slot.closed values.1 values.2 s
    let freed : State := { v with su := setSlot bank none v.su, ag := setBank bank ⟨.free, []⟩ s.ag }
    (∀ e, s.su.openEntry = some e → e.bank ≠ none) ∧ exec (.scanCompletion bank) s = .next freed
      ∨ ∃ e e', s.su.openEntry = some e ∧ e.bank = none ∧ v.su.openEntry = some e'
          ∧ exec (.scanCompletion bank) s = .next { freed with
              su := { freed.su with openEntry := some { e' with bank := some bank } }
              ag := setBank bank ⟨.collecting, []⟩ s.ag }

/-! ### Caption presence (R98 to R113) -/

/-- CAPTION_BEAT in WAIT_HEADER: a beat with no byte enabled is passed over; a whole beat with a length of 16 to 1024 in
eights, a kind, a service and at most 500 characters begins a unit; any other beat is malformed and is counted. In
COLLECTING, a partial beat or one away from the expected address tears the unit, which is counted, the first tear of an entry
being reported, and the beat is then taken as the first beat of a header (R100 to R102, R106). -/
def Obligations.CaptionHeaderAndTear : Prop :=
  (∀ (s : State) (offset : Nat) (b : WBeat) (rest : List CaptionBeat), ready s = true →
     s.ca.inbox = ⟨offset, b⟩ :: rest →
     let length := (b.data.extractLsb' 0 16).toNat
     let code := (b.data.extractLsb' 16 8).toNat
     let service := (b.data.extractLsb' 24 6).toNat
     let chars := (b.data.extractLsb' 32 16).toNat
     let malformed : Prop := b.enables ≠ 0xFF ∨ length < 16 ∨ 1024 < length ∨ ¬ 8 ∣ length ∨ code = 0 ∨ 3 < code ∨ service = 0
       ∨ 500 < chars
     let count (e : OpenEntry) : BitVec 16 := if e.malformed = BitVec.allOnes 16 then e.malformed else e.malformed + 1
     (b.enables = 0 → exec .captionBeat s = .next { s with ca := { s.ca with inbox := rest } })
       ∧ (s.ca.collecting = false → b.enables ≠ 0 → malformed →
           exec .captionBeat s = .next { s with
             ca := { s.ca with inbox := rest }
             su := { s.su with openEntry := s.su.openEntry.map fun e => { e with malformed := count e } } })
       ∧ (s.ca.collecting = false → ¬ malformed →
           ∃ kind, (kind, code) ∈ [(CaptionKind.text, 1), (.clear, 2), (.style, 3)]
             ∧ exec .captionBeat s = .next { s with ca := { s.ca with
                 inbox := rest, collecting := true, expected := some (offset + 8)
                 shadow := some ⟨offset, length, kind, service, chars, none, 1⟩ } }))
    ∧ (∀ (s : State) (offset : Nat) (b : WBeat) (rest : List CaptionBeat) (u : UnitShadow) (e : OpenEntry), ready s = true →
         s.ca.inbox = ⟨offset, b⟩ :: rest → s.ca.collecting = true → s.ca.shadow = some u → b.enables ≠ 0 →
         b.enables ≠ 0xFF ∨ s.ca.expected ≠ some offset → s.su.openEntry = some e →
         let count : BitVec 16 := if e.tornCount = BitVec.allOnes 16 then e.tornCount else e.tornCount + 1
         let torn : State := { s with
           ca := { s.ca with collecting := false, shadow := none, expected := none }
           su := { s.su with openEntry := some { e with tornCount := count, tornMark := true } } }
         exec .captionBeat s = exec .captionBeat
           (if e.tornMark then torn else offer (.captionTorn e.entry.id u offset s.tb.time) torn))

/-- CAPTION_BEAT in COLLECTING, whole and at the expected address: the unit grows, its second beat gives the decoder time,
and when it is complete it is judged: a TEXT unit with characters on the entry's service ends a running gap with
CAPTION_GAP_END, restarts the gap timer and is counted; a unit of another service is counted as such (R103 to R105, R110).
The model's choice: the CAPTION_GAP_END of a unit without a decoder time carries a free value (log 39). -/
def Obligations.CaptionUnitCollected : Prop :=
  ∀ (s : State) (offset : Nat) (data : Beat) (rest : List CaptionBeat) (u : UnitShadow) (e : OpenEntry), ready s = true →
    s.ca.inbox = ⟨offset, ⟨data, 0xFF⟩⟩ :: rest → s.ca.collecting = true → s.ca.shadow = some u →
    s.ca.expected = some offset → s.su.openEntry = some e →
    let stamp := if u.collected = 1 then some (data.extractLsb' 0 32) else u.decoderTime
    let waiting : Caption := { s.ca with inbox := rest, collecting := false, shadow := none, expected := none }
    let inc (n : BitVec 16) : BitVec 16 := if n = BitVec.allOnes 16 then n else n + 1
    let start : Time := match s.ca.lastQualifying with
      | none => e.actualStart
      | some t => if 0 < (t - e.actualStart).toInt then t else e.actualStart
    let gap : Prop := e.entry.required = true ∧ e.entry.gapLimit ≤ s.ca.gapTimer
    let qualified : State := { s with
      ca := { waiting with gapTimer := 0, lastQualifying := some s.tb.time }
      su := { s.su with openEntry := some { e with unitCount := inc e.unitCount } } }
    (u.collected + 1 < u.length / 8 →
        exec .captionBeat s = .next { s with ca := { s.ca with
          inbox := rest, expected := some (offset + 8)
          shadow := some { u with collected := u.collected + 1, decoderTime := stamp } } })
      ∧ (u.length / 8 ≤ u.collected + 1 →
          (u.kind = .text → 1 ≤ u.chars → u.service = e.entry.service → ¬ gap → exec .captionBeat s = .next qualified)
          ∧ (u.kind = .text → 1 ≤ u.chars → u.service = e.entry.service → gap →
              exec .captionBeat s = .next
                (offer (.captionGapEnd e.entry.id start s.ca.gapTimer s.tb.time (stamp.getD Config.absentStamp)) qualified))
          ∧ (u.service ≠ e.entry.service →
              exec .captionBeat s = .next { s with
                ca := waiting, su := { s.su with openEntry := some { e with otherService := inc e.otherService } } })
          ∧ (u.service = e.entry.service → u.kind ≠ .text ∨ u.chars = 0 →
              exec .captionBeat s = .next { s with ca := waiting }))

/-- CAPTION_GAP: a tick that the caption unit is owed runs while a REQUIRED entry is open, activity is ACTIVE and a CAPTION
window is present: it adds to active ms, to covered ms below the gap limit, and to the timer; the tick that reaches the limit
counts an episode, offers CAPTION_GAP and asks for the hold from the gap start if the class's policy includes CAPTION (R107
to R109). -/
def Obligations.CaptionGapTick : Prop :=
  ∀ s : State, ready s = true → s.tb.owed.ca = true →
    let owed : TimeBase := { s.tb with owed := { s.tb.owed with ca := false } }
    let runs (e : OpenEntry) : Prop := e.entry.required = true ∧ s.ag.active = true ∧ s.ca.windowPresent = true
    let inc (n : Nat) : Nat := if n < 2147483647 then n + 1 else n
    let ticked : State := { s with tb := owed, ca := { s.ca with gapTimer := inc s.ca.gapTimer } }
    ((∀ e, s.su.openEntry = some e → ¬ runs e) → exec .captionGap s = .next { s with tb := owed })
      ∧ ∀ e, s.su.openEntry = some e → runs e →
          let e' : OpenEntry := { e with
            activeMs := inc e.activeMs
            coveredMs := if s.ca.gapTimer < e.entry.gapLimit then inc e.coveredMs else e.coveredMs }
          let start : Time := match s.ca.lastQualifying with
            | none => e.actualStart
            | some t => if 0 < (t - e.actualStart).toInt then t else e.actualStart
          (s.ca.gapTimer + 1 ≠ e.entry.gapLimit →
              exec .captionGap s = .next { ticked with su := { s.su with openEntry := some e' } })
          ∧ (s.ca.gapTimer + 1 = e.entry.gapLimit → e.entry.gapLimit ≤ 600000 →
              let count : BitVec 16 := if e.gapCount = BitVec.allOnes 16 then e.gapCount else e.gapCount + 1
              let reported := offer (.captionGap e.entry.id e.entry.service start e.entry.gapLimit s.tb.time)
                { ticked with su := { s.su with openEntry := some { e' with gapCount := count } } }
              exec .captionGap s = .next (
                if policyHolds s e.entry.cls .caption then holdRequest ⟨.caption, start, s.tb.time, e.entry.id⟩ reported
                else reported))

/-! ### The compliance schedule (R114 to R135) -/

/-- START_COMPARE: a firing opens the head with the compare time and cause COMPARE; without one nothing happens. CUE: the
oldest cue opens a head whose start less the captured time is no more than the early window, with the captured time, or the
actual start of the entry it closes when the captured time is earlier; any other cue is stray, and is counted and reported.
After an opening the heads that are due at once open in the same event. REPLAY_CUE in REPLAY: a cue captured at the present,
judged like any other, and done even when it is stray (R42, R86, R118, R121 to R123, R125 to R127, R129). The model's
choices: an opening by cue in QUIET takes the station time of the event, not the captured time, as the quiet start (log 19),
a scan begun in REPLAY is bounded by the divisor at the close (log 9), and a next head whose start lies exactly 2^31 ms
ahead of the present counts as reached and opens at once (log 24). -/
def Obligations.HeadOpens : Prop :=
  (∀ s : State, ready s = true →
     (s.tb.firing = none → exec .startCompare s = .next s)
     ∧ ∀ v old e rest, s.tb.firing = some v → s.su.openEntry = some old → s.su.queue = e :: rest →
         ∃ u t, exec .startCompare s = .next t ∧ HeadOpened s u old e rest v .compare false ∧ HeadsOpenOn false u t
           ∧ (staysPending s.tb.time rest → t = u))
    ∧ (∀ (s : State) (captured : Time) (cues : List Time), ready s = true → s.tb.cues = captured :: cues →
         let taken : State := { s with tb := { s.tb with cues := cues } }
         let count : BitVec 32 := if s.su.strayCues = BitVec.allOnes 32 then s.su.strayCues else s.su.strayCues + 1
         let stray : State := offer (.strayCue captured (s.su.queue.head?.map fun e => (e.id, e.start)) s.tb.earlyWindow count)
           { taken with su := { s.su with strayCues := count } }
         (s.su.queue = [] → exec .cue s = .next stray)
           ∧ ∀ e rest, s.su.queue = e :: rest →
               ((s.tb.earlyWindow : Int) < (e.start - captured).toInt → exec .cue s = .next stray)
               ∧ ∀ old, (e.start - captured).toInt ≤ s.tb.earlyWindow → s.su.openEntry = some old →
                   let start : Time := if (captured - old.actualStart).toInt < 0 then old.actualStart else captured
                   ∃ u t, exec .cue s = .next t
                     ∧ HeadOpened taken u old e rest start .cue (decide ((start - e.start).toInt < 0))
                     ∧ HeadsOpenOn false u t ∧ (staysPending s.tb.time rest → t = u))
    ∧ (∀ (s : State) (it : CmdItem) (rest : List CmdItem), headIs .replayCue it rest s → s.cu.mode = .replay →
         s.tb.cues = [] →
         exec .replayCue s = .next (offer (.commandDone it.tag 9 it.master 0x048 0) (judgeCue s.tb.time (withQueue rest s)))
           ∧ exec .cue { withQueue rest s with tb := { s.tb with cues := [s.tb.time] } }
             = .next (judgeCue s.tb.time (withQueue rest s)))

/-- ENTRY: the fields of the staged words (R173, section 11.3), and the checks of R116 in their order, with the ranges of
R115. A passed entry joins the tail of the pending queue with LATE_COMMIT set when the part observes and its start has been
reached; a new head in LIVE and REPLAY loads the start compare, and opens at once by late commit. CANCEL_FROM removes the
named pending entry and every entry after it, with their number as its count, and when the head goes it empties the start
compare, so that a firing not yet taken opens nothing (R42, R115 to R118, R124, R125). The model's choices: a start exactly
2^31 ms ahead counts as reached (log 24), and a scan begun in REPLAY is bounded by the divisor at the close (log 9). -/
def Obligations.EntriesQueued : Prop :=
  (∀ (s : State) (it : CmdItem) (rest : List CmdItem), headIs .entry it rest s →
     let word (k : Nat) : Beat := it.words.getD k 0
     let id : EntryId := (word 0).extractLsb' 0 16
     let start : Time := (word 1).extractLsb' 0 32
     let target : Int := ((word 2).extractLsb' 0 16).toInt
     let inRange : Prop := id ≠ 0 ∧ (word 0).extractLsb' 16 8 ≤ 3 ∧ (word 0).extractLsb' 24 8 ≤ 1
       ∧ 1 ≤ (word 0).extractLsb' 32 8 ∧ (word 0).extractLsb' 32 8 ≤ 63 ∧ -600 ≤ target ∧ target ≤ 0
       ∧ (word 2).extractLsb' 16 16 ≤ 100 ∧ (word 2).extractLsb' 32 16 ≤ 100 ∧ (word 2).extractLsb' 48 16 ≤ 1000
       ∧ 1 ≤ (word 3).extractLsb' 0 32 ∧ (word 3).extractLsb' 0 32 ≤ 600000 ∧ (word 4).extractLsb' 0 32 ≤ 600000
     let taken : Prop := (∃ e ∈ s.su.queue, e.id = id) ∨ ∃ e, s.su.openEntry = some e ∧ e.entry.id = id
     let early : Prop :=
       (∃ e, s.su.queue.getLast? = some e ∧ (start - e.start).toInt < 1000)
         ∨ (s.su.queue = [] ∧ ∃ e, s.su.openEntry = some e ∧ (start - e.actualStart).toInt < 1000)
     let refused (reason : Reason) : Prop :=
       exec .entry s = .next (offer (.commandRefused it.tag 33 it.master 0x238 reason) (withQueue rest s))
     (¬ inRange → refused .badValue)
       ∧ (inRange → taken → refused .duplicateId)
       ∧ (inRange → ¬ taken → 32 ≤ s.su.queue.length → refused .queueFull)
       ∧ (inRange → ¬ taken → s.su.queue.length < 32 → early → refused .order)
       ∧ (inRange → ¬ taken → s.su.queue.length < 32 → ¬ early →
           ∀ cls, (cls, (word 0).extractLsb' 16 8)
               ∈ [(EntryClass.programme, (0 : BitVec 8)), (.advert, 1), (.promo, 2), (.live, 3)] →
             let e : Entry :=
               { id := id, cls := cls, start := start, target := target
                 tolerance := ((word 2).extractLsb' 16 16).toNat, margin := ((word 2).extractLsb' 32 16).toNat
                 required := (word 0).extractLsb' 24 8 = 1, service := ((word 0).extractLsb' 32 8).toNat
                 gapLimit := ((word 3).extractLsb' 0 32).toNat, permille := ((word 2).extractLsb' 48 16).toNat
                 deadAirLimit := ((word 4).extractLsb' 0 32).toNat, lateCommit := false }
             exec .entry s
               = .next (offer (.commandDone it.tag 33 it.master 0x238 0) (commitEntry e (withQueue rest s)))))
    ∧ (∀ (s : State) (e : Entry),
         let late : Bool := s.cu.mode != .off && decide ((e.start - s.tb.time).toInt ≤ 0)
         let e' : Entry := { e with lateCommit := late }
         let appended : State := { s with su := { s.su with queue := s.su.queue ++ [e'] } }
         (s.su.queue ≠ [] ∨ s.cu.mode = .off → commitEntry e s = appended)
           ∧ (s.su.queue = [] → s.cu.mode ≠ .off → late = false →
               commitEntry e s = { appended with tb := { s.tb with compare := some e.start, firing := none } })
           ∧ ∀ old, s.su.queue = [] → late = true → s.su.openEntry = some old →
               HeadOpened s (commitEntry e s) old e' [] s.tb.time .lateCommit false)
    ∧ (∀ (s : State) (it : CmdItem) (rest : List CmdItem), headIs .cancelFrom it rest s →
         let id : EntryId := it.arg.extractLsb' 0 16
         ((∀ e ∈ s.su.queue, e.id ≠ id) →
             exec .cancelFrom s = .next (offer (.commandRefused it.tag 8 it.master 0x040 .notPending) (withQueue rest s)))
           ∧ ∀ kept e removed, s.su.queue = kept ++ e :: removed → e.id = id → (∀ k ∈ kept, k.id ≠ id) →
               exec .cancelFrom s = .next (offer (.commandDone it.tag 8 it.master 0x040 (removed.length + 1))
                 { withQueue rest s with
                   su := { s.su with queue := kept }
                   tb := if kept = [] then { s.tb with compare := none, firing := none } else s.tb }))

/-- HOLD_POLICY replaces the line of one class. DEFAULT_ENTRY replaces the fields of the part it names and keeps the others; a
field out of range or a code that names no class or part is refused (R119, R120, R174). The model's choice: an item whose code
names no part is taken, and refused, by the row of any part (log 31). -/
def Obligations.PolicyAndDefaults : Prop :=
  (∀ (s : State) (it : CmdItem) (rest : List CmdItem), headIs .holdPolicy it rest s →
     let code := it.arg.toNat % 2 ^ 8
     (3 < code → exec .holdPolicy s
         = .next (offer (.commandRefused it.tag 10 it.master 0x050 .badValue) (withQueue rest s)))
       ∧ (code ≤ 3 →
           let line : BitVec 4 := it.arg.extractLsb' 8 4
           ∃ t, exec .holdPolicy s = .next (offer (.commandDone it.tag 10 it.master 0x050 0) t)
             ∧ t = { withQueue rest s with su := { s.su with policy := s.su.policy.setIfInBounds code line } }
             ∧ (∀ cls reason, reason ≠ .manual →
                 policyHolds t cls reason = if cls.code = code then line.getLsbD reason.code else policyHolds s cls reason)))
    ∧ (∀ (s : State) (it : CmdItem) (rest : List CmdItem), headIs .defaultEntry it rest s →
         let a := it.arg
         let part := (a.extractLsb' 0 8).toNat
         let target : Int := (a.extractLsb' 8 16).toInt
         let tolerance := (a.extractLsb' 24 8).toNat
         let margin := (a.extractLsb' 32 8).toNat
         let obligation := (a.extractLsb' 8 4).toNat
         let service := (a.extractLsb' 12 6).toNat
         let permille := (a.extractLsb' 18 10).toNat
         let gapLimit := (a.extractLsb' 28 20).toNat
         let limit := (a.extractLsb' 8 20).toNat
         let d := s.su.defaults
         let done (d : DefaultEntry) : State :=
           offer (.commandDone it.tag 13 it.master 0x068 0) { withQueue rest s with su := { s.su with defaults := d } }
         let refused : State := offer (.commandRefused it.tag 13 it.master 0x068 .badValue) (withQueue rest s)
         (part = 1 → exec .defaultEntryLoudness s = .next (
             if -600 ≤ target ∧ target ≤ 0 ∧ tolerance ≤ 100 ∧ margin ≤ 100 then
               done { d with target := target, tolerance := tolerance, margin := margin }
             else refused))
         ∧ (part = 2 → exec .defaultEntryCaption s = .next (
             if obligation ≤ 1 ∧ 1 ≤ service ∧ service ≤ 63 ∧ permille ≤ 1000 ∧ 1 ≤ gapLimit ∧ gapLimit ≤ 600000 then
               done { d with required := obligation == 1, service := service, permille := permille, gapLimit := gapLimit }
             else refused))
         ∧ (part = 3 → exec .defaultEntryDeadAir s = .next (
             if limit ≤ 600000 then done { d with deadAirLimit := limit } else refused))
         ∧ (part = 0 ∨ 3 < part → exec .defaultEntryLoudness s = .next refused ∧ exec .defaultEntryCaption s = .next refused
             ∧ exec .defaultEntryDeadAir s = .next refused))

/-- A close bounds the record by its duration, which is the actual end less the actual start. The verdict's coverage is 1000
with no active ms and otherwise the covered permille rounded down, at most 1000; its caption outcome follows the obligation,
the window at the opening and the required permille, in that order; its loudness outcome is that of R132 (R111 to R113, R129,
R132). -/
def Obligations.OutcomesDecided : Prop :=
  (∀ (e : OpenEntry) (actualEnd : Time) (aborted : Bool), 0 ≤ (actualEnd - e.actualStart).toInt →
     let c := closedOf e actualEnd aborted
     let r := c.record
     (c.duration : Int) = (actualEnd - e.actualStart).toInt ∧ c.actualEnd = actualEnd ∧ c.aborted = aborted
       ∧ r = { e with activeMs := r.activeMs, coveredMs := r.coveredMs, measuredMs := r.measuredMs
                      unmeasuredMs := r.unmeasuredMs }
       ∧ r.activeMs = min e.activeMs c.duration ∧ r.coveredMs = min e.coveredMs r.activeMs
       ∧ r.measuredMs.toNat = min e.measuredMs.toNat c.duration
       ∧ r.unmeasuredMs.toNat = min e.unmeasuredMs.toNat (c.duration - r.measuredMs.toNat))
    ∧ (∀ (c : ClosedEntry) (ungated integrated : Option Int),
         let e := c.record
         let v := verdictOf c ungated integrated
         (e.activeMs = 0 → v.coverage = 1000)
           ∧ (0 < e.activeMs → v.coverage * e.activeMs ≤ e.coveredMs * 1000
               ∧ e.coveredMs * 1000 < (v.coverage + 1) * e.activeMs)
           ∧ (e.coveredMs ≤ e.activeMs → v.coverage ≤ 1000)
           ∧ (e.entry.required = false → v.caption = .notRequired)
           ∧ (e.entry.required = true → e.captionPresent = false → v.caption = .unchecked)
           ∧ (e.entry.required = true → e.captionPresent = true →
               v.caption = if e.entry.permille ≤ v.coverage then .pass else .fail))
    ∧ (∀ (c : ClosedEntry) (ungated integrated : Option Int),
         let v := verdictOf c ungated integrated
         let e := c.record.entry
         let half : Prop := c.record.measuredMs.toNat * 2 < c.duration
         (integrated = none ∨ half → v.loudness = .undetermined)
           ∧ ∀ i, integrated = some i → ¬ half →
               (|i - e.target| ≤ e.tolerance → v.loudness = .pass)
               ∧ (e.tolerance < |i - e.target| → e.target < i → v.loudness = .failHigh)
               ∧ (e.tolerance < |i - e.target| → i < e.target → v.loudness = .failLow))

/-- A verdict carries the closed record, I and U as it was given them, the short-term and dead-air outcomes, and the maximum
sample peak and its channel; the LOUDNESS hold is asked for before the verdict is offered when the outcome fails, the
class's policy includes it and the entry is not of a REPLAY, and VERDICT_FAIL is set by a verdict with a failure (R76, R130,
R131, R133, R134). -/
def Obligations.VerdictBuilt : Prop :=
  ∀ (s : State) (c : ClosedEntry) (ungated integrated : Option Int),
    let v := verdictOf c ungated integrated
    let e := c.record
    let asks : Prop := (v.loudness = .failHigh ∨ v.loudness = .failLow) ∧ policyHolds s e.entry.cls .loudness = true
      ∧ e.replay = false
    let hold : HoldRequest := ⟨.loudness, e.actualStart, c.actualEnd, e.entry.id⟩
    let marked : Bool := e.evidenceIncomplete || requestIncomplete hold s
    let v' : Verdict := { v with closed := { c with record := { e with evidenceIncomplete := marked } } }
    v.closed = c ∧ v.integrated = integrated ∧ v.ungated = ungated
      ∧ v.shortTerm = (if e.entry.margin = 0 ∨ e.maxShortTerm = none then .notChecked
          else if 1 ≤ e.overCount then .fail else .pass)
      ∧ v.deadAir = (if e.entry.deadAirLimit = 0 then .notChecked else if 1 ≤ e.deadAirCount then .fail else .pass)
      ∧ (e.subBlocks = 0 → v.samplePeak = none ∧ v.peakChannel = 0)
      ∧ (e.subBlocks ≠ 0 → ∃ (c : Nat) (hc : c < 8), v.peakChannel = c ∧ v.samplePeak = some (peakOf e.peaks[c])
          ∧ (∀ (k : Nat) (hk : k < 8), e.peaks[k] ≤ e.peaks[c]) ∧ ∀ (k : Nat) (hk : k < c), e.peaks[k] < e.peaks[c])
      ∧ (¬ asks → buildVerdict c ungated integrated s = offer (.verdict v) s)
      ∧ (asks → buildVerdict c ungated integrated s = offer (.verdict v') (holdRequest hold s))
      ∧ ∀ ru : Reports, flagSet (noteOffer (.verdict v) ru) .verdictFail = true ↔
          flagSet ru .verdictFail = true ∨ v.loudness = .failHigh ∨ v.loudness = .failLow ∨ v.shortTerm = .fail
            ∨ v.caption = .fail ∨ v.deadAir = .fail

/-! ### The off-air recording ring (R136 to R156) -/

/-- PASS_THROUGH_REQUEST into a RECORD window with a touched segment that is HELD or EXPORT: the write is acknowledged and
not forwarded, the slot's count and each such segment's count go up, no other segment changes, no ACCESS_BLOCKED is offered,
and each such segment that has not reported in this stay offers RECORD_BLOCKED (R10, R139, R140). The model's choice: of two
such segments the lower index reports first (log 37). -/
def Obligations.HeldSegmentsBlockWrites : Prop :=
  ∀ (s : State) (r : Request) (slot : Nat) (w : Window), ready s = true → r.wf = true → RecorderOk s →
    judge s r = .checkSegments slot w → slot < 8 →
    let touched (i : Nat) : Prop := ∃ k < r.access.length, (r.addr + 8 * k - w.base) / (w.segSize * 2 ^ 20) = i
    let kept (g : Segment) : Prop := g.state = .held ∨ g.state = .exporting
    (∃ g ∈ s.rc.table, touched g.index ∧ kept g) →
    ∃ t : State, exec (.passThroughRequest r) s = .next t
      ∧ t = { s with mp := t.mp, rc := t.rc, ru := t.ru }
      ∧ t.mp = { s.mp with
          blocked := s.mp.blocked.setIfInBounds slot (satAdd (blockedCount s.mp slot) 1)
          txns := s.mp.txns ++ [⟨s.mp.nextTxn, r, .answered .ack⟩]
          nextTxn := s.mp.nextTxn + 1 }
      ∧ t.rc.pendingExport = s.rc.pendingExport ∧ t.rc.table.length = s.rc.table.length
      ∧ (∀ (i : Nat) (g : Segment), s.rc.table[i]? = some g →
          (touched i ∧ kept g → t.rc.table[i]? = some { g with blocked := satAdd g.blocked 1, blockedMark := true })
          ∧ (¬ (touched i ∧ kept g) → t.rc.table[i]? = some g))
      ∧ ((∀ g ∈ s.rc.table, touched g.index → kept g → g.blockedMark = true) → t.ru = s.ru)
      ∧ (∀ g ∈ s.rc.table, touched g.index → kept g → g.blockedMark = false →
          (∀ h ∈ s.rc.table, touched h.index → kept h → h = g) →
          t.ru = takeOffer (.recordBlocked { g with blocked := satAdd g.blocked 1, blockedMark := true } r.master r.addr
            s.tb.time (s.su.openEntry.map (·.entry.id))) s.tb.time s.ru)
      ∧ (let told (g : Segment) (ru : Reports) : Reports :=
          if g.blockedMark then ru
          else takeOffer (.recordBlocked { g with blocked := satAdd g.blocked 1, blockedMark := true } r.master r.addr
            s.tb.time (s.su.openEntry.map (·.entry.id))) s.tb.time ru
        ∀ g ∈ s.rc.table, ∀ h ∈ s.rc.table, touched g.index → kept g → touched h.index → kept h → g.index < h.index →
          (∀ k ∈ s.rc.table, touched k.index → kept k → k = g ∨ k = h) → t.ru = told h (told g s.ru))

/-- PASS_THROUGH_REQUEST into a RECORD window that the recorder passes: it is forwarded; outside LIVE, from another master or
with no enabled byte it changes no record; a capture write landing in the FILLING segment adds its bytes there; one landing
elsewhere closes the FILLING segment and begins filling the landing segment with the open entry's id (R141, R142). -/
def Obligations.CaptureWrites : Prop :=
  ∀ (s : State) (r : Request) (beats : List WBeat) (slot : Nat) (w : Window), ready s = true → r.wf = true → RecorderOk s →
    judge s r = .checkSegments slot w → r.access = .write beats →
    let segment (k : Nat) : Nat := (r.addr + 8 * k - w.base) / (w.segSize * 2 ^ 20)
    let bytes (i : Nat) : Nat :=
      (beats.zipIdx.map fun b => if segment b.2 = i then (List.range 8).countP (b.1.enables.getLsbD ·) else 0).sum
    let landing := segment (beats.length - 1)
    let forwarded (t : State) : State := { t with mp := { s.mp with
      txns := s.mp.txns ++ [⟨s.mp.nextTxn, r, .waiting⟩], nextTxn := s.mp.nextTxn + 1 } }
    let captures : Prop := s.cu.mode = .live ∧ r.master = w.feeding ∧ ∃ b ∈ beats, b.enables ≠ 0
    let add (g : Segment) : Segment := { g with bytes := satAdd g.bytes (bytes g.index) }
    (∀ k < beats.length, ∀ g, s.rc.table[segment k]? = some g → g.state ≠ .held ∧ g.state ≠ .exporting) →
    (¬ captures → exec (.passThroughRequest r) s = .next (forwarded s))
      ∧ ∀ g, captures → s.rc.table[landing]? = some g →
          (g.state = .filling → exec (.passThroughRequest r) s
            = .next (forwarded { s with rc := { s.rc with table := s.rc.table.set landing (add g) } }))
          ∧ (g.state ≠ .filling →
              let began : Segment := { freeSegment landing with
                state := .filling, start := some s.tb.time, bytes := satAdd 0 (bytes landing)
                entries := (s.su.openEntry.map (·.entry.id)).toList }
              (∀ f ∈ s.rc.table, f.state ≠ .filling) → exec (.passThroughRequest r) s
                = .next (forwarded { s with rc := { s.rc with table := s.rc.table.set landing began } }))
          ∧ (g.state ≠ .filling →
              let began : Segment := { freeSegment landing with
                state := .filling, start := some s.tb.time, bytes := satAdd 0 (bytes landing)
                entries := (s.su.openEntry.map (·.entry.id)).toList }
              ∀ f ∈ s.rc.table, f.state = .filling →
                let closed := closeFilling (add f) s
                exec (.passThroughRequest r) s
                  = .next (forwarded { closed with rc := { closed.rc with table := closed.rc.table.set landing began } }))

/-- The close of the FILLING segment: its end is the present, its new state follows its reasons, the pending export and the
room of R138, reasons that find no room are cleared and denied, and a pending export is granted or denied. In LIVE it takes
the id of an entry that opens, up to four with a mark for more, and the highest short-term level; in OFF and REPLAY it does
not change (R143, R144, R153). -/
def Obligations.FillingSegment : Prop :=
  (∀ (s : State) (g : Segment), g.state = .filling → g.index < s.rc.table.length →
     let room : Prop := holdCount s.rc.table < s.rc.table.length - 2
     let named : Prop := ∃ p, s.rc.pendingExport = some p ∧ p.segment = g.index
     let ended (state : SegState) (reasons : ReasonSet) (before : Option Bool) : Segment :=
       { g with state := state, finish := some s.tb.time, reasons := reasons, blockedMark := false, beforeExportHeld := before }
     let after (h : Segment) (pending : Option PendingExport) : State :=
       { s with rc := ⟨s.rc.table.set g.index h, pending⟩ }
     let count (h : Segment) : Nat := holdCount (s.rc.table.set g.index h)
     let shut (h : Segment) (cleared : ReasonSet) (t : State) : State := offer (.segmentClosed h cleared (count h)) t
     let plain := ended .closed 0 none
     let held := ended .held g.reasons none
     let out := ended .exporting g.reasons (some (g.reasons != 0))
     (g.reasons = 0 → ¬ named → closeFilling g s = shut plain 0 (after plain s.rc.pendingExport))
       ∧ (g.reasons ≠ 0 → ¬ named → room → closeFilling g s = shut held 0 (after held s.rc.pendingExport))
       ∧ (g.reasons ≠ 0 → ¬ named → ¬ room → closeFilling g s
           = offer (.deniedClose g.index g.reasons) (shut plain g.reasons (after plain s.rc.pendingExport)))
       ∧ ∀ p, s.rc.pendingExport = some p → p.segment = g.index →
           (room → closeFilling g s = offer (.exportGranted out p.tag p.master (count out)) (shut out 0 (after out none)))
           ∧ (g.reasons = 0 → ¬ room → closeFilling g s
               = offer (.deniedExport g.index p.tag p.master) (shut plain 0 (after plain none)))
           ∧ (g.reasons ≠ 0 → ¬ room → closeFilling g s
               = offer (.deniedExport g.index p.tag p.master)
                   (offer (.deniedClose g.index g.reasons) (shut plain g.reasons (after plain none)))))
    ∧ (∀ (s : State) (id : EntryId) (level : Int) (i : Nat) (g : Segment), RecorderOk s → s.rc.table[i]? = some g →
         g.state = .filling →
         let put (h : Segment) : State := { s with rc := { s.rc with table := s.rc.table.set i h } }
         (s.cu.mode ≠ .live → noteOpening id s = s ∧ noteShortTerm s = s)
           ∧ (s.cu.mode = .live →
               (g.entries.length < 4 → noteOpening id s = put { g with entries := g.entries ++ [id] })
               ∧ (4 ≤ g.entries.length → noteOpening id s = put { g with more := true })
               ∧ (s.lu.shortTerm = none → noteShortTerm s = s)
               ∧ (s.lu.shortTerm = some level → noteShortTerm s = put { g with
                   maxShortTerm := some (match g.maxShortTerm with | some m => max m level | none => level) })))

/-- A hold request is ignored in REPLAY and without a RECORD window; otherwise it is applied, one segment after the other,
to exactly the segments that are not FREE and whose span overlaps its interval, latest start first and equal starts by
descending index, each once. It is evidence-incomplete when its start lies before every segment's start or none is in use,
and then the mark is set in the open record and in the closing records of its id. At one segment a new reason joins a
FILLING, HELD or EXPORT segment, a CLOSED segment becomes HELD with room and is denied without, and a reason held already
changes nothing (R130, R145 to R147). -/
def Obligations.HoldRequests : Prop :=
  (∀ (s : State) (req : HoldRequest),
     let d (g : Segment) : Int := (s.tb.time - g.start.getD s.tb.time).toInt
     let stop (g : Segment) : Time := if g.state = .filling then s.tb.time else g.finish.getD s.tb.time
     let set := overlapSet s.tb.time req s.rc.table
     let missing := evidenceMissing s.tb.time req s.rc.table
     let applied := (set.map (·.index)).foldl (holdSegment req missing) s
     let mark (e : OpenEntry) : OpenEntry := if e.entry.id = req.id then { e with evidenceIncomplete := true } else e
     let markSlot (c : ClosingSlot) : ClosingSlot :=
       { c with closed := { c.closed with record := mark c.closed.record } }
     (s.cu.mode = .replay ∨ s.rc.table = [] → holdRequest req s = s)
       ∧ (s.cu.mode ≠ .replay → s.rc.table ≠ [] → missing = false → holdRequest req s = applied)
       ∧ (s.cu.mode ≠ .replay → s.rc.table ≠ [] → missing = true →
           holdRequest req s = { applied with su := { s.su with
             openEntry := s.su.openEntry.map mark, slotA := s.su.slotA.map markSlot, slotB := s.su.slotB.map markSlot } })
       ∧ (∀ g, g ∈ set ↔ g ∈ s.rc.table ∧ g.state ≠ .free ∧ (req.start - stop g).toInt ≤ 0
           ∧ (g.start.getD s.tb.time - req.finish).toInt ≤ 0)
       ∧ ((∀ (i : Nat) (g : Segment), s.rc.table[i]? = some g → g.index = i) →
           set.Pairwise fun g h => d g < d h ∨ (d g = d h ∧ h.index < g.index))
       ∧ ((evidenceMissing s.tb.time req s.rc.table = true) ↔
           (∀ g ∈ s.rc.table, g.state = .free)
           ∨ ∃ o ∈ s.rc.table, o.state ≠ .free ∧ (req.start - o.start.getD s.tb.time).toInt < 0
               ∧ ∀ g ∈ s.rc.table, g.state ≠ .free → d g ≤ d o))
    ∧ (∀ (s : State) (req : HoldRequest) (missing : Bool) (i : Nat) (g : Segment), s.rc.table[i]? = some g → g.index = i →
         let placed (h : Segment) : State :=
           offer (.holdPlaced h req.reason (some req) (holdCount (s.rc.table.set i h)) missing)
             { s with rc := { s.rc with table := s.rc.table.set i h } }
         (g.state = .free → holdSegment req missing s i = s)
           ∧ (g.state = .closed → holdCount s.rc.table < s.rc.table.length - 2 →
               holdSegment req missing s i = placed { g with
                 state := .held, reasons := req.reason.set, blockedMark := false, beforeExportHeld := none })
           ∧ (g.state = .closed → s.rc.table.length - 2 ≤ holdCount s.rc.table →
               holdSegment req missing s i = offer (.deniedRequest i req (holdCount s.rc.table) missing) s)
           ∧ (g.state = .filling ∨ g.state = .held ∨ g.state = .exporting →
               (g.reasons.getLsbD req.reason.code = true → holdSegment req missing s i = s)
               ∧ (g.reasons.getLsbD req.reason.code = false →
                   holdSegment req missing s i = placed { g with
                     reasons := g.reasons ||| req.reason.set
                     beforeExportHeld := if g.state = .exporting then some true else none })))

/-- HOLD adds MANUAL by the segment's state. RELEASE_HOLD takes the named reasons out of a HELD or EXPORT segment, and a HELD
segment left with none becomes CLOSED (R150, R151). -/
def Obligations.HoldAndRelease : Prop :=
  (∀ (s : State) (it : CmdItem) (rest : List CmdItem) (g : Segment), headIs .hold it rest s →
     inSet it.master (archiveMask s.mp) = true → s.rc.table[it.arg.toNat % 2 ^ 8]? = some g → g.index = it.arg.toNat % 2 ^ 8 →
     let q := withQueue rest s
     let done (t : State) : State := offer (.commandDone it.tag 16 it.master 0x080 0) t
     let refused (reason : Reason) : State := offer (.commandRefused it.tag 16 it.master 0x080 reason) q
     let placed (h : Segment) : State :=
       offer (.holdPlaced h .manual none (holdCount (s.rc.table.set g.index h)) false)
         { q with rc := { s.rc with table := s.rc.table.set g.index h } }
     (g.state = .free → exec .hold s = .next (refused .segmentState))
       ∧ (g.state = .closed → holdCount s.rc.table < s.rc.table.length - 2 →
           exec .hold s = .next (done (placed { g with
             state := .held, reasons := 0x10, blockedMark := false, beforeExportHeld := none })))
       ∧ (g.state = .closed → s.rc.table.length - 2 ≤ holdCount s.rc.table → exec .hold s = .next (refused .holdLimit))
       ∧ (g.state = .filling ∨ g.state = .held ∨ g.state = .exporting →
           (g.reasons.getLsbD 4 = true → exec .hold s = .next (done q))
           ∧ (g.reasons.getLsbD 4 = false → exec .hold s = .next (done (placed { g with
               reasons := g.reasons ||| 0x10, beforeExportHeld := if g.state = .exporting then some true else none })))))
    ∧ (∀ (s : State) (it : CmdItem) (rest : List CmdItem) (g : Segment), headIs .releaseHold it rest s →
         inSet it.master (archiveMask s.mp) = true → s.rc.table[it.arg.toNat % 2 ^ 8]? = some g → g.index = it.arg.toNat % 2 ^ 8 →
         let q := withQueue rest s
         let set : ReasonSet := it.arg.extractLsb' 8 5
         let left : ReasonSet := g.reasons &&& ~~~set
         let done (t : State) : State := offer (.commandDone it.tag 17 it.master 0x088 0) t
         let refused (reason : Reason) : State := offer (.commandRefused it.tag 17 it.master 0x088 reason) q
         let put (h : Segment) : State := { q with rc := { s.rc with table := s.rc.table.set g.index h } }
         (set = 0 → exec .releaseHold s = .next (refused .badValue))
           ∧ (set ≠ 0 → g.state = .free ∨ g.state = .filling → exec .releaseHold s = .next (refused .segmentState))
           ∧ (set ≠ 0 → g.state = .closed → exec .releaseHold s = .next (done q))
           ∧ (set ≠ 0 → g.state = .held → left ≠ 0 →
               exec .releaseHold s = .next (done (put { g with reasons := left, beforeExportHeld := none })))
           ∧ (set ≠ 0 → g.state = .held → left = 0 → exec .releaseHold s = .next (done (put { g with
               state := .closed, reasons := 0, blockedMark := false, beforeExportHeld := none })))
           ∧ (set ≠ 0 → g.state = .exporting →
               exec .releaseHold s = .next (done (put { g with reasons := left, beforeExportHeld := some (left != 0) }))))

/-- Archive commands: a master outside the archive mask of the installed RECORD window is refused with PRIVILEGE, and then an
index of N or more with BAD_SEGMENT. EXPORT_REQUEST grants a HELD segment, a CLOSED one with room, and places the pending
export on the FILLING one; EXPORT_DONE returns an EXPORT segment to its before-export state (R26, R149, R152 to R154). -/
def Obligations.ExportCommands : Prop :=
  (∀ (s : State) (it : CmdItem) (rest : List CmdItem) (c : Instr) (k : CmdKind),
     (c, k) ∈ [(Instr.hold, CmdKind.hold), (.releaseHold, .releaseHold), (.exportRequest, .exportRequest),
       (.exportDone, .exportDone)] →
     headIs k it rest s →
     let allowed : Prop := it.master ≠ 15 ∧ ∃ w, windowOf .record s.mp = some w ∧ w.archiveMask.getLsbD it.master.toNat = true
     let refused (reason : Reason) : State :=
       offer (.commandRefused it.tag k.code it.master (8 * k.code) reason) (withQueue rest s)
     (¬ allowed → exec c s = .next (refused .privilege))
       ∧ (allowed → s.rc.table.length ≤ it.arg.toNat % 2 ^ 8 → exec c s = .next (refused .badSegment)))
    ∧ (∀ (s : State) (it : CmdItem) (rest : List CmdItem) (g : Segment),
         inSet it.master (archiveMask s.mp) = true → s.rc.table[it.arg.toNat % 2 ^ 8]? = some g → g.index = it.arg.toNat % 2 ^ 8 →
         let q := withQueue rest s
         let put (h : Segment) : State := { q with rc := { s.rc with table := s.rc.table.set g.index h } }
         let out : Segment := { g with
           state := .exporting, blockedMark := false, beforeExportHeld := some (g.reasons != 0) }
         let granted : State :=
           offer (.exportGranted out it.tag it.master (holdCount (s.rc.table.set g.index out))) (put out)
         (headIs .exportRequest it rest s →
           let done (t : State) : State := offer (.commandDone it.tag 18 it.master 0x090 0) t
           let refused (reason : Reason) : State := offer (.commandRefused it.tag 18 it.master 0x090 reason) q
           (g.state = .free ∨ g.state = .exporting → exec .exportRequest s = .next (refused .segmentState))
           ∧ (g.state = .held → exec .exportRequest s = .next (done granted))
           ∧ (g.state = .closed → holdCount s.rc.table < s.rc.table.length - 2 → exec .exportRequest s = .next (done granted))
           ∧ (g.state = .closed → s.rc.table.length - 2 ≤ holdCount s.rc.table →
               exec .exportRequest s = .next (refused .holdLimit))
           ∧ (g.state = .filling → s.rc.pendingExport = none → exec .exportRequest s = .next (done
               { q with rc := { s.rc with pendingExport := some ⟨g.index, it.tag, it.master⟩ } }))
           ∧ (g.state = .filling → s.rc.pendingExport ≠ none → exec .exportRequest s = .next (refused .exportPending)))
         ∧ (headIs .exportDone it rest s →
           (g.state ≠ .exporting → exec .exportDone s
               = .next (offer (.commandRefused it.tag 19 it.master 0x098 .segmentState) q))
           ∧ (g.state = .exporting → ∀ wasHeld, g.beforeExportHeld = some wasHeld → exec .exportDone s
               = .next (offer (.commandDone it.tag 19 it.master 0x098 0) (put { g with
                   state := if wasHeld then .held else .closed, blockedMark := false, beforeExportHeld := none })))))

/-! ### Reports, flags and the status image (R157 to R172) -/

/-- An offer: the flags have the bits of section 11.8; the flag that the record's kind names is set whatever becomes of the
record, with the latch when its enable is on; a COMMAND_REFUSED becomes the last refusal; the record joins a queue of fewer
than 16 with the present time, and is otherwise dropped, which counts it, sets REPORTS_LOST and, for an outcome, makes an
image due (R158, R159, R162, R168, R170). -/
def Obligations.OffersTaken : Prop :=
  (∀ (r : Report) (f : Flag), reportFlag r = some f ↔
      (kindCode r, f) ∈ [(2, Flag.commandRefused), (5, .shortTermOver), (6, .captionGap), (9, .deadAir), (11, .audioState),
        (13, .holdPlaced), (14, .holdDenied), (15, .exportGranted), (16, .recordBlocked), (17, .accessBlocked)]
      ∨ (f = .verdictFail ∧ ∃ v, r = .verdict v ∧ (v.loudness = .failHigh ∨ v.loudness = .failLow ∨ v.shortTerm = .fail
          ∨ v.caption = .fail ∨ v.deadAir = .fail)))
    ∧ (∀ f : Flag, (f, f.code) ∈ [(Flag.verdictFail, 0), (.holdPlaced, 1), (.holdDenied, 2), (.captionGap, 3),
        (.shortTermOver, 4), (.deadAir, 5), (.audioState, 6), (.exportGranted, 7), (.recordBlocked, 8), (.accessBlocked, 9),
        (.commandRefused, 10), (.reportsLost, 11), (.ringHigh, 12)])
    ∧ ∀ (r : Report) (s : State),
        let named (f : Flag) : Prop := reportFlag r = some f
        ∃ (flags : BitVec 13) (latch : Bool) (last : Option LastRefusal),
          (∀ f : Flag, flags.getLsbD f.code = true ↔ s.ru.flags.getLsbD f.code = true ∨ named f)
          ∧ (latch = true ↔ s.ru.latch = true ∨ ∃ f, named f ∧ s.ru.enables.getLsbD f.code = true)
          ∧ (∀ tag code master offset reason, r = .commandRefused tag code master offset reason →
              last = some ⟨tag, code, master, reason⟩)
          ∧ (kindCode r ≠ 2 → last = s.ru.lastRefusal)
          ∧ (s.ru.queue.length < 16 → offer r s = { s with ru := { s.ru with
              flags := flags, latch := latch, lastRefusal := last, queue := s.ru.queue ++ [⟨r, s.tb.time⟩] } })
          ∧ (16 ≤ s.ru.queue.length → offer r s = { s with ru := { s.ru with
              flags := flags ||| 0x800
              latch := latch || s.ru.enables.getLsbD 11
              lastRefusal := last
              lostCount := if s.ru.lostCount = BitVec.allOnes 32 then s.ru.lostCount else s.ru.lostCount + 1
              imageDue := s.ru.imageDue || decide (kindCode r = 1 ∨ kindCode r = 2) } })

/-- LAY_RECORD: with a unit in progress, an image due in a window, or no record queued, nothing is laid. Otherwise the head
record is dropped without room, and a record with room takes the record number after that of a LOST record that stands for
the lost count; its bursts lie at the positions from the write index on and hold the layout of R175 for their kind, with
every other byte zero. OWN_WRITE_OFFER of a record's last burst moves the write index on by the record's positions and
judges RING_HIGH; a LOST record's own burst moves it on by 1 (R160 to R163, R165, R170, R173, R175). The model's choices:
one row handles one record, so that a drop ends the event (log 21); a LOST record moves the index by itself (log 20); it
writes no hold count for HOLD_DENIED of CLOSE and EXPORT (log 26) and the free values of logs 12 and 39. -/
def Obligations.RecordsLaid : Prop :=
  (∀ (s : State) (q : QueuedReport) (rest : List QueuedReport), ready s = true → s.ru.current = none →
    (s.ru.imageDue = false ∨ s.ru.geometry = none) → s.ru.queue = q :: rest →
    let k : Nat := if kindCode q.report = 4 then 2 else 1
    let lost : Nat := if s.ru.lostCount = 0 then 0 else 1
    let count : BitVec 32 := if s.ru.lostCount = BitVec.allOnes 32 then s.ru.lostCount else s.ru.lostCount + 1
    let dropped : State := { s with ru := { s.ru with
      queue := rest, lostCount := count
      imageDue := s.ru.imageDue || decide (kindCode q.report = 1 ∨ kindCode q.report = 2)
      flags := s.ru.flags ||| Flag.reportsLost.set
      latch := s.ru.latch || s.ru.enables.getLsbD Flag.reportsLost.code } }
    (s.ru.geometry = none → exec .layRecord s = .next dropped)
      ∧ ∀ g, s.ru.geometry = some g →
          let unread := (s.ru.writeIndex + g.capacity - s.ru.readIndex) % g.capacity
          (g.capacity ≤ unread + lost + k → exec .layRecord s = .next dropped)
          ∧ (unread + lost + k < g.capacity → ∃ bursts : List Burst,
              exec .layRecord s = .next { s with ru := { s.ru with
                recordNumber := s.ru.recordNumber + BitVec.ofNat 32 (lost + 1), lostCount := 0
                current := some ⟨false, bursts, if s.ru.lostCount = 0 then none else some s.ru.lostCount⟩ } }
              ∧ bursts.length = lost + k
              ∧ ∀ (i : Nat) (b : Burst), bursts[i]? = some b →
                  b.addr = g.base + 256 + 64 * ((s.ru.writeIndex + i) % g.capacity) ∧ b.beats.length = 8
                  ∧ (i < lost → HoldsFields b.beats
                      [(0, 1, 19), (1, 1, 1), (4, 4, s.ru.recordNumber.toNat), (8, 4, s.tb.time.toNat),
                        (12, 4, s.ru.lostCount.toNat)])
                  ∧ (lost ≤ i → HoldsFields b.beats
                      (positionTable q (kindCode q.report) (s.ru.recordNumber + BitVec.ofNat 32 lost) (i - lost)))))
    ∧ (∀ s : State, ready s = true →
        s.ru.current ≠ none ∨ (s.ru.imageDue = true ∧ s.ru.geometry ≠ none) ∨ s.ru.queue = [] →
        exec .layRecord s = .next s)
    ∧ (∀ (s : State) (b : Burst) (q : QueuedReport) (rest : List QueuedReport) (g : Geometry), ready s = true →
        s.ru.current = some ⟨false, [b], none⟩ → s.ru.queue = q :: rest → s.ru.geometry = some g →
        s.mp.ownQueue.length < 8 →
        let write := (s.ru.writeIndex + if kindCode q.report = 4 then 2 else 1) % g.capacity
        let high : Bool := decide (3 * g.capacity ≤ 4 * ((write + g.capacity - s.ru.readIndex) % g.capacity))
        exec .ownWriteOffer s = .next { s with
          mp := { s.mp with ownQueue := s.mp.ownQueue ++ [⟨s.mp.nextOwn, b.addr, b.beats⟩], nextOwn := s.mp.nextOwn + 1 }
          ru := { s.ru with
            current := none, queue := rest, writeIndex := write
            imageDue := s.ru.imageDue || decide (kindCode q.report = 1 ∨ kindCode q.report = 2)
            flags := if high then s.ru.flags ||| Flag.ringHigh.set else s.ru.flags
            latch := s.ru.latch || (high && s.ru.enables.getLsbD Flag.ringHigh.code) } })
    ∧ (∀ (s : State) (b : Burst) (rest : List Burst) (n : BitVec 32) (g : Geometry), ready s = true →
        s.ru.current = some ⟨false, b :: rest, some n⟩ → s.ru.geometry = some g → s.mp.ownQueue.length < 8 →
        exec .ownWriteOffer s = .next { s with
          mp := { s.mp with ownQueue := s.mp.ownQueue ++ [⟨s.mp.nextOwn, b.addr, b.beats⟩], nextOwn := s.mp.nextOwn + 1 }
          ru := { s.ru with
            current := some ⟨false, rest, none⟩, writeIndex := (s.ru.writeIndex + 1) % g.capacity } })
    ∧ (∀ r : Report, kindCode r = match r with
        | .commandDone .. => 1
        | .commandRefused .. => 2
        | .entryOpened .. => 3
        | .verdict _ => 4
        | .shortTermOver .. => 5
        | .captionGap .. => 6
        | .captionGapEnd .. => 7
        | .captionTorn .. => 8
        | .deadAir .. => 9
        | .deadAirEnd .. => 10
        | .audioState .. => 11
        | .segmentClosed .. => 12
        | .holdPlaced .. => 13
        | .deniedRequest .. | .deniedClose .. | .deniedExport .. => 14
        | .exportGranted .. => 15
        | .recordBlocked .. => 16
        | .accessBlocked .. => 17
        | .strayCue .. => 18)
    ∧ (∀ c : EntryClass, (c, c.code) ∈ [(EntryClass.programme, 0), (.advert, 1), (.promo, 2), (.live, 3)])
    ∧ (∀ c : Cause, (c, c.code) ∈ [(Cause.start, 0), (.compare, 1), (.cue, 2), (.lateCommit, 3)])
    ∧ (∀ o : LoudnessOutcome,
        (o, o.code) ∈ [(LoudnessOutcome.undetermined, 0), (.pass, 1), (.failHigh, 2), (.failLow, 3)])
    ∧ (∀ o : CheckOutcome, (o, o.code) ∈ [(CheckOutcome.notChecked, 0), (.pass, 1), (.fail, 2)])
    ∧ (∀ o : CaptionOutcome, (o, o.code) ∈ [(CaptionOutcome.notRequired, 0), (.unchecked, 1), (.pass, 2), (.fail, 3)])
    ∧ (∀ r : HoldReason,
        (r, r.code) ∈ [(HoldReason.loudness, 0), (.shortTerm, 1), (.caption, 2), (.deadAir, 3), (.manual, 4)])
    ∧ (∀ r : BlockReason, (r, r.code)
        ∈ [(BlockReason.crossing, 0), (.controlMask, 1), (.readMask, 2), (.writeMask, 3), (.reportWrite, 4)])
    ∧ ∀ c : AudioCause, (c, c.code) ∈ [(AudioCause.descriptor, 0), (.stall, 1), (.resume, 2)]

/-- STATUS_IMAGE_COMPOSE: an owed image with a REPORT window and no unit in progress takes the next generation, clears the
mark and the tick count, and is offered as a leading beat, a body of 8, 8, 8 and 6 beats and a trailing beat; its 256 bytes
hold every field of R169 in the layout of R176, as the part stands, and zero elsewhere; otherwise nothing is composed. The
unit ends when the memory path takes the trailing beat. IMAGE_DUE: a tick that the report unit is owed adds 1 to the image
tick count, and the hundredth makes an image due; without one nothing happens (R161, R169 to R171, R173, R176). The model's
choice: the bytes of the coding NONE and the rate OTHER, which the spec does not state, are free values (log 12). -/
def Obligations.StatusImages : Prop :=
  (∀ (s : State) (g : Geometry), ready s = true → s.ru.current = none → s.ru.geometry = some g → s.ru.imageDue = true →
    let generation := s.ru.imageGeneration + 1
    ∃ bursts : List Burst,
      exec .statusImageCompose s = .next { s with ru := { s.ru with
        imageGeneration := generation, imageDue := false, imageTicks := 0, current := some ⟨true, bursts, none⟩ } }
      ∧ bursts.map (·.addr) = [g.base, g.base + 8, g.base + 72, g.base + 136, g.base + 200, g.base + 248]
      ∧ bursts.map (·.beats.length) = [1, 8, 8, 8, 6, 1]
      ∧ HoldsFields (bursts.flatMap (·.beats)) (imageTable s (runningValue s) generation))
    ∧ (∀ (s : State) (b : Burst), ready s = true → s.ru.current = some ⟨true, [b], none⟩ → s.mp.ownQueue.length < 8 →
        exec .ownWriteOffer s = .next { s with
          mp := { s.mp with ownQueue := s.mp.ownQueue ++ [⟨s.mp.nextOwn, b.addr, b.beats⟩], nextOwn := s.mp.nextOwn + 1 }
          ru := { s.ru with current := none } })
    ∧ (∀ s : State, s.ru.current ≠ none ∨ s.ru.geometry = none ∨ s.ru.imageDue = false → ready s = true →
        exec .statusImageCompose s = .next s)
    ∧ (∀ s : State, ready s = true → s.tb.owed.ru = false → exec .imageDue s = .next s)
    ∧ (∀ s : State, ready s = true → s.tb.owed.ru = true →
        let owed : TimeBase := { s.tb with owed := { s.tb.owed with ru := false } }
        (s.ru.imageTicks + 1 ≠ 100 →
          exec .imageDue s = .next { s with tb := owed, ru := { s.ru with imageTicks := s.ru.imageTicks + 1 } })
        ∧ (s.ru.imageTicks + 1 = 100 →
          exec .imageDue s = .next { s with tb := owed, ru := { s.ru with imageTicks := 0, imageDue := true } }))
    ∧ (∀ m : Mode, (m, m.code) ∈ [(Mode.off, 0), (.live, 1), (.replay, 2)])
    ∧ (∀ e : Engine, (e, e.code) ∈ [(Engine.idle, 0), (.measuring, 1), (.unmeasurable, 2), (.stalled, 3)])
    ∧ (∀ b : BankState, (b, b.code) ∈ [(BankState.free, 0), (.collecting, 1), (.scanning, 2)])
    ∧ (∀ g : SegState, (g, g.code) ∈ [(SegState.free, 1), (.filling, 2), (.closed, 3), (.held, 4), (.exporting, 5)])
    ∧ Coding.pcm.code = 1 ∧ Coding.compressed.code = 2 ∧ Rate.r32000.code = 1 ∧ Rate.r44100.code = 2 ∧ Rate.r48000.code = 3
    ∧ ∀ r : Reason, (r, r.code) ∈ [(Reason.badValue, 1), (.badDescriptor, 2), (.overlap, 3), (.busyLive, 4),
        (.holdsPresent, 5), (.noReport, 6), (.modeSequence, 7), (.order, 8), (.duplicateId, 9), (.queueFull, 10),
        (.notPending, 11), (.privilege, 12), (.badSegment, 13), (.segmentState, 14), (.holdLimit, 15), (.exportPending, 16),
        (.badIndex, 17), (.commandOverflow, 18), (.partialBeat, 19)]

/-- READ_INDEX moves the read index to a position between it and the write index and refuses any other; FLAG_ENABLE_SET and
FLAG_ENABLE_CLEAR change the enables and ACK_FLAGS the flags, and only the last two clear the latch, when no flag remains both
set and enabled (R164, R166 to R168). -/
def Obligations.ReportCommands : Prop :=
  ∀ (s : State) (it : CmdItem) (rest : List CmdItem),
    let r := it.arg.toNat % 2 ^ 16
    let set : BitVec 13 := it.arg.extractLsb' 0 13
    let left := s.ru.enables &&& ~~~set
    let kept := s.ru.flags &&& ~~~set
    let done (code offset : Nat) (ru : Reports) : State :=
      offer (.commandDone it.tag code it.master offset 0) { withQueue rest s with ru := ru }
    let refused : State := offer (.commandRefused it.tag 4 it.master 0x020 .badIndex) (withQueue rest s)
    (headIs .readIndex it rest s →
        (s.ru.geometry = none → exec .readIndex s = .next refused)
        ∧ ∀ g, s.ru.geometry = some g →
            let ahead (p : Nat) : Nat := (p + g.capacity - s.ru.readIndex) % g.capacity
            exec .readIndex s = .next (
              if r < g.capacity ∧ ahead r ≤ ahead s.ru.writeIndex then done 4 0x020 { s.ru with readIndex := r }
              else refused))
      ∧ (headIs .flagEnableSet it rest s →
          exec .flagEnableSet s = .next (done 5 0x028 { s.ru with enables := s.ru.enables ||| set }))
      ∧ (headIs .flagEnableClear it rest s →
          exec .flagEnableClear s
            = .next (done 6 0x030 { s.ru with enables := left, latch := s.ru.latch && decide (s.ru.flags &&& left ≠ 0) }))
      ∧ (headIs .ackFlags it rest s →
          exec .ackFlags s
            = .next (done 7 0x038 { s.ru with flags := kept, latch := s.ru.latch && decide (kept &&& s.ru.enables ≠ 0) }))
/-! ### What every step keeps -/

/-- Every step keeps the window table: installed windows are well formed and apart from each other and the control page, and
the recorder, the report unit and the caption unit know theirs (R3 to R6, R98, R136, R160). -/
def Obligations.StepKeepsWindows : Prop :=
  ∀ s t : State, WindowsOk s → OwnersAgree s → step s = .next t → WindowsOk t ∧ OwnersAgree t

/-- Every step keeps the requests in flight: rising numbers, reads that wait for queued own writes, at most one read of a
master in the read-hold list, and released reads that wait for the arbiter (R1, R14 to R16). The numbers are the model's own
(log 15), and so is how a read that overlaps own writes stands behind a held read of its master (log 16). Reads of the whole
status image: a step that does not break the order R171 has the images and these reads in, and leaves the REPORT window as
it is, keeps them clear of a half-offered image and waiting for every queued own write that they overlap; so one that is
issued meets no half-written image, with no burst of it queued or still to come (R171). Which rows break that order is the
model's reading (log 36). -/
def Obligations.StepKeepsPorts : Prop :=
  (∀ s t : State, PortsOk s → step s = .next t → PortsOk t)
    ∧ (∀ s t : State, PortsOk s → RingOk s → ImagesMetWhole s → (∀ c rest, s.pending = c :: rest → ¬ breaksImageOrder s c) →
        step s = .next t → t.ru.geometry = s.ru.geometry → ImagesMetWhole t)
    ∧ ∀ (s t : State) (i : Nat) (u : Txn), ready s = true → ImagesMetWhole s → exec .memoryPortIssue s = .next t →
        s.mp.txns[i]? = some u → readsImage s.ru u.req = true → u.progress = .waiting →
        t.mp.txns[i]? = some { u with progress := .issued } →
        imageBegun s.ru = false ∧ t.ru = s.ru ∧ t.mp.ownQueue = s.mp.ownQueue
          ∧ ∀ w ∈ s.mp.ownQueue, overlapsOwn u.req w = false

/-- Every step keeps the segment table: a segment is HELD exactly with reasons, at least two segments are outside HELD and
EXPORT, at most one is FILLING, and the pending export names it (R137, R138, R153). -/
def Obligations.StepKeepsRecorder : Prop :=
  ∀ s t : State, RecorderOk s → step s = .next t → RecorderOk t

/-- Every step keeps the queues within their depths, the counts of the time base within their ranges, the indices within the
ring, and a flag both set and enabled while ALERT_N is asserted; and a record in progress lies in free positions of the ring
from the write index on, so that no step lays a record over an unread position (R14, R23, R38, R39, R46, R63, R114, R159 to
R162, R168). The model's choice: a LOST record moves the write index by itself (log 20). -/
def Obligations.StepKeepsBounds : Prop :=
  ∀ s t : State, QueuesOk s → TimeOk s → RingOk s → AlertOk s → step s = .next t →
    QueuesOk t ∧ TimeOk t ∧ RingOk t ∧ AlertOk t

/-- Every step keeps the modes and the banks: an entry is open exactly while the part observes, in OFF the observers stand
still, the start compare follows the head of the pending queue, a bank is COLLECTING exactly for the open entry and SCANNING
exactly with a closing slot, and the running sums are those of the open entry's bank (R30, R31, R43, R90 to R92, R129). -/
def Obligations.StepKeepsModesAndBanks : Prop :=
  ∀ s t : State, ModeOk s → BanksOk s → step s = .next t → ModeOk t ∧ BanksOk t
end

