-- ==== Sys2Proof/Laws/Frames.lean ====
section
/-! SUPPORT. Frames: for each operation on State, the blocks that it leaves alone. Each lemma is a conjunction that `simp`
uses field by field. -/

namespace Sys2Proof.Machine

@[simp] theorem modifyOpen_frame (f : OpenEntry → OpenEntry) (s : State) :
    (modifyOpen f s).pending = s.pending ∧ (modifyOpen f s).resetAsserted = s.resetAsserted
      ∧ (modifyOpen f s).mp = s.mp ∧ (modifyOpen f s).cu = s.cu ∧ (modifyOpen f s).tb = s.tb
      ∧ (modifyOpen f s).ao = s.ao ∧ (modifyOpen f s).lu = s.lu ∧ (modifyOpen f s).ag = s.ag
      ∧ (modifyOpen f s).ca = s.ca ∧ (modifyOpen f s).rc = s.rc ∧ (modifyOpen f s).ru = s.ru := by
  simp [modifyOpen]

@[simp] theorem offer_frame (r : Report) (s : State) :
    (offer r s).pending = s.pending ∧ (offer r s).resetAsserted = s.resetAsserted ∧ (offer r s).mp = s.mp
      ∧ (offer r s).cu = s.cu ∧ (offer r s).tb = s.tb ∧ (offer r s).ao = s.ao ∧ (offer r s).lu = s.lu
      ∧ (offer r s).ag = s.ag ∧ (offer r s).ca = s.ca ∧ (offer r s).su = s.su ∧ (offer r s).rc = s.rc := by
  simp [offer]

@[simp] theorem putSegment_frame (g : Segment) (s : State) :
    (putSegment g s).pending = s.pending ∧ (putSegment g s).resetAsserted = s.resetAsserted
      ∧ (putSegment g s).mp = s.mp ∧ (putSegment g s).cu = s.cu ∧ (putSegment g s).tb = s.tb
      ∧ (putSegment g s).ao = s.ao ∧ (putSegment g s).lu = s.lu ∧ (putSegment g s).ag = s.ag
      ∧ (putSegment g s).ca = s.ca ∧ (putSegment g s).su = s.su ∧ (putSegment g s).ru = s.ru := by
  simp [putSegment]

@[simp] theorem joinReason_frame (g : Segment) (reason : HoldReason) (req : Option HoldRequest) (missing : Bool) (s : State) :
    (joinReason g reason req missing s).pending = s.pending
      ∧ (joinReason g reason req missing s).resetAsserted = s.resetAsserted
      ∧ (joinReason g reason req missing s).mp = s.mp ∧ (joinReason g reason req missing s).cu = s.cu
      ∧ (joinReason g reason req missing s).tb = s.tb ∧ (joinReason g reason req missing s).ao = s.ao
      ∧ (joinReason g reason req missing s).lu = s.lu ∧ (joinReason g reason req missing s).ag = s.ag
      ∧ (joinReason g reason req missing s).ca = s.ca ∧ (joinReason g reason req missing s).su = s.su := by
  unfold joinReason; (repeat' split) <;> simp

@[simp] theorem holdClosed_frame (g : Segment) (reason : HoldReason) (req : Option HoldRequest) (missing : Bool) (s : State) :
    (holdClosed g reason req missing s).pending = s.pending
      ∧ (holdClosed g reason req missing s).resetAsserted = s.resetAsserted
      ∧ (holdClosed g reason req missing s).mp = s.mp ∧ (holdClosed g reason req missing s).cu = s.cu
      ∧ (holdClosed g reason req missing s).tb = s.tb ∧ (holdClosed g reason req missing s).ao = s.ao
      ∧ (holdClosed g reason req missing s).lu = s.lu ∧ (holdClosed g reason req missing s).ag = s.ag
      ∧ (holdClosed g reason req missing s).ca = s.ca ∧ (holdClosed g reason req missing s).su = s.su := by
  simp [holdClosed]

@[simp] theorem holdSegment_frame (req : HoldRequest) (missing : Bool) (s : State) (index : Nat) :
    (holdSegment req missing s index).pending = s.pending
      ∧ (holdSegment req missing s index).resetAsserted = s.resetAsserted
      ∧ (holdSegment req missing s index).mp = s.mp ∧ (holdSegment req missing s index).cu = s.cu
      ∧ (holdSegment req missing s index).tb = s.tb ∧ (holdSegment req missing s index).ao = s.ao
      ∧ (holdSegment req missing s index).lu = s.lu ∧ (holdSegment req missing s index).ag = s.ag
      ∧ (holdSegment req missing s index).ca = s.ca ∧ (holdSegment req missing s index).su = s.su := by
  unfold holdSegment; (repeat' split) <;> simp

@[simp] theorem markEvidence_frame (id : EntryId) (s : State) :
    (markEvidence id s).pending = s.pending ∧ (markEvidence id s).resetAsserted = s.resetAsserted
      ∧ (markEvidence id s).mp = s.mp ∧ (markEvidence id s).cu = s.cu ∧ (markEvidence id s).tb = s.tb
      ∧ (markEvidence id s).ao = s.ao ∧ (markEvidence id s).lu = s.lu ∧ (markEvidence id s).ag = s.ag
      ∧ (markEvidence id s).ca = s.ca ∧ (markEvidence id s).rc = s.rc ∧ (markEvidence id s).ru = s.ru := by
  simp [markEvidence]

@[simp] theorem holdFold_frame (req : HoldRequest) (m : Bool) (l : List Nat) (s : State) :
    (l.foldl (holdSegment req m) s).pending = s.pending
      ∧ (l.foldl (holdSegment req m) s).resetAsserted = s.resetAsserted ∧ (l.foldl (holdSegment req m) s).mp = s.mp
      ∧ (l.foldl (holdSegment req m) s).cu = s.cu ∧ (l.foldl (holdSegment req m) s).tb = s.tb
      ∧ (l.foldl (holdSegment req m) s).ao = s.ao ∧ (l.foldl (holdSegment req m) s).lu = s.lu
      ∧ (l.foldl (holdSegment req m) s).ag = s.ag ∧ (l.foldl (holdSegment req m) s).ca = s.ca
      ∧ (l.foldl (holdSegment req m) s).su = s.su := by
  induction l generalizing s with
  | nil => simp
  | cons a l ih => simp [ih]

@[simp] theorem holdRequest_frame (req : HoldRequest) (s : State) :
    (holdRequest req s).pending = s.pending ∧ (holdRequest req s).resetAsserted = s.resetAsserted
      ∧ (holdRequest req s).mp = s.mp ∧ (holdRequest req s).cu = s.cu ∧ (holdRequest req s).tb = s.tb
      ∧ (holdRequest req s).ao = s.ao ∧ (holdRequest req s).lu = s.lu ∧ (holdRequest req s).ag = s.ag
      ∧ (holdRequest req s).ca = s.ca := by
  unfold holdRequest; dsimp only; (repeat' split) <;> simp

@[simp] theorem dropExport_frame (g : Segment) (s : State) :
    (dropExport g s).pending = s.pending ∧ (dropExport g s).resetAsserted = s.resetAsserted
      ∧ (dropExport g s).mp = s.mp ∧ (dropExport g s).cu = s.cu ∧ (dropExport g s).tb = s.tb
      ∧ (dropExport g s).ao = s.ao ∧ (dropExport g s).lu = s.lu ∧ (dropExport g s).ag = s.ag
      ∧ (dropExport g s).ca = s.ca ∧ (dropExport g s).su = s.su ∧ (dropExport g s).ru = s.ru := by
  unfold dropExport; (repeat' split) <;> simp

@[simp] theorem reportClose_frame (g : Segment) (cleared : ReasonSet) (pending : Option PendingExport) (s : State) :
    (reportClose g cleared pending s).pending = s.pending
      ∧ (reportClose g cleared pending s).resetAsserted = s.resetAsserted
      ∧ (reportClose g cleared pending s).mp = s.mp ∧ (reportClose g cleared pending s).cu = s.cu
      ∧ (reportClose g cleared pending s).tb = s.tb ∧ (reportClose g cleared pending s).ao = s.ao
      ∧ (reportClose g cleared pending s).lu = s.lu ∧ (reportClose g cleared pending s).ag = s.ag
      ∧ (reportClose g cleared pending s).ca = s.ca ∧ (reportClose g cleared pending s).su = s.su
      ∧ (reportClose g cleared pending s).rc = s.rc := by
  unfold reportClose; (repeat' split) <;> simp

@[simp] theorem closeFilling_frame (g : Segment) (s : State) :
    (closeFilling g s).pending = s.pending ∧ (closeFilling g s).resetAsserted = s.resetAsserted
      ∧ (closeFilling g s).mp = s.mp ∧ (closeFilling g s).cu = s.cu ∧ (closeFilling g s).tb = s.tb
      ∧ (closeFilling g s).ao = s.ao ∧ (closeFilling g s).lu = s.lu ∧ (closeFilling g s).ag = s.ag
      ∧ (closeFilling g s).ca = s.ca ∧ (closeFilling g s).su = s.su := by
  simp [closeFilling]

@[simp] theorem countBlocked_frame (r : Request) (s : State) (index : Nat) :
    (countBlocked r s index).pending = s.pending ∧ (countBlocked r s index).resetAsserted = s.resetAsserted
      ∧ (countBlocked r s index).mp = s.mp ∧ (countBlocked r s index).cu = s.cu
      ∧ (countBlocked r s index).tb = s.tb ∧ (countBlocked r s index).ao = s.ao
      ∧ (countBlocked r s index).lu = s.lu ∧ (countBlocked r s index).ag = s.ag
      ∧ (countBlocked r s index).ca = s.ca ∧ (countBlocked r s index).su = s.su := by
  unfold countBlocked; (repeat' split) <;> simp

@[simp] theorem blockFold_frame (r : Request) (l : List Nat) (s : State) :
    (l.foldl (countBlocked r) s).pending = s.pending ∧ (l.foldl (countBlocked r) s).resetAsserted = s.resetAsserted
      ∧ (l.foldl (countBlocked r) s).mp = s.mp ∧ (l.foldl (countBlocked r) s).cu = s.cu
      ∧ (l.foldl (countBlocked r) s).tb = s.tb ∧ (l.foldl (countBlocked r) s).ao = s.ao
      ∧ (l.foldl (countBlocked r) s).lu = s.lu ∧ (l.foldl (countBlocked r) s).ag = s.ag
      ∧ (l.foldl (countBlocked r) s).ca = s.ca ∧ (l.foldl (countBlocked r) s).su = s.su := by
  induction l generalizing s with
  | nil => simp
  | cons a l ih => simp [ih]

@[simp] theorem blockRecordWrite_frame (r : Request) (ts : List Touch) (s : State) :
    (blockRecordWrite r ts s).pending = s.pending ∧ (blockRecordWrite r ts s).resetAsserted = s.resetAsserted
      ∧ (blockRecordWrite r ts s).mp = s.mp ∧ (blockRecordWrite r ts s).cu = s.cu
      ∧ (blockRecordWrite r ts s).tb = s.tb ∧ (blockRecordWrite r ts s).ao = s.ao
      ∧ (blockRecordWrite r ts s).lu = s.lu ∧ (blockRecordWrite r ts s).ag = s.ag
      ∧ (blockRecordWrite r ts s).ca = s.ca ∧ (blockRecordWrite r ts s).su = s.su := by
  simp [blockRecordWrite]

@[simp] theorem capture_frame (ts : List Touch) (s : State) :
    (capture ts s).pending = s.pending ∧ (capture ts s).resetAsserted = s.resetAsserted ∧ (capture ts s).mp = s.mp
      ∧ (capture ts s).cu = s.cu ∧ (capture ts s).tb = s.tb ∧ (capture ts s).ao = s.ao ∧ (capture ts s).lu = s.lu
      ∧ (capture ts s).ag = s.ag ∧ (capture ts s).ca = s.ca ∧ (capture ts s).su = s.su := by
  unfold capture; (repeat' split) <;> simp

@[simp] theorem noteOpening_frame (id : EntryId) (s : State) :
    (noteOpening id s).pending = s.pending ∧ (noteOpening id s).resetAsserted = s.resetAsserted
      ∧ (noteOpening id s).mp = s.mp ∧ (noteOpening id s).cu = s.cu ∧ (noteOpening id s).tb = s.tb
      ∧ (noteOpening id s).ao = s.ao ∧ (noteOpening id s).lu = s.lu ∧ (noteOpening id s).ag = s.ag
      ∧ (noteOpening id s).ca = s.ca ∧ (noteOpening id s).su = s.su ∧ (noteOpening id s).ru = s.ru := by
  unfold noteOpening; (repeat' split) <;> simp

@[simp] theorem noteShortTerm_frame (s : State) :
    (noteShortTerm s).pending = s.pending ∧ (noteShortTerm s).resetAsserted = s.resetAsserted
      ∧ (noteShortTerm s).mp = s.mp ∧ (noteShortTerm s).cu = s.cu ∧ (noteShortTerm s).tb = s.tb
      ∧ (noteShortTerm s).ao = s.ao ∧ (noteShortTerm s).lu = s.lu ∧ (noteShortTerm s).ag = s.ag
      ∧ (noteShortTerm s).ca = s.ca ∧ (noteShortTerm s).su = s.su ∧ (noteShortTerm s).ru = s.ru := by
  unfold noteShortTerm; (repeat' split) <;> simp

@[simp] theorem buildVerdict_frame (c : ClosedEntry) (ungated integrated : Option Int) (s : State) :
    (buildVerdict c ungated integrated s).pending = s.pending
      ∧ (buildVerdict c ungated integrated s).resetAsserted = s.resetAsserted
      ∧ (buildVerdict c ungated integrated s).mp = s.mp ∧ (buildVerdict c ungated integrated s).cu = s.cu
      ∧ (buildVerdict c ungated integrated s).tb = s.tb ∧ (buildVerdict c ungated integrated s).ao = s.ao
      ∧ (buildVerdict c ungated integrated s).lu = s.lu ∧ (buildVerdict c ungated integrated s).ag = s.ag
      ∧ (buildVerdict c ungated integrated s).ca = s.ca := by
  unfold buildVerdict; (repeat' split) <;> simp

@[simp] theorem closeEntry_frame (actualEnd : Time) (aborted : Bool) (s : State) :
    (closeEntry actualEnd aborted s).pending = s.pending
      ∧ (closeEntry actualEnd aborted s).resetAsserted = s.resetAsserted
      ∧ (closeEntry actualEnd aborted s).mp = s.mp ∧ (closeEntry actualEnd aborted s).cu = s.cu
      ∧ (closeEntry actualEnd aborted s).tb = s.tb ∧ (closeEntry actualEnd aborted s).ao = s.ao
      ∧ (closeEntry actualEnd aborted s).lu = s.lu ∧ (closeEntry actualEnd aborted s).ca = s.ca
      ∧ (closeEntry actualEnd aborted s).rc = s.rc := by
  refine ⟨?_, ?_, ?_, ?_, ?_, ?_, ?_, ?_, ?_⟩ <;> (unfold closeEntry; dsimp only; (repeat' split) <;> rfl)

@[simp] theorem openOne_frame (e : Entry) (start : Time) (cause : Cause) (cuedEarly : Bool) (rest : List Entry) (s : State) :
    (openOne e start cause cuedEarly rest s).pending = s.pending
      ∧ (openOne e start cause cuedEarly rest s).resetAsserted = s.resetAsserted
      ∧ (openOne e start cause cuedEarly rest s).mp = s.mp ∧ (openOne e start cause cuedEarly rest s).cu = s.cu
      ∧ (openOne e start cause cuedEarly rest s).tb = s.tb ∧ (openOne e start cause cuedEarly rest s).ao = s.ao
      ∧ (openOne e start cause cuedEarly rest s).lu = s.lu := by
  simp [openOne]

@[simp] theorem loadCompare_frame (value : Option Time) (s : State) :
    (loadCompare value s).pending = s.pending ∧ (loadCompare value s).resetAsserted = s.resetAsserted
      ∧ (loadCompare value s).mp = s.mp ∧ (loadCompare value s).cu = s.cu ∧ (loadCompare value s).ao = s.ao
      ∧ (loadCompare value s).lu = s.lu ∧ (loadCompare value s).ag = s.ag ∧ (loadCompare value s).ca = s.ca
      ∧ (loadCompare value s).su = s.su ∧ (loadCompare value s).rc = s.rc ∧ (loadCompare value s).ru = s.ru := by
  simp [loadCompare]

@[simp] theorem cascade_frame (b : Bool) (l : List Entry) (s : State) :
    (cascade b l s).pending = s.pending ∧ (cascade b l s).resetAsserted = s.resetAsserted
      ∧ (cascade b l s).mp = s.mp ∧ (cascade b l s).cu = s.cu ∧ (cascade b l s).ao = s.ao
      ∧ (cascade b l s).lu = s.lu := by
  induction l generalizing s with
  | nil => simp [cascade]
  | cons e l ih => unfold cascade; split <;> simp [ih]

@[simp] theorem openHead_frame (start : Time) (cause : Cause) (cuedEarly : Bool) (s : State) :
    (openHead start cause cuedEarly s).pending = s.pending
      ∧ (openHead start cause cuedEarly s).resetAsserted = s.resetAsserted
      ∧ (openHead start cause cuedEarly s).mp = s.mp ∧ (openHead start cause cuedEarly s).cu = s.cu
      ∧ (openHead start cause cuedEarly s).ao = s.ao ∧ (openHead start cause cuedEarly s).lu = s.lu := by
  unfold openHead; (repeat' split) <;> simp

@[simp] theorem openDefault_frame (s : State) :
    (openDefault s).pending = s.pending ∧ (openDefault s).resetAsserted = s.resetAsserted
      ∧ (openDefault s).mp = s.mp ∧ (openDefault s).cu = s.cu ∧ (openDefault s).ao = s.ao
      ∧ (openDefault s).lu = s.lu := by
  simp [openDefault]

@[simp] theorem takeFiring_frame (s : State) :
    (takeFiring s).pending = s.pending ∧ (takeFiring s).resetAsserted = s.resetAsserted ∧ (takeFiring s).mp = s.mp
      ∧ (takeFiring s).cu = s.cu ∧ (takeFiring s).ao = s.ao ∧ (takeFiring s).lu = s.lu := by
  unfold takeFiring; (repeat' split) <;> simp

@[simp] theorem strayCue_frame (captured : Time) (s : State) :
    (strayCue captured s).pending = s.pending ∧ (strayCue captured s).resetAsserted = s.resetAsserted
      ∧ (strayCue captured s).mp = s.mp ∧ (strayCue captured s).cu = s.cu ∧ (strayCue captured s).tb = s.tb
      ∧ (strayCue captured s).ao = s.ao ∧ (strayCue captured s).lu = s.lu ∧ (strayCue captured s).ag = s.ag
      ∧ (strayCue captured s).ca = s.ca ∧ (strayCue captured s).rc = s.rc := by
  simp [strayCue]

@[simp] theorem judgeCue_frame (captured : Time) (s : State) :
    (judgeCue captured s).pending = s.pending ∧ (judgeCue captured s).resetAsserted = s.resetAsserted
      ∧ (judgeCue captured s).mp = s.mp ∧ (judgeCue captured s).cu = s.cu ∧ (judgeCue captured s).ao = s.ao
      ∧ (judgeCue captured s).lu = s.lu := by
  unfold judgeCue; (repeat' split) <;> simp

@[simp] theorem takeCue_frame (s : State) :
    (takeCue s).pending = s.pending ∧ (takeCue s).resetAsserted = s.resetAsserted ∧ (takeCue s).mp = s.mp
      ∧ (takeCue s).cu = s.cu ∧ (takeCue s).ao = s.ao ∧ (takeCue s).lu = s.lu := by
  unfold takeCue; (repeat' split) <;> simp

@[simp] theorem giveFreedBank_frame (bank : Bank) (s : State) :
    (giveFreedBank bank s).pending = s.pending ∧ (giveFreedBank bank s).resetAsserted = s.resetAsserted
      ∧ (giveFreedBank bank s).mp = s.mp ∧ (giveFreedBank bank s).cu = s.cu ∧ (giveFreedBank bank s).tb = s.tb
      ∧ (giveFreedBank bank s).ao = s.ao ∧ (giveFreedBank bank s).lu = s.lu ∧ (giveFreedBank bank s).ca = s.ca
      ∧ (giveFreedBank bank s).rc = s.rc ∧ (giveFreedBank bank s).ru = s.ru := by
  unfold giveFreedBank; (repeat' split) <;> simp

@[simp] theorem completeScan_frame (bank : Bank) (s : State) :
    (completeScan bank s).pending = s.pending ∧ (completeScan bank s).resetAsserted = s.resetAsserted
      ∧ (completeScan bank s).mp = s.mp ∧ (completeScan bank s).cu = s.cu ∧ (completeScan bank s).tb = s.tb
      ∧ (completeScan bank s).ao = s.ao ∧ (completeScan bank s).lu = s.lu ∧ (completeScan bank s).ca = s.ca := by
  unfold completeScan; (repeat' split) <;> simp

@[simp] theorem askHold_frame (e : OpenEntry) (reason : HoldReason) (start : Time) (s : State) :
    (askHold e reason start s).pending = s.pending ∧ (askHold e reason start s).resetAsserted = s.resetAsserted
      ∧ (askHold e reason start s).mp = s.mp ∧ (askHold e reason start s).cu = s.cu
      ∧ (askHold e reason start s).tb = s.tb ∧ (askHold e reason start s).ao = s.ao
      ∧ (askHold e reason start s).lu = s.lu ∧ (askHold e reason start s).ag = s.ag
      ∧ (askHold e reason start s).ca = s.ca := by
  unfold askHold; (repeat' split) <;> simp

@[simp] theorem becomeActive_frame (s : State) :
    (becomeActive s).pending = s.pending ∧ (becomeActive s).resetAsserted = s.resetAsserted
      ∧ (becomeActive s).mp = s.mp ∧ (becomeActive s).cu = s.cu ∧ (becomeActive s).tb = s.tb
      ∧ (becomeActive s).ao = s.ao ∧ (becomeActive s).lu = s.lu ∧ (becomeActive s).ca = s.ca
      ∧ (becomeActive s).su = s.su ∧ (becomeActive s).rc = s.rc := by
  unfold becomeActive; (repeat' split) <;> simp

@[simp] theorem becomeQuiet_frame (s : State) :
    (becomeQuiet s).pending = s.pending ∧ (becomeQuiet s).resetAsserted = s.resetAsserted
      ∧ (becomeQuiet s).mp = s.mp ∧ (becomeQuiet s).cu = s.cu ∧ (becomeQuiet s).tb = s.tb
      ∧ (becomeQuiet s).ao = s.ao ∧ (becomeQuiet s).lu = s.lu ∧ (becomeQuiet s).ca = s.ca
      ∧ (becomeQuiet s).su = s.su ∧ (becomeQuiet s).rc = s.rc ∧ (becomeQuiet s).ru = s.ru := by
  simp [becomeQuiet]

@[simp] theorem decideActivity_frame (level : Option Int) (s : State) :
    (decideActivity level s).pending = s.pending ∧ (decideActivity level s).resetAsserted = s.resetAsserted
      ∧ (decideActivity level s).mp = s.mp ∧ (decideActivity level s).cu = s.cu
      ∧ (decideActivity level s).tb = s.tb ∧ (decideActivity level s).ao = s.ao
      ∧ (decideActivity level s).lu = s.lu ∧ (decideActivity level s).ca = s.ca
      ∧ (decideActivity level s).su = s.su ∧ (decideActivity level s).rc = s.rc := by
  unfold decideActivity; (repeat' split) <;> simp

@[simp] theorem beginDeadAir_frame (s : State) :
    (beginDeadAir s).pending = s.pending ∧ (beginDeadAir s).resetAsserted = s.resetAsserted
      ∧ (beginDeadAir s).mp = s.mp ∧ (beginDeadAir s).cu = s.cu ∧ (beginDeadAir s).tb = s.tb
      ∧ (beginDeadAir s).ao = s.ao ∧ (beginDeadAir s).lu = s.lu ∧ (beginDeadAir s).ag = s.ag
      ∧ (beginDeadAir s).ca = s.ca := by
  unfold beginDeadAir; (repeat' split) <;> simp

@[simp] theorem activityTick_frame (s : State) :
    (activityTick s).pending = s.pending ∧ (activityTick s).resetAsserted = s.resetAsserted
      ∧ (activityTick s).mp = s.mp ∧ (activityTick s).cu = s.cu ∧ (activityTick s).tb = s.tb
      ∧ (activityTick s).ao = s.ao ∧ (activityTick s).lu = s.lu ∧ (activityTick s).ca = s.ca := by
  unfold activityTick; dsimp only; (repeat' split) <;> simp

@[simp] theorem gateBlock_frame (level : Option Int) (attributed : Bool) (s : State) :
    (gateBlock level attributed s).pending = s.pending
      ∧ (gateBlock level attributed s).resetAsserted = s.resetAsserted ∧ (gateBlock level attributed s).mp = s.mp
      ∧ (gateBlock level attributed s).cu = s.cu ∧ (gateBlock level attributed s).tb = s.tb
      ∧ (gateBlock level attributed s).ao = s.ao ∧ (gateBlock level attributed s).lu = s.lu
      ∧ (gateBlock level attributed s).ca = s.ca ∧ (gateBlock level attributed s).rc = s.rc
      ∧ (gateBlock level attributed s).ru = s.ru := by
  unfold gateBlock; (repeat' split) <;> simp

@[simp] theorem takeHeader_frame (offset : Nat) (b : WBeat) (s : State) :
    (takeHeader offset b s).pending = s.pending ∧ (takeHeader offset b s).resetAsserted = s.resetAsserted
      ∧ (takeHeader offset b s).mp = s.mp ∧ (takeHeader offset b s).cu = s.cu ∧ (takeHeader offset b s).tb = s.tb
      ∧ (takeHeader offset b s).ao = s.ao ∧ (takeHeader offset b s).lu = s.lu ∧ (takeHeader offset b s).ag = s.ag
      ∧ (takeHeader offset b s).rc = s.rc ∧ (takeHeader offset b s).ru = s.ru := by
  unfold takeHeader; (repeat' split) <;> simp

@[simp] theorem takeQualifying_frame (u : UnitShadow) (e : OpenEntry) (s : State) :
    (takeQualifying u e s).pending = s.pending ∧ (takeQualifying u e s).resetAsserted = s.resetAsserted
      ∧ (takeQualifying u e s).mp = s.mp ∧ (takeQualifying u e s).cu = s.cu ∧ (takeQualifying u e s).tb = s.tb
      ∧ (takeQualifying u e s).ao = s.ao ∧ (takeQualifying u e s).lu = s.lu ∧ (takeQualifying u e s).ag = s.ag
      ∧ (takeQualifying u e s).rc = s.rc := by
  unfold takeQualifying; (repeat' split) <;> simp

@[simp] theorem commitUnit_frame (u : UnitShadow) (s : State) :
    (commitUnit u s).pending = s.pending ∧ (commitUnit u s).resetAsserted = s.resetAsserted
      ∧ (commitUnit u s).mp = s.mp ∧ (commitUnit u s).cu = s.cu ∧ (commitUnit u s).tb = s.tb
      ∧ (commitUnit u s).ao = s.ao ∧ (commitUnit u s).lu = s.lu ∧ (commitUnit u s).ag = s.ag
      ∧ (commitUnit u s).rc = s.rc := by
  unfold commitUnit; (repeat' split) <;> simp

@[simp] theorem continueUnit_frame (u : UnitShadow) (offset : Nat) (b : WBeat) (s : State) :
    (continueUnit u offset b s).pending = s.pending ∧ (continueUnit u offset b s).resetAsserted = s.resetAsserted
      ∧ (continueUnit u offset b s).mp = s.mp ∧ (continueUnit u offset b s).cu = s.cu
      ∧ (continueUnit u offset b s).tb = s.tb ∧ (continueUnit u offset b s).ao = s.ao
      ∧ (continueUnit u offset b s).lu = s.lu ∧ (continueUnit u offset b s).ag = s.ag
      ∧ (continueUnit u offset b s).rc = s.rc := by
  unfold continueUnit; dsimp only; (repeat' split) <;> simp

@[simp] theorem tearUnit_frame (u : UnitShadow) (offset : Nat) (s : State) :
    (tearUnit u offset s).pending = s.pending ∧ (tearUnit u offset s).resetAsserted = s.resetAsserted
      ∧ (tearUnit u offset s).mp = s.mp ∧ (tearUnit u offset s).cu = s.cu ∧ (tearUnit u offset s).tb = s.tb
      ∧ (tearUnit u offset s).ao = s.ao ∧ (tearUnit u offset s).lu = s.lu ∧ (tearUnit u offset s).ag = s.ag
      ∧ (tearUnit u offset s).rc = s.rc := by
  unfold tearUnit; dsimp only; (repeat' split) <;> simp

@[simp] theorem captionBeatEvent_frame (c : CaptionBeat) (s : State) :
    (captionBeatEvent c s).pending = s.pending ∧ (captionBeatEvent c s).resetAsserted = s.resetAsserted
      ∧ (captionBeatEvent c s).mp = s.mp ∧ (captionBeatEvent c s).cu = s.cu ∧ (captionBeatEvent c s).tb = s.tb
      ∧ (captionBeatEvent c s).ao = s.ao ∧ (captionBeatEvent c s).lu = s.lu ∧ (captionBeatEvent c s).ag = s.ag
      ∧ (captionBeatEvent c s).rc = s.rc := by
  unfold captionBeatEvent; (repeat' split) <;> simp

@[simp] theorem takeCaption_frame (s : State) :
    (takeCaption s).pending = s.pending ∧ (takeCaption s).resetAsserted = s.resetAsserted
      ∧ (takeCaption s).mp = s.mp ∧ (takeCaption s).cu = s.cu ∧ (takeCaption s).tb = s.tb
      ∧ (takeCaption s).ao = s.ao ∧ (takeCaption s).lu = s.lu ∧ (takeCaption s).ag = s.ag
      ∧ (takeCaption s).rc = s.rc := by
  unfold takeCaption; (repeat' split) <;> simp

@[simp] theorem repeatCaption_frame (n : Nat) (s : State) :
    (repeatStep takeCaption n s).pending = s.pending ∧ (repeatStep takeCaption n s).resetAsserted = s.resetAsserted
      ∧ (repeatStep takeCaption n s).mp = s.mp ∧ (repeatStep takeCaption n s).cu = s.cu
      ∧ (repeatStep takeCaption n s).tb = s.tb ∧ (repeatStep takeCaption n s).ao = s.ao
      ∧ (repeatStep takeCaption n s).lu = s.lu ∧ (repeatStep takeCaption n s).ag = s.ag
      ∧ (repeatStep takeCaption n s).rc = s.rc := by
  induction n generalizing s with
  | zero => simp [repeatStep]
  | succ n ih => unfold repeatStep; simp [ih]

@[simp] theorem beginGap_frame (s : State) :
    (beginGap s).pending = s.pending ∧ (beginGap s).resetAsserted = s.resetAsserted ∧ (beginGap s).mp = s.mp
      ∧ (beginGap s).cu = s.cu ∧ (beginGap s).tb = s.tb ∧ (beginGap s).ao = s.ao ∧ (beginGap s).lu = s.lu
      ∧ (beginGap s).ag = s.ag ∧ (beginGap s).ca = s.ca := by
  unfold beginGap; (repeat' split) <;> simp

@[simp] theorem captionTick_frame (s : State) :
    (captionTick s).pending = s.pending ∧ (captionTick s).resetAsserted = s.resetAsserted
      ∧ (captionTick s).mp = s.mp ∧ (captionTick s).cu = s.cu ∧ (captionTick s).tb = s.tb
      ∧ (captionTick s).ao = s.ao ∧ (captionTick s).lu = s.lu ∧ (captionTick s).ag = s.ag := by
  unfold captionTick; dsimp only; (repeat' split) <;> simp

@[simp] theorem abandon_frame (s : State) :
    (abandon s).pending = s.pending ∧ (abandon s).resetAsserted = s.resetAsserted ∧ (abandon s).mp = s.mp
      ∧ (abandon s).cu = s.cu ∧ (abandon s).tb = s.tb ∧ (abandon s).ca = s.ca ∧ (abandon s).su = s.su
      ∧ (abandon s).rc = s.rc ∧ (abandon s).ru = s.ru := by
  simp [abandon]

@[simp] theorem offerAudioState_frame (cause : AudioCause) (before : Engine) (s : State) :
    (offerAudioState cause before s).pending = s.pending
      ∧ (offerAudioState cause before s).resetAsserted = s.resetAsserted
      ∧ (offerAudioState cause before s).mp = s.mp ∧ (offerAudioState cause before s).cu = s.cu
      ∧ (offerAudioState cause before s).tb = s.tb ∧ (offerAudioState cause before s).ao = s.ao
      ∧ (offerAudioState cause before s).lu = s.lu ∧ (offerAudioState cause before s).ag = s.ag
      ∧ (offerAudioState cause before s).ca = s.ca ∧ (offerAudioState cause before s).su = s.su
      ∧ (offerAudioState cause before s).rc = s.rc := by
  simp [offerAudioState]

@[simp] theorem takeDescriptor_frame (s : State) :
    (takeDescriptor s).pending = s.pending ∧ (takeDescriptor s).resetAsserted = s.resetAsserted
      ∧ (takeDescriptor s).mp = s.mp ∧ (takeDescriptor s).cu = s.cu ∧ (takeDescriptor s).tb = s.tb
      ∧ (takeDescriptor s).ca = s.ca ∧ (takeDescriptor s).su = s.su ∧ (takeDescriptor s).rc = s.rc := by
  simp [takeDescriptor]

@[simp] theorem descriptorBeatEvent_frame (offset : Nat) (b : WBeat) (s : State) :
    (descriptorBeatEvent offset b s).pending = s.pending
      ∧ (descriptorBeatEvent offset b s).resetAsserted = s.resetAsserted
      ∧ (descriptorBeatEvent offset b s).mp = s.mp ∧ (descriptorBeatEvent offset b s).cu = s.cu
      ∧ (descriptorBeatEvent offset b s).tb = s.tb ∧ (descriptorBeatEvent offset b s).ca = s.ca
      ∧ (descriptorBeatEvent offset b s).su = s.su ∧ (descriptorBeatEvent offset b s).rc = s.rc := by
  unfold descriptorBeatEvent; (repeat' split) <;> simp

@[simp] theorem sumSample_frame (b : SubBlock) (c : Nat) (v : Int) (s : State) :
    (sumSample b c v s).pending = s.pending ∧ (sumSample b c v s).resetAsserted = s.resetAsserted
      ∧ (sumSample b c v s).mp = s.mp ∧ (sumSample b c v s).cu = s.cu ∧ (sumSample b c v s).tb = s.tb
      ∧ (sumSample b c v s).lu = s.lu ∧ (sumSample b c v s).ag = s.ag ∧ (sumSample b c v s).ca = s.ca
      ∧ (sumSample b c v s).rc = s.rc ∧ (sumSample b c v s).ru = s.ru := by
  simp [sumSample]

@[simp] theorem breakStream_frame (s : State) :
    (breakStream s).pending = s.pending ∧ (breakStream s).resetAsserted = s.resetAsserted
      ∧ (breakStream s).mp = s.mp ∧ (breakStream s).cu = s.cu ∧ (breakStream s).tb = s.tb
      ∧ (breakStream s).ca = s.ca ∧ (breakStream s).rc = s.rc ∧ (breakStream s).ru = s.ru := by
  simp [breakStream]

@[simp] theorem frameAccepted_frame (s : State) :
    (frameAccepted s).pending = s.pending ∧ (frameAccepted s).resetAsserted = s.resetAsserted
      ∧ (frameAccepted s).mp = s.mp ∧ (frameAccepted s).cu = s.cu ∧ (frameAccepted s).ao = s.ao
      ∧ (frameAccepted s).lu = s.lu ∧ (frameAccepted s).ag = s.ag ∧ (frameAccepted s).ca = s.ca
      ∧ (frameAccepted s).su = s.su ∧ (frameAccepted s).rc = s.rc ∧ (frameAccepted s).ru = s.ru := by
  unfold frameAccepted; (repeat' split) <;> simp

@[simp] theorem advanceFrame_frame (s : State) :
    (advanceFrame s).pending = s.pending ∧ (advanceFrame s).resetAsserted = s.resetAsserted
      ∧ (advanceFrame s).mp = s.mp ∧ (advanceFrame s).cu = s.cu ∧ (advanceFrame s).lu = s.lu
      ∧ (advanceFrame s).ag = s.ag ∧ (advanceFrame s).ca = s.ca ∧ (advanceFrame s).su = s.su
      ∧ (advanceFrame s).rc = s.rc ∧ (advanceFrame s).ru = s.ru := by
  unfold advanceFrame; dsimp only; (repeat' split) <;> simp

@[simp] theorem resumeEngine_frame (s : State) :
    (resumeEngine s).pending = s.pending ∧ (resumeEngine s).resetAsserted = s.resetAsserted
      ∧ (resumeEngine s).mp = s.mp ∧ (resumeEngine s).cu = s.cu ∧ (resumeEngine s).tb = s.tb
      ∧ (resumeEngine s).lu = s.lu ∧ (resumeEngine s).ag = s.ag ∧ (resumeEngine s).ca = s.ca
      ∧ (resumeEngine s).su = s.su ∧ (resumeEngine s).rc = s.rc := by
  unfold resumeEngine; dsimp only; (repeat' split) <;> simp

@[simp] theorem acceptSample_frame (v : Int) (s : State) :
    (acceptSample v s).pending = s.pending ∧ (acceptSample v s).resetAsserted = s.resetAsserted
      ∧ (acceptSample v s).mp = s.mp ∧ (acceptSample v s).cu = s.cu ∧ (acceptSample v s).tb = s.tb
      ∧ (acceptSample v s).lu = s.lu ∧ (acceptSample v s).ag = s.ag ∧ (acceptSample v s).ca = s.ca
      ∧ (acceptSample v s).rc = s.rc ∧ (acceptSample v s).ru = s.ru := by
  unfold acceptSample; (repeat' split) <;> simp

@[simp] theorem acceptWord_frame (offset : Nat) (data : BitVec 32) (s : State) :
    (acceptWord offset data s).pending = s.pending ∧ (acceptWord offset data s).resetAsserted = s.resetAsserted
      ∧ (acceptWord offset data s).mp = s.mp ∧ (acceptWord offset data s).cu = s.cu
      ∧ (acceptWord offset data s).lu = s.lu ∧ (acceptWord offset data s).ag = s.ag
      ∧ (acceptWord offset data s).ca = s.ca ∧ (acceptWord offset data s).rc = s.rc := by
  simp [acceptWord]

@[simp] theorem sampleWordEvent_frame (offset : Nat) (data : BitVec 32) (enables : BitVec 4) (s : State) :
    (sampleWordEvent offset data enables s).pending = s.pending
      ∧ (sampleWordEvent offset data enables s).resetAsserted = s.resetAsserted
      ∧ (sampleWordEvent offset data enables s).mp = s.mp ∧ (sampleWordEvent offset data enables s).cu = s.cu
      ∧ (sampleWordEvent offset data enables s).ca = s.ca ∧ (sampleWordEvent offset data enables s).rc = s.rc := by
  unfold sampleWordEvent; (repeat' split) <;> simp

@[simp] theorem audioItemEvent_frame (i : AudioItem) (s : State) :
    (audioItemEvent i s).pending = s.pending ∧ (audioItemEvent i s).resetAsserted = s.resetAsserted
      ∧ (audioItemEvent i s).mp = s.mp ∧ (audioItemEvent i s).cu = s.cu ∧ (audioItemEvent i s).ca = s.ca
      ∧ (audioItemEvent i s).rc = s.rc := by
  unfold audioItemEvent; (repeat' split) <;> simp

@[simp] theorem checkCeiling_frame (level : Int) (s : State) :
    (checkCeiling level s).pending = s.pending ∧ (checkCeiling level s).resetAsserted = s.resetAsserted
      ∧ (checkCeiling level s).mp = s.mp ∧ (checkCeiling level s).cu = s.cu ∧ (checkCeiling level s).tb = s.tb
      ∧ (checkCeiling level s).ao = s.ao ∧ (checkCeiling level s).lu = s.lu ∧ (checkCeiling level s).ag = s.ag
      ∧ (checkCeiling level s).ca = s.ca := by
  unfold checkCeiling; dsimp only; (repeat' split) <;> simp

@[simp] theorem momentaryStep_frame (s : State) :
    (momentaryStep s).pending = s.pending ∧ (momentaryStep s).resetAsserted = s.resetAsserted
      ∧ (momentaryStep s).mp = s.mp ∧ (momentaryStep s).cu = s.cu ∧ (momentaryStep s).tb = s.tb
      ∧ (momentaryStep s).ao = s.ao ∧ (momentaryStep s).ag = s.ag ∧ (momentaryStep s).ca = s.ca
      ∧ (momentaryStep s).rc = s.rc ∧ (momentaryStep s).ru = s.ru := by
  unfold momentaryStep; dsimp only; (repeat' split) <;> simp

@[simp] theorem shortTermStep_frame (s : State) :
    (shortTermStep s).pending = s.pending ∧ (shortTermStep s).resetAsserted = s.resetAsserted
      ∧ (shortTermStep s).mp = s.mp ∧ (shortTermStep s).cu = s.cu ∧ (shortTermStep s).tb = s.tb
      ∧ (shortTermStep s).ao = s.ao ∧ (shortTermStep s).ag = s.ag ∧ (shortTermStep s).ca = s.ca := by
  unfold shortTermStep; dsimp only; (repeat' split) <;> simp

@[simp] theorem completionTail_frame (b : SubBlock) (s : State) :
    (completionTail b s).pending = s.pending ∧ (completionTail b s).resetAsserted = s.resetAsserted
      ∧ (completionTail b s).mp = s.mp ∧ (completionTail b s).cu = s.cu ∧ (completionTail b s).tb = s.tb
      ∧ (completionTail b s).ao = s.ao ∧ (completionTail b s).ca = s.ca := by
  simp [completionTail]

@[simp] theorem completeSubBlock_frame (s : State) :
    (completeSubBlock s).pending = s.pending ∧ (completeSubBlock s).resetAsserted = s.resetAsserted
      ∧ (completeSubBlock s).mp = s.mp ∧ (completeSubBlock s).cu = s.cu ∧ (completeSubBlock s).tb = s.tb
      ∧ (completeSubBlock s).ca = s.ca := by
  unfold completeSubBlock; (repeat' split) <;> simp

@[simp] theorem enterStalled_frame (s : State) :
    (enterStalled s).pending = s.pending ∧ (enterStalled s).resetAsserted = s.resetAsserted
      ∧ (enterStalled s).mp = s.mp ∧ (enterStalled s).cu = s.cu ∧ (enterStalled s).tb = s.tb
      ∧ (enterStalled s).ca = s.ca ∧ (enterStalled s).su = s.su ∧ (enterStalled s).rc = s.rc := by
  simp [enterStalled]

@[simp] theorem observerTick_frame (s : State) :
    (observerTick s).pending = s.pending ∧ (observerTick s).resetAsserted = s.resetAsserted
      ∧ (observerTick s).mp = s.mp ∧ (observerTick s).cu = s.cu ∧ (observerTick s).tb = s.tb
      ∧ (observerTick s).ca = s.ca ∧ (observerTick s).su = s.su ∧ (observerTick s).rc = s.rc := by
  unfold observerTick; dsimp only; (repeat' split) <;> simp

@[simp] theorem scheduleTick_frame (s : State) :
    (scheduleTick s).pending = s.pending ∧ (scheduleTick s).resetAsserted = s.resetAsserted
      ∧ (scheduleTick s).mp = s.mp ∧ (scheduleTick s).cu = s.cu ∧ (scheduleTick s).tb = s.tb
      ∧ (scheduleTick s).ao = s.ao ∧ (scheduleTick s).lu = s.lu ∧ (scheduleTick s).ag = s.ag
      ∧ (scheduleTick s).ca = s.ca ∧ (scheduleTick s).rc = s.rc ∧ (scheduleTick s).ru = s.ru := by
  simp [scheduleTick]

@[simp] theorem setOwed_frame (o : TickSet) (s : State) :
    (setOwed o s).pending = s.pending ∧ (setOwed o s).resetAsserted = s.resetAsserted ∧ (setOwed o s).mp = s.mp
      ∧ (setOwed o s).cu = s.cu ∧ (setOwed o s).ao = s.ao ∧ (setOwed o s).lu = s.lu ∧ (setOwed o s).ag = s.ag
      ∧ (setOwed o s).ca = s.ca ∧ (setOwed o s).su = s.su ∧ (setOwed o s).rc = s.rc ∧ (setOwed o s).ru = s.ru := by
  simp [setOwed]

@[simp] theorem takeObserverTick_frame (s : State) :
    (takeObserverTick s).pending = s.pending ∧ (takeObserverTick s).resetAsserted = s.resetAsserted
      ∧ (takeObserverTick s).mp = s.mp ∧ (takeObserverTick s).cu = s.cu ∧ (takeObserverTick s).ca = s.ca
      ∧ (takeObserverTick s).su = s.su ∧ (takeObserverTick s).rc = s.rc := by
  unfold takeObserverTick; (repeat' split) <;> simp

@[simp] theorem takeActivityTick_frame (s : State) :
    (takeActivityTick s).pending = s.pending ∧ (takeActivityTick s).resetAsserted = s.resetAsserted
      ∧ (takeActivityTick s).mp = s.mp ∧ (takeActivityTick s).cu = s.cu ∧ (takeActivityTick s).ao = s.ao
      ∧ (takeActivityTick s).lu = s.lu ∧ (takeActivityTick s).ca = s.ca := by
  unfold takeActivityTick; (repeat' split) <;> simp

@[simp] theorem takeCaptionTick_frame (s : State) :
    (takeCaptionTick s).pending = s.pending ∧ (takeCaptionTick s).resetAsserted = s.resetAsserted
      ∧ (takeCaptionTick s).mp = s.mp ∧ (takeCaptionTick s).cu = s.cu ∧ (takeCaptionTick s).ao = s.ao
      ∧ (takeCaptionTick s).lu = s.lu ∧ (takeCaptionTick s).ag = s.ag := by
  unfold takeCaptionTick; (repeat' split) <;> simp

@[simp] theorem takeScheduleTick_frame (s : State) :
    (takeScheduleTick s).pending = s.pending ∧ (takeScheduleTick s).resetAsserted = s.resetAsserted
      ∧ (takeScheduleTick s).mp = s.mp ∧ (takeScheduleTick s).cu = s.cu ∧ (takeScheduleTick s).ao = s.ao
      ∧ (takeScheduleTick s).lu = s.lu ∧ (takeScheduleTick s).ag = s.ag ∧ (takeScheduleTick s).ca = s.ca
      ∧ (takeScheduleTick s).rc = s.rc ∧ (takeScheduleTick s).ru = s.ru := by
  unfold takeScheduleTick; (repeat' split) <;> simp

@[simp] theorem takeReportTick_frame (s : State) :
    (takeReportTick s).pending = s.pending ∧ (takeReportTick s).resetAsserted = s.resetAsserted
      ∧ (takeReportTick s).mp = s.mp ∧ (takeReportTick s).cu = s.cu ∧ (takeReportTick s).ao = s.ao
      ∧ (takeReportTick s).lu = s.lu ∧ (takeReportTick s).ag = s.ag ∧ (takeReportTick s).ca = s.ca
      ∧ (takeReportTick s).su = s.su ∧ (takeReportTick s).rc = s.rc := by
  unfold takeReportTick; (repeat' split) <;> simp

@[simp] theorem takeOwedTicks_frame (s : State) :
    (takeOwedTicks s).pending = s.pending ∧ (takeOwedTicks s).resetAsserted = s.resetAsserted
      ∧ (takeOwedTicks s).mp = s.mp ∧ (takeOwedTicks s).cu = s.cu := by
  simp [takeOwedTicks]

@[simp] theorem offerTick_frame (later : TickSet) (s : State) :
    (offerTick later s).pending = s.pending ∧ (offerTick later s).resetAsserted = s.resetAsserted
      ∧ (offerTick later s).mp = s.mp ∧ (offerTick later s).cu = s.cu := by
  simp [offerTick]

@[simp] theorem takeCues_frame (l : List Time) (s : State) :
    (takeCues l s).pending = s.pending ∧ (takeCues l s).resetAsserted = s.resetAsserted ∧ (takeCues l s).mp = s.mp
      ∧ (takeCues l s).cu = s.cu ∧ (takeCues l s).ao = s.ao ∧ (takeCues l s).lu = s.lu := by
  induction l generalizing s with
  | nil => simp [takeCues]
  | cons e l ih => unfold takeCues; simp [ih]

@[simp] theorem takeOffers_frame (s : State) :
    (takeOffers s).pending = s.pending ∧ (takeOffers s).resetAsserted = s.resetAsserted ∧ (takeOffers s).mp = s.mp
      ∧ (takeOffers s).cu = s.cu := by
  simp [takeOffers]

@[simp] theorem forceScans_frame (expired : Option ClosingSlot → Bool) (s : State) :
    (forceScans expired s).pending = s.pending ∧ (forceScans expired s).resetAsserted = s.resetAsserted
      ∧ (forceScans expired s).mp = s.mp ∧ (forceScans expired s).cu = s.cu ∧ (forceScans expired s).tb = s.tb
      ∧ (forceScans expired s).ao = s.ao ∧ (forceScans expired s).lu = s.lu ∧ (forceScans expired s).ca = s.ca := by
  unfold forceScans; dsimp only; (repeat' split) <;> simp

@[simp] theorem mapSlots_frame (f : ClosingSlot → ClosingSlot) (s : State) :
    (mapSlots f s).pending = s.pending ∧ (mapSlots f s).resetAsserted = s.resetAsserted ∧ (mapSlots f s).mp = s.mp
      ∧ (mapSlots f s).cu = s.cu ∧ (mapSlots f s).tb = s.tb ∧ (mapSlots f s).ao = s.ao ∧ (mapSlots f s).lu = s.lu
      ∧ (mapSlots f s).ag = s.ag ∧ (mapSlots f s).ca = s.ca ∧ (mapSlots f s).rc = s.rc
      ∧ (mapSlots f s).ru = s.ru := by
  simp [mapSlots]

@[simp] theorem tickEvent_frame (cueHigh : Bool) (later : TickSet) (s : State) :
    (tickEvent cueHigh later s).pending = s.pending ∧ (tickEvent cueHigh later s).resetAsserted = s.resetAsserted
      ∧ (tickEvent cueHigh later s).mp = s.mp ∧ (tickEvent cueHigh later s).cu = s.cu := by
  simp [tickEvent]

@[simp] theorem passEdges_frame (n : Nat) (s : State) :
    (passEdges n s).pending = s.pending ∧ (passEdges n s).resetAsserted = s.resetAsserted
      ∧ (passEdges n s).mp = s.mp ∧ (passEdges n s).cu = s.cu ∧ (passEdges n s).tb = s.tb
      ∧ (passEdges n s).ao = s.ao ∧ (passEdges n s).lu = s.lu ∧ (passEdges n s).ca = s.ca := by
  unfold passEdges; dsimp only; split <;> simp

@[simp] theorem edgeEvent_frame (cueHigh : Bool) (later : TickSet) (s : State) :
    (edgeEvent cueHigh later s).pending = s.pending ∧ (edgeEvent cueHigh later s).resetAsserted = s.resetAsserted
      ∧ (edgeEvent cueHigh later s).mp = s.mp ∧ (edgeEvent cueHigh later s).cu = s.cu := by
  unfold edgeEvent; dsimp only; (repeat' split) <;> simp

@[simp] theorem takeFrameTick_frame (later : TickSet) (s : State) :
    (takeFrameTick later s).pending = s.pending ∧ (takeFrameTick later s).resetAsserted = s.resetAsserted
      ∧ (takeFrameTick later s).mp = s.mp ∧ (takeFrameTick later s).cu = s.cu := by
  unfold takeFrameTick; (repeat' split) <;> simp

@[simp] theorem settleWord_frame (s : State) :
    (settleWord s).pending = s.pending ∧ (settleWord s).resetAsserted = s.resetAsserted ∧ (settleWord s).mp = s.mp
      ∧ (settleWord s).cu = s.cu := by
  simp [settleWord]

@[simp] theorem takeAudio_frame (s : State) :
    (takeAudio s).pending = s.pending ∧ (takeAudio s).resetAsserted = s.resetAsserted ∧ (takeAudio s).mp = s.mp
      ∧ (takeAudio s).cu = s.cu := by
  unfold takeAudio; dsimp only; (repeat' split) <;> simp

@[simp] theorem repeatAudio_frame (n : Nat) (s : State) :
    (repeatStep takeAudio n s).pending = s.pending ∧ (repeatStep takeAudio n s).resetAsserted = s.resetAsserted
      ∧ (repeatStep takeAudio n s).mp = s.mp ∧ (repeatStep takeAudio n s).cu = s.cu := by
  induction n generalizing s with
  | zero => simp [repeatStep]
  | succ n ih => unfold repeatStep; simp [ih]

@[simp] theorem drainOffers_frame (s : State) :
    (drainOffers s).pending = s.pending ∧ (drainOffers s).resetAsserted = s.resetAsserted
      ∧ (drainOffers s).mp = s.mp ∧ (drainOffers s).cu = s.cu := by
  simp [drainOffers]

@[simp] theorem popItem_frame (s : State) :
    (popItem s).pending = s.pending ∧ (popItem s).resetAsserted = s.resetAsserted ∧ (popItem s).mp = s.mp
      ∧ (popItem s).tb = s.tb ∧ (popItem s).ao = s.ao ∧ (popItem s).lu = s.lu ∧ (popItem s).ag = s.ag
      ∧ (popItem s).ca = s.ca ∧ (popItem s).su = s.su ∧ (popItem s).rc = s.rc ∧ (popItem s).ru = s.ru := by
  simp [popItem]

@[simp] theorem enterMode_frame (m : Mode) (s : State) :
    (enterMode m s).pending = s.pending ∧ (enterMode m s).resetAsserted = s.resetAsserted
      ∧ (enterMode m s).mp = s.mp ∧ (enterMode m s).ao = s.ao ∧ (enterMode m s).lu = s.lu
      ∧ (enterMode m s).ag = s.ag ∧ (enterMode m s).ca = s.ca ∧ (enterMode m s).su = s.su
      ∧ (enterMode m s).rc = s.rc ∧ (enterMode m s).ru = s.ru := by
  simp [enterMode]

@[simp] theorem startMode_frame (m : Mode) (s : State) :
    (startMode m s).pending = s.pending ∧ (startMode m s).resetAsserted = s.resetAsserted
      ∧ (startMode m s).mp = s.mp ∧ (startMode m s).ao = s.ao ∧ (startMode m s).lu = s.lu := by
  simp [startMode]

@[simp] theorem idleObservers_frame (shadow : Vector Beat 8) (caption : Caption → Caption) (s : State) :
    (idleObservers shadow caption s).pending = s.pending
      ∧ (idleObservers shadow caption s).resetAsserted = s.resetAsserted
      ∧ (idleObservers shadow caption s).mp = s.mp ∧ (idleObservers shadow caption s).cu = s.cu
      ∧ (idleObservers shadow caption s).tb = s.tb ∧ (idleObservers shadow caption s).su = s.su
      ∧ (idleObservers shadow caption s).rc = s.rc ∧ (idleObservers shadow caption s).ru = s.ru := by
  simp [idleObservers]

@[simp] theorem stopMode_frame (s : State) :
    (stopMode s).pending = s.pending ∧ (stopMode s).resetAsserted = s.resetAsserted ∧ (stopMode s).mp = s.mp
      ∧ (stopMode s).rc = s.rc := by
  simp [stopMode]

@[simp] theorem leaveForOff_frame (s : State) :
    (leaveForOff s).pending = s.pending ∧ (leaveForOff s).resetAsserted = s.resetAsserted
      ∧ (leaveForOff s).mp = s.mp ∧ (leaveForOff s).ao = s.ao ∧ (leaveForOff s).lu = s.lu
      ∧ (leaveForOff s).ag = s.ag ∧ (leaveForOff s).ca = s.ca ∧ (leaveForOff s).su = s.su
      ∧ (leaveForOff s).rc = s.rc ∧ (leaveForOff s).ru = s.ru := by
  unfold leaveForOff; (repeat' split) <;> simp

@[simp] theorem restartPart_frame (s : State) :
    (restartPart s).pending = s.pending ∧ (restartPart s).resetAsserted = s.resetAsserted
      ∧ (restartPart s).mp = s.mp := by
  simp [restartPart]

@[simp] theorem commitEntry_frame (e : Entry) (s : State) :
    (commitEntry e s).pending = s.pending ∧ (commitEntry e s).resetAsserted = s.resetAsserted
      ∧ (commitEntry e s).mp = s.mp ∧ (commitEntry e s).cu = s.cu ∧ (commitEntry e s).ao = s.ao
      ∧ (commitEntry e s).lu = s.lu := by
  unfold commitEntry; dsimp only; (repeat' split) <;> simp

@[simp] theorem formItem_frame (it : CmdItem) (s : State) :
    (formItem it s).pending = s.pending ∧ (formItem it s).resetAsserted = s.resetAsserted
      ∧ (formItem it s).mp = s.mp ∧ (formItem it s).tb = s.tb ∧ (formItem it s).ao = s.ao
      ∧ (formItem it s).lu = s.lu ∧ (formItem it s).ag = s.ag ∧ (formItem it s).ca = s.ca
      ∧ (formItem it s).su = s.su ∧ (formItem it s).rc = s.rc := by
  unfold formItem; (repeat' split) <;> simp

@[simp] theorem controlBeatEvent_frame (b : CtlBeat) (s : State) :
    (controlBeatEvent b s).pending = s.pending ∧ (controlBeatEvent b s).resetAsserted = s.resetAsserted
      ∧ (controlBeatEvent b s).mp = s.mp ∧ (controlBeatEvent b s).tb = s.tb ∧ (controlBeatEvent b s).ao = s.ao
      ∧ (controlBeatEvent b s).lu = s.lu ∧ (controlBeatEvent b s).ag = s.ag ∧ (controlBeatEvent b s).ca = s.ca
      ∧ (controlBeatEvent b s).su = s.su ∧ (controlBeatEvent b s).rc = s.rc := by
  unfold controlBeatEvent; (repeat' split) <;> simp

@[simp] theorem takeControlBeat_frame (s : State) :
    (takeControlBeat s).pending = s.pending ∧ (takeControlBeat s).resetAsserted = s.resetAsserted
      ∧ (takeControlBeat s).mp = s.mp ∧ (takeControlBeat s).tb = s.tb ∧ (takeControlBeat s).ao = s.ao
      ∧ (takeControlBeat s).lu = s.lu ∧ (takeControlBeat s).ag = s.ag ∧ (takeControlBeat s).ca = s.ca
      ∧ (takeControlBeat s).su = s.su ∧ (takeControlBeat s).rc = s.rc := by
  unfold takeControlBeat; (repeat' split) <;> simp

@[simp] theorem grantExport_frame (g : Segment) (it : CmdItem) (s : State) :
    (grantExport g it s).pending = s.pending ∧ (grantExport g it s).resetAsserted = s.resetAsserted
      ∧ (grantExport g it s).mp = s.mp ∧ (grantExport g it s).cu = s.cu ∧ (grantExport g it s).tb = s.tb
      ∧ (grantExport g it s).ao = s.ao ∧ (grantExport g it s).lu = s.lu ∧ (grantExport g it s).ag = s.ag
      ∧ (grantExport g it s).ca = s.ca ∧ (grantExport g it s).su = s.su := by
  simp [grantExport]

@[simp] theorem placeExport_frame (g : Segment) (it : CmdItem) (s : State) :
    (placeExport g it s).pending = s.pending ∧ (placeExport g it s).resetAsserted = s.resetAsserted
      ∧ (placeExport g it s).mp = s.mp ∧ (placeExport g it s).cu = s.cu ∧ (placeExport g it s).tb = s.tb
      ∧ (placeExport g it s).ao = s.ao ∧ (placeExport g it s).lu = s.lu ∧ (placeExport g it s).ag = s.ag
      ∧ (placeExport g it s).ca = s.ca ∧ (placeExport g it s).su = s.su ∧ (placeExport g it s).ru = s.ru := by
  simp [placeExport]

@[simp] theorem layRecord_frame (s : State) :
    (layRecord s).pending = s.pending ∧ (layRecord s).resetAsserted = s.resetAsserted ∧ (layRecord s).mp = s.mp
      ∧ (layRecord s).cu = s.cu ∧ (layRecord s).tb = s.tb ∧ (layRecord s).ao = s.ao ∧ (layRecord s).lu = s.lu
      ∧ (layRecord s).ag = s.ag ∧ (layRecord s).ca = s.ca ∧ (layRecord s).su = s.su ∧ (layRecord s).rc = s.rc := by
  unfold layRecord; (repeat' split) <;> simp

@[simp] theorem composeImage_frame (s : State) :
    (composeImage s).pending = s.pending ∧ (composeImage s).resetAsserted = s.resetAsserted
      ∧ (composeImage s).mp = s.mp ∧ (composeImage s).cu = s.cu ∧ (composeImage s).tb = s.tb
      ∧ (composeImage s).ao = s.ao ∧ (composeImage s).lu = s.lu ∧ (composeImage s).ag = s.ag
      ∧ (composeImage s).ca = s.ca ∧ (composeImage s).su = s.su ∧ (composeImage s).rc = s.rc := by
  unfold composeImage; (repeat' split) <;> simp

@[simp] theorem offerOwnWrite_frame (s : State) :
    (offerOwnWrite s).pending = s.pending ∧ (offerOwnWrite s).resetAsserted = s.resetAsserted
      ∧ (offerOwnWrite s).cu = s.cu ∧ (offerOwnWrite s).tb = s.tb ∧ (offerOwnWrite s).ao = s.ao
      ∧ (offerOwnWrite s).lu = s.lu ∧ (offerOwnWrite s).ag = s.ag ∧ (offerOwnWrite s).ca = s.ca
      ∧ (offerOwnWrite s).su = s.su ∧ (offerOwnWrite s).rc = s.rc := by
  unfold offerOwnWrite; (repeat' split) <;> simp

@[simp] theorem addTxn_frame (r : Request) (p : Progress) (s : State) :
    (addTxn r p s).pending = s.pending ∧ (addTxn r p s).resetAsserted = s.resetAsserted ∧ (addTxn r p s).cu = s.cu
      ∧ (addTxn r p s).tb = s.tb ∧ (addTxn r p s).ao = s.ao ∧ (addTxn r p s).lu = s.lu ∧ (addTxn r p s).ag = s.ag
      ∧ (addTxn r p s).ca = s.ca ∧ (addTxn r p s).su = s.su ∧ (addTxn r p s).rc = s.rc
      ∧ (addTxn r p s).ru = s.ru := by
  simp [addTxn]

@[simp] theorem chargeBlock_frame (index : Nat) (s : State) :
    (chargeBlock index s).pending = s.pending ∧ (chargeBlock index s).resetAsserted = s.resetAsserted
      ∧ (chargeBlock index s).cu = s.cu ∧ (chargeBlock index s).tb = s.tb ∧ (chargeBlock index s).ao = s.ao
      ∧ (chargeBlock index s).lu = s.lu ∧ (chargeBlock index s).ag = s.ag ∧ (chargeBlock index s).ca = s.ca
      ∧ (chargeBlock index s).su = s.su ∧ (chargeBlock index s).rc = s.rc ∧ (chargeBlock index s).ru = s.ru := by
  simp [chargeBlock]

@[simp] theorem reportBlock_frame (index : Nat) (reason : BlockReason) (r : Request) (s : State) :
    (reportBlock index reason r s).pending = s.pending
      ∧ (reportBlock index reason r s).resetAsserted = s.resetAsserted ∧ (reportBlock index reason r s).cu = s.cu
      ∧ (reportBlock index reason r s).tb = s.tb ∧ (reportBlock index reason r s).ao = s.ao
      ∧ (reportBlock index reason r s).lu = s.lu ∧ (reportBlock index reason r s).ag = s.ag
      ∧ (reportBlock index reason r s).ca = s.ca ∧ (reportBlock index reason r s).su = s.su
      ∧ (reportBlock index reason r s).rc = s.rc := by
  simp [reportBlock]

@[simp] theorem blockRequest_frame (index : Option Nat) (reason : BlockReason) (r : Request) (s : State) :
    (blockRequest index reason r s).pending = s.pending
      ∧ (blockRequest index reason r s).resetAsserted = s.resetAsserted ∧ (blockRequest index reason r s).cu = s.cu
      ∧ (blockRequest index reason r s).tb = s.tb ∧ (blockRequest index reason r s).ao = s.ao
      ∧ (blockRequest index reason r s).lu = s.lu ∧ (blockRequest index reason r s).ag = s.ag
      ∧ (blockRequest index reason r s).ca = s.ca ∧ (blockRequest index reason r s).su = s.su
      ∧ (blockRequest index reason r s).rc = s.rc := by
  unfold blockRequest; dsimp only; (repeat' split) <;> simp

@[simp] theorem handControl_frame (r : Request) (s : State) :
    (handControl r s).pending = s.pending ∧ (handControl r s).resetAsserted = s.resetAsserted
      ∧ (handControl r s).mp = s.mp ∧ (handControl r s).tb = s.tb ∧ (handControl r s).ao = s.ao
      ∧ (handControl r s).lu = s.lu ∧ (handControl r s).ag = s.ag ∧ (handControl r s).ca = s.ca
      ∧ (handControl r s).su = s.su ∧ (handControl r s).rc = s.rc ∧ (handControl r s).ru = s.ru := by
  simp [handControl]

@[simp] theorem handObserver_frame (w : Window) (r : Request) (s : State) :
    (handObserver w r s).pending = s.pending ∧ (handObserver w r s).resetAsserted = s.resetAsserted
      ∧ (handObserver w r s).mp = s.mp ∧ (handObserver w r s).cu = s.cu ∧ (handObserver w r s).tb = s.tb
      ∧ (handObserver w r s).lu = s.lu ∧ (handObserver w r s).ag = s.ag ∧ (handObserver w r s).su = s.su
      ∧ (handObserver w r s).rc = s.rc ∧ (handObserver w r s).ru = s.ru := by
  unfold handObserver; (repeat' split) <;> simp

@[simp] theorem handOver_frame (r : Request) (s : State) :
    (handOver r s).pending = s.pending ∧ (handOver r s).resetAsserted = s.resetAsserted ∧ (handOver r s).mp = s.mp
      ∧ (handOver r s).tb = s.tb ∧ (handOver r s).lu = s.lu ∧ (handOver r s).ag = s.ag ∧ (handOver r s).su = s.su
      ∧ (handOver r s).rc = s.rc ∧ (handOver r s).ru = s.ru := by
  unfold handOver; (repeat' split) <;> simp

@[simp] theorem forwardRequest_frame (r : Request) (s : State) :
    (forwardRequest r s).pending = s.pending ∧ (forwardRequest r s).resetAsserted = s.resetAsserted
      ∧ (forwardRequest r s).tb = s.tb ∧ (forwardRequest r s).lu = s.lu ∧ (forwardRequest r s).ag = s.ag
      ∧ (forwardRequest r s).su = s.su ∧ (forwardRequest r s).rc = s.rc ∧ (forwardRequest r s).ru = s.ru := by
  simp [forwardRequest]

@[simp] theorem presentWrite_frame (slot : Nat) (w : Window) (r : Request) (s : State) :
    (presentWrite slot w r s).pending = s.pending ∧ (presentWrite slot w r s).resetAsserted = s.resetAsserted
      ∧ (presentWrite slot w r s).cu = s.cu ∧ (presentWrite slot w r s).tb = s.tb
      ∧ (presentWrite slot w r s).ao = s.ao ∧ (presentWrite slot w r s).lu = s.lu
      ∧ (presentWrite slot w r s).ag = s.ag ∧ (presentWrite slot w r s).ca = s.ca
      ∧ (presentWrite slot w r s).su = s.su := by
  unfold presentWrite; dsimp only; (repeat' split) <;> simp

@[simp] theorem takeRequest_frame (r : Request) (s : State) :
    (takeRequest r s).pending = s.pending ∧ (takeRequest r s).resetAsserted = s.resetAsserted
      ∧ (takeRequest r s).tb = s.tb ∧ (takeRequest r s).lu = s.lu ∧ (takeRequest r s).ag = s.ag
      ∧ (takeRequest r s).su = s.su := by
  unfold takeRequest; (repeat' split) <;> simp

@[simp] theorem answerReturn_frame (m : Master) (s : State) :
    (answerReturn m s).pending = s.pending ∧ (answerReturn m s).resetAsserted = s.resetAsserted
      ∧ (answerReturn m s).cu = s.cu ∧ (answerReturn m s).tb = s.tb ∧ (answerReturn m s).ao = s.ao
      ∧ (answerReturn m s).lu = s.lu ∧ (answerReturn m s).ag = s.ag ∧ (answerReturn m s).ca = s.ca
      ∧ (answerReturn m s).su = s.su ∧ (answerReturn m s).rc = s.rc ∧ (answerReturn m s).ru = s.ru := by
  unfold answerReturn; (repeat' split) <;> simp

@[simp] theorem completePass_frame (t : Txn) (data : List Beat) (s : State) :
    (completePass t data s).pending = s.pending ∧ (completePass t data s).resetAsserted = s.resetAsserted
      ∧ (completePass t data s).cu = s.cu ∧ (completePass t data s).tb = s.tb ∧ (completePass t data s).ao = s.ao
      ∧ (completePass t data s).lu = s.lu ∧ (completePass t data s).ag = s.ag ∧ (completePass t data s).ca = s.ca
      ∧ (completePass t data s).su = s.su ∧ (completePass t data s).rc = s.rc
      ∧ (completePass t data s).ru = s.ru := by
  simp [completePass]

@[simp] theorem audioWindowChanged_frame (s : State) :
    (audioWindowChanged s).pending = s.pending ∧ (audioWindowChanged s).resetAsserted = s.resetAsserted
      ∧ (audioWindowChanged s).mp = s.mp ∧ (audioWindowChanged s).cu = s.cu ∧ (audioWindowChanged s).tb = s.tb
      ∧ (audioWindowChanged s).ca = s.ca ∧ (audioWindowChanged s).su = s.su ∧ (audioWindowChanged s).rc = s.rc
      ∧ (audioWindowChanged s).ru = s.ru := by
  simp [audioWindowChanged]

@[simp] theorem tellOwners_frame (old new : Option Window) (s : State) :
    (tellOwners old new s).pending = s.pending ∧ (tellOwners old new s).resetAsserted = s.resetAsserted
      ∧ (tellOwners old new s).mp = s.mp ∧ (tellOwners old new s).cu = s.cu ∧ (tellOwners old new s).tb = s.tb
      ∧ (tellOwners old new s).su = s.su := by
  unfold tellOwners; (repeat' split) <;> simp

@[simp] theorem commitWindow_frame (slot : Nat) (new : Option Window) (s : State) :
    (commitWindow slot new s).pending = s.pending ∧ (commitWindow slot new s).resetAsserted = s.resetAsserted
      ∧ (commitWindow slot new s).cu = s.cu ∧ (commitWindow slot new s).tb = s.tb
      ∧ (commitWindow slot new s).su = s.su := by
  simp [commitWindow]

@[simp] theorem tickRow_frame (cueHigh : Bool) (later : TickSet) (s : State) :
    (tickRow cueHigh later s).pending = s.pending ∧ (tickRow cueHigh later s).resetAsserted = s.resetAsserted
      ∧ (tickRow cueHigh later s).mp = s.mp ∧ (tickRow cueHigh later s).cu = s.cu := by
  unfold tickRow; (repeat' split) <;> simp

@[simp] theorem ownWriteCompletion_frame (s : State) :
    (ownWriteCompletion s).pending = s.pending ∧ (ownWriteCompletion s).resetAsserted = s.resetAsserted
      ∧ (ownWriteCompletion s).cu = s.cu ∧ (ownWriteCompletion s).tb = s.tb ∧ (ownWriteCompletion s).ao = s.ao
      ∧ (ownWriteCompletion s).lu = s.lu ∧ (ownWriteCompletion s).ag = s.ag ∧ (ownWriteCompletion s).ca = s.ca
      ∧ (ownWriteCompletion s).su = s.su ∧ (ownWriteCompletion s).rc = s.rc ∧ (ownWriteCompletion s).ru = s.ru := by
  unfold ownWriteCompletion; (repeat' split) <;> simp

@[simp] theorem takeItem_frame (mine : AudioItem → Bool) (s : State) :
    (takeItem mine s).pending = s.pending ∧ (takeItem mine s).resetAsserted = s.resetAsserted
      ∧ (takeItem mine s).mp = s.mp ∧ (takeItem mine s).cu = s.cu ∧ (takeItem mine s).ca = s.ca
      ∧ (takeItem mine s).rc = s.rc := by
  unfold takeItem; (repeat' split) <;> simp

end Sys2Proof.Machine
end

