-- ==== Sys2Proof/Laws/State.lean ====
section
/-! SUPPORT. What the elementary updates of State leave in the block they change, one lemma per update or field, all true by
definition. What they leave alone in the other blocks stands in Laws/Frames.lean. -/

namespace Sys2Proof.Machine

@[simp] theorem modifyOpen_su (f : OpenEntry → OpenEntry) (s : State) :
    (modifyOpen f s).su = { s.su with openEntry := s.su.openEntry.map f } := rfl

@[simp] theorem offer_ru (r : Report) (s : State) : (offer r s).ru = takeOffer r s.tb.time s.ru := rfl

@[simp] theorem putSegment_rc (g : Segment) (s : State) :
    (putSegment g s).rc = { s.rc with table := s.rc.table.set g.index g } := rfl

@[simp] theorem loadCompare_tb (v : Option Time) (s : State) :
    (loadCompare v s).tb = { s.tb with compare := v, firing := none } := rfl

@[simp] theorem setOwed_tb (o : TickSet) (s : State) : (setOwed o s).tb = { s.tb with owed := o } := rfl

@[simp] theorem mapSlots_su (f : ClosingSlot → ClosingSlot) (s : State) :
    (mapSlots f s).su = { s.su with slotA := s.su.slotA.map f, slotB := s.su.slotB.map f } := rfl

@[simp] theorem popItem_cu (s : State) : (popItem s).cu = { s.cu with queue := s.cu.queue.tail } := rfl

@[simp] theorem addTxn_mp (r : Request) (p : Progress) (s : State) :
    (addTxn r p s).mp = { s.mp with txns := s.mp.txns ++ [⟨s.mp.nextTxn, r, p⟩], nextTxn := s.mp.nextTxn + 1 } := rfl

@[simp] theorem enterMode_cu (m : Mode) (s : State) : (enterMode m s).cu = { s.cu with mode := m } := rfl

@[simp] theorem enterMode_tb (m : Mode) (s : State) : (enterMode m s).tb = retime s.cu.mode m s.tb := rfl

@[simp] theorem abandon_ao (s : State) : (abandon s).ao = { s.ao with sub := none, history := [] } := rfl

@[simp] theorem abandon_lu (s : State) : (abandon s).lu = { s.lu with momentary := none, shortTerm := none } := rfl

@[simp] theorem abandon_ag (s : State) : (abandon s).ag = clearCounts s.ag := rfl

@[simp] theorem placeExport_rc (g : Segment) (it : CmdItem) (s : State) :
    (placeExport g it s).rc = { s.rc with pendingExport := some ⟨g.index, it.tag, it.master⟩ } := rfl

@[simp] theorem completePass_mp (t : Txn) (data : List Beat) (s : State) :
    (completePass t data s).mp
      = { s.mp with txns := setProgress t.id (.answered (completionAnswer t.req data)) s.mp.txns } := rfl

@[simp] theorem issueOwn_memOut (w : OwnWrite) (mp : MemPath) :
    (issueOwn w mp).memOut = some (.own w.id (ownRequest w)) := rfl

@[simp] theorem issuePass_memOut (t : Txn) (mp : MemPath) : (issuePass t mp).memOut = some (.pass t.id t.req) := rfl

@[simp] theorem withQueue_cu (rest : List CmdItem) (s : State) :
    (withQueue rest s).cu = { s.cu with queue := rest } := rfl

/-! ### Fields of a bank and of a closing slot -/

@[simp] theorem bankOf_setBank_same (bank : Bank) (h : HistBank) (ag : Activity) : bankOf (setBank bank h ag) bank = h := by
  cases bank <;> rfl

@[simp] theorem bankOf_setBank_other {bank other : Bank} (h : HistBank) (ag : Activity) (ne : other ≠ bank) :
    bankOf (setBank bank h ag) other = bankOf ag other := by
  cases bank <;> cases other <;> first | rfl | exact absurd rfl ne

@[simp] theorem setBank_sumN (bank : Bank) (h : HistBank) (ag : Activity) : (setBank bank h ag).sumN = ag.sumN := by
  cases bank <;> rfl

@[simp] theorem setBank_sumS (bank : Bank) (h : HistBank) (ag : Activity) : (setBank bank h ag).sumS = ag.sumS := by
  cases bank <;> rfl

@[simp] theorem slotOf_setSlot_same (bank : Bank) (c : Option ClosingSlot) (su : Schedule) :
    slotOf (setSlot bank c su) bank = c := by
  cases bank <;> rfl

@[simp] theorem slotOf_setSlot_other {bank other : Bank} (c : Option ClosingSlot) (su : Schedule) (ne : other ≠ bank) :
    slotOf (setSlot bank c su) other = slotOf su other := by
  cases bank <;> cases other <;> first | rfl | exact absurd rfl ne

@[simp] theorem setSlot_openEntry (bank : Bank) (c : Option ClosingSlot) (su : Schedule) :
    (setSlot bank c su).openEntry = su.openEntry := by
  cases bank <;> rfl

@[simp] theorem setSlot_queue (bank : Bank) (c : Option ClosingSlot) (su : Schedule) : (setSlot bank c su).queue = su.queue := by
  cases bank <;> rfl

end Sys2Proof.Machine
end

