-- ==== Sys2Proof/Laws/Steps.lean ====
section
/-! SUPPORT. What each shared operation can do, said once: rows in a settled part, commands at the head of the queue, offers
to the report unit, firings and cues. -/

namespace Sys2Proof.Machine

/-! ### Rows -/

theorem completeSubBlock_of_not_due {s : State} (h : completionDue s = false) : completeSubBlock s = s := by
  unfold completionDue at h
  unfold completeSubBlock
  split <;> simp_all

theorem settleWord_of_settled {s : State} (h : settled s = true) : settleWord s = s := by
  simp only [settled, Bool.and_eq_true, Bool.not_eq_true'] at h
  simp [settleWord, completeSubBlock_of_not_due h.1, takeFrameTick, h.2]

/-- In a part that is ready, a row is its own event. -/
theorem running_of_ready {s : State} (event : State → State) (h : ready s = true) : running s event = .next (event s) := by
  simp only [ready, Bool.and_eq_true, Bool.not_eq_true'] at h
  simp [running, h.1, settleWord_of_settled h.2]

/-- While RESET_N is asserted, a row changes nothing. -/
theorem running_of_asserted {s : State} (event : State → State) (h : s.resetAsserted = true) :
    running s event = .next s := by simp [running, h]

/-- A row always has a next state. -/
theorem running_cases (s : State) (event : State → State) :
    (s.resetAsserted = true ∧ running s event = .next s)
      ∨ (s.resetAsserted = false ∧ running s event = .next (event (settleWord s))) := by
  cases h : s.resetAsserted <;> simp [running, h]

/-- What a row's event keeps, with a word's event settled before it, the row keeps. -/
theorem running_keeps {P : State → Prop} {s t : State} {event : State → State} (h : running s event = .next t)
    (hs : P s) (he : s.resetAsserted = false → P (event (settleWord s))) : P t := by
  obtain ⟨-, h'⟩ | ⟨hr, h'⟩ := running_cases s event
  · rw [h', Host.Outcome.next.injEq] at h
    exact h ▸ hs
  · rw [h', Host.Outcome.next.injEq] at h
    exact h ▸ he hr

/-! ### Commands (R24, R25, R27) -/

/-- The head of the command queue is refused without effect, or done, or it is not the row's item. -/
theorem carryOut_cases (mine : CmdItem → Bool) (owner : Owner) (s : State) :
    carryOut mine owner s = s
      ∨ (∃ it rest reason, s.cu.queue = it :: rest ∧ mine it ∧ owner it (popItem s) = .error reason
          ∧ carryOut mine owner s = offer (refusedReport it reason) (popItem s))
      ∨ ∃ it rest s' count, s.cu.queue = it :: rest ∧ mine it ∧ owner it (popItem s) = .ok (s', count)
          ∧ carryOut mine owner s = offer (doneReport it count) s' := by
  unfold carryOut
  split
  · exact .inl rfl
  · rename_i it rest hq
    split
    · rename_i hm
      right
      cases ho : owner it (popItem s) with
      | error r => exact .inl ⟨it, rest, r, hq, hm, ho, rfl⟩
      | ok p => exact .inr ⟨it, rest, p.1, p.2, hq, hm, ho, rfl⟩
    · exact .inl rfl

/-- What taking the head, an offer, and the row's owner keep, the row keeps. -/
theorem carryOut_keeps {P : State → Prop} {mine : CmdItem → Bool} {owner : Owner} {s : State} (hs : P s)
    (hpop : P (popItem s)) (hoffer : ∀ r t, P t → P (offer r t))
    (howner : ∀ it t n, mine it → owner it (popItem s) = .ok (t, n) → P t) : P (carryOut mine owner s) := by
  obtain h | ⟨it, rest, reason, -, -, -, h⟩ | ⟨it, rest, s', n, -, hm, ho, h⟩ := carryOut_cases mine owner s
  · rw [h]; exact hs
  · rw [h]; exact hoffer _ _ hpop
  · rw [h]; exact hoffer _ _ (howner it s' n hm ho)

/-- Taking the head of a queue that is there. -/
theorem popItem_eq {s : State} {it : CmdItem} {rest : List CmdItem} (h : s.cu.queue = it :: rest) :
    popItem s = withQueue rest s := by simp [popItem, withQueue, h]

/-- The head of the command queue, when it is the row's item. -/
theorem carryOut_head {mine : CmdItem → Bool} (owner : Owner) {s : State} {it : CmdItem} {rest : List CmdItem}
    (hq : s.cu.queue = it :: rest) (hm : mine it = true) :
    carryOut mine owner s = finishItem it (withQueue rest s) (owner it (withQueue rest s)) := by
  simp [carryOut, hq, hm, popItem_eq hq]

/-! ### Reads that wait for own writes (R16) -/

theorem isHeld_iff (t : Txn) : isHeld t = true ↔ ∃ on, t.progress = .held on := by
  unfold isHeld
  cases t.progress <;> simp

theorem awaitsOwn_iff (t : Txn) : awaitsOwn t = true ↔ ∃ on, t.progress = .held on ∨ t.progress = .behind on := by
  unfold awaitsOwn
  cases t.progress <;> simp

/-- A read in the read-hold list waits for own writes. -/
theorem awaitsOwn_of_isHeld {t : Txn} (h : isHeld t = true) : awaitsOwn t = true := by
  obtain ⟨on, e⟩ := (isHeld_iff t).1 h
  exact (awaitsOwn_iff t).2 ⟨on, .inl e⟩

/-- A forwarded request waits for the arbiter, or it is a read with own writes to wait for: in the read-hold list where no
earlier read of its master waits, and behind that read where one does. -/
theorem forwardProgress_cases (mp : MemPath) (r : Request) :
    forwardProgress mp r = .waiting
      ∨ r.access.isWrite = false ∧ ∃ on, on ≠ [] ∧ on = (mp.ownQueue.filter (overlapsOwn r)).map (·.id)
        ∧ ((forwardProgress mp r = .held on ∧ ∀ h ∈ mp.txns, awaitsOwn h = true → h.req.master ≠ r.master)
          ∨ (forwardProgress mp r = .behind on ∧ ∃ h ∈ mp.txns, awaitsOwn h = true ∧ h.req.master = r.master)) := by
  unfold forwardProgress
  dsimp only
  split
  · exact .inl rfl
  · rename_i h
    simp only [Bool.or_eq_true, not_or, Bool.not_eq_true, List.isEmpty_eq_false_iff] at h
    refine .inr ⟨h.1, _, h.2, rfl, ?_⟩
    split
    · rename_i hb
      exact .inr ⟨rfl, by simpa using hb⟩
    · rename_i hb
      exact .inl ⟨rfl, by simpa using hb⟩

/-- What the completion of one own write leaves of a request: one that waits for own writes waits for the others, or for the
arbiter when there are none, and every other request stays as it is. -/
theorem dropHold_cases (own : Nat) (t : Txn) :
    (awaitsOwn t = false ∧ dropHold own t = t)
      ∨ ∃ on, (t.progress = .held on ∨ t.progress = .behind on)
          ∧ ((on.filter (· != own) = [] ∧ dropHold own t = { t with progress := .waiting })
            ∨ (on.filter (· != own) ≠ [] ∧ t.progress = .held on
                ∧ dropHold own t = { t with progress := .held (on.filter (· != own)) })
            ∨ (on.filter (· != own) ≠ [] ∧ t.progress = .behind on
                ∧ dropHold own t = { t with progress := .behind (on.filter (· != own)) })) := by
  rcases t with ⟨id, r, p⟩
  cases p with
  | held on =>
    refine .inr ⟨on, .inl rfl, ?_⟩
    by_cases h : on.filter (· != own) = []
    · exact .inl ⟨h, by simp only [dropHold, h, List.isEmpty_nil, if_true]⟩
    · exact .inr (.inl ⟨h, rfl, by simp only [dropHold, List.isEmpty_iff, h, if_false]⟩)
  | behind on =>
    refine .inr ⟨on, .inr rfl, ?_⟩
    by_cases h : on.filter (· != own) = []
    · exact .inl ⟨h, by simp only [dropHold, h, List.isEmpty_nil, if_true]⟩
    · exact .inr (.inr ⟨h, rfl, by simp only [dropHold, List.isEmpty_iff, h, if_false]⟩)
  | waiting | issued | answered a => simp [awaitsOwn, dropHold]

/-- The completion of an own write leaves a request's number and operands, whether it is unissued, and one that waits for
nothing; it places nothing in the read-hold list. -/
theorem dropHold_same (own : Nat) (t : Txn) : (dropHold own t).req = t.req ∧ (dropHold own t).id = t.id
    ∧ unissued (dropHold own t) = unissued t ∧ (isHeld (dropHold own t) = true → isHeld t = true)
    ∧ (t.progress = .waiting → dropHold own t = t) := by
  rcases dropHold_cases own t with ⟨_, e⟩ | ⟨on, hp, ⟨_, e⟩ | ⟨_, e', e⟩ | ⟨_, e', e⟩⟩
  · simp [e]
  · rw [e]; rcases hp with hp | hp <;> simp [unissued, isHeld, hp]
  · rw [e]; simp [unissued, isHeld, e']
  · rw [e]; simp [unissued, isHeld, e']

/-- A read that leaves the read-hold list waits for the arbiter. -/
theorem releasedBy_waiting {own : Nat} {t : Txn} (h : releasedBy own t = true) : (dropHold own t).progress = .waiting := by
  rcases t with ⟨i, r, p⟩
  cases p with
  | held on => simp only [releasedBy] at h; simp only [dropHold, h, if_true]
  | behind on => cases h
  | waiting | issued | answered a => cases h

/-! ### Staged words (R173, section 11.3) -/

/-- A field of whole bytes of a word is the bits of those bytes. -/
theorem byteField_eq (w : Beat) (at_ bytes : Nat) :
    byteField w at_ bytes = (w.extractLsb' (8 * at_) (8 * bytes)).toNat := by
  simp [byteField, BitVec.extractLsb'_toNat, Nat.shiftRight_eq_div_pow, Nat.pow_mul]

/-- The fields of a staged WINDOW, bit by bit (section 11.3). -/
theorem stagedWindow_eq (it : CmdItem) :
    let word (k : Nat) : Beat := it.words.getD k 0
    stagedWindow it =
      { slot := ((word 0).extractLsb' 0 8).toNat, kindCode := ((word 0).extractLsb' 8 8).toNat
        feeding := ((word 0).extractLsb' 16 8).toNat, basePage := ((word 0).extractLsb' 32 32).toNat
        pages := ((word 1).extractLsb' 0 32).toNat
        writeMask := (word 1).extractLsb' 32 16, readMask := (word 1).extractLsb' 48 16
        archiveMask := (word 2).extractLsb' 0 16
        segCount := ((word 2).extractLsb' 16 16).toNat, segSize := ((word 2).extractLsb' 32 16).toNat } := by
  simp only [stagedWindow, byteField_eq, stagedWord, Nat.reduceMul, Nat.mul_zero, BitVec.ofNat_toNat, BitVec.setWidth_eq]

/-! ### Openings (R90, R91, R127) -/

/-- A new open-entry record, field by field (R127). -/
theorem newRecord_eq (e : Entry) (start : Time) (cause : Cause) (early replay : Bool) (bank : Option Bank) (p : Bool) :
    newRecord e start cause early replay bank p = recordAtOpening e start cause early replay bank p := rfl

/-- The bank that an opening takes (R91). -/
theorem freeBank_eq (ag : Activity) : freeBank ag = bankToTake ag := rfl

/-- The bank taken is COLLECTING (R90). -/
theorem collectIn_eq (bank : Option Bank) (ag : Activity) : collectIn bank ag = bankGoes bank .collecting ag := by
  rcases bank with _ | (_ | _) <;> simp [collectIn, bankGoes, setBank, bankOf]

/-! ### Offers (R158, R159, R162) -/

@[simp] theorem setFlag_frame (f : Flag) (ru : Reports) :
    (setFlag f ru).queue = ru.queue ∧ (setFlag f ru).geometry = ru.geometry ∧ (setFlag f ru).writeIndex = ru.writeIndex
      ∧ (setFlag f ru).readIndex = ru.readIndex ∧ (setFlag f ru).recordNumber = ru.recordNumber
      ∧ (setFlag f ru).lostCount = ru.lostCount ∧ (setFlag f ru).enables = ru.enables
      ∧ (setFlag f ru).lastRefusal = ru.lastRefusal ∧ (setFlag f ru).imageGeneration = ru.imageGeneration
      ∧ (setFlag f ru).imageTicks = ru.imageTicks ∧ (setFlag f ru).imageDue = ru.imageDue
      ∧ (setFlag f ru).current = ru.current ∧ (setFlag f ru).flags = ru.flags ||| f.set
      ∧ (setFlag f ru).latch = (ru.latch || flagEnabled ru f) := by simp [setFlag]

@[simp] theorem dropReport_frame (r : Report) (ru : Reports) :
    (dropReport r ru).queue = ru.queue ∧ (dropReport r ru).geometry = ru.geometry
      ∧ (dropReport r ru).writeIndex = ru.writeIndex ∧ (dropReport r ru).readIndex = ru.readIndex
      ∧ (dropReport r ru).recordNumber = ru.recordNumber ∧ (dropReport r ru).lostCount = satAdd ru.lostCount 1
      ∧ (dropReport r ru).enables = ru.enables ∧ (dropReport r ru).lastRefusal = ru.lastRefusal
      ∧ (dropReport r ru).imageGeneration = ru.imageGeneration ∧ (dropReport r ru).imageTicks = ru.imageTicks
      ∧ (dropReport r ru).imageDue = (ru.imageDue || isOutcome r) ∧ (dropReport r ru).current = ru.current := by
  simp [dropReport]

@[simp] theorem noteOffer_frame (r : Report) (ru : Reports) :
    (noteOffer r ru).queue = ru.queue ∧ (noteOffer r ru).geometry = ru.geometry
      ∧ (noteOffer r ru).writeIndex = ru.writeIndex ∧ (noteOffer r ru).readIndex = ru.readIndex
      ∧ (noteOffer r ru).recordNumber = ru.recordNumber ∧ (noteOffer r ru).lostCount = ru.lostCount
      ∧ (noteOffer r ru).enables = ru.enables ∧ (noteOffer r ru).imageGeneration = ru.imageGeneration
      ∧ (noteOffer r ru).imageTicks = ru.imageTicks ∧ (noteOffer r ru).imageDue = ru.imageDue
      ∧ (noteOffer r ru).current = ru.current ∧ (noteOffer r ru).lastRefusal = (refusalOf r).or ru.lastRefusal := by
  unfold noteOffer; dsimp only; split <;> simp

/-- What an offer leaves alone in the report unit: everything but the queue, the flags, the latch, the lost count, the last
refusal and the image-due mark. -/
@[simp] theorem takeOffer_frame (r : Report) (now : Time) (ru : Reports) :
    (takeOffer r now ru).geometry = ru.geometry ∧ (takeOffer r now ru).writeIndex = ru.writeIndex
      ∧ (takeOffer r now ru).readIndex = ru.readIndex ∧ (takeOffer r now ru).recordNumber = ru.recordNumber
      ∧ (takeOffer r now ru).enables = ru.enables ∧ (takeOffer r now ru).imageGeneration = ru.imageGeneration
      ∧ (takeOffer r now ru).imageTicks = ru.imageTicks ∧ (takeOffer r now ru).current = ru.current
      ∧ (takeOffer r now ru).lastRefusal = (refusalOf r).or ru.lastRefusal := by
  unfold takeOffer; dsimp only; split <;> simp

/-- An offer joins the tail of a report queue that has a place (R159). -/
theorem takeOffer_queued (r : Report) (now : Time) (ru : Reports) (h : ru.queue.length < 16) :
    takeOffer r now ru = { noteOffer r ru with queue := ru.queue ++ [⟨r, now⟩] } := by
  simp [takeOffer, Config.reportQueueDepth, h]

/-- An offer to a full report queue is dropped (R159). -/
theorem takeOffer_full (r : Report) (now : Time) (ru : Reports) (h : 16 ≤ ru.queue.length) :
    takeOffer r now ru = dropReport r (noteOffer r ru) := by
  simp [takeOffer, Config.reportQueueDepth, Nat.not_lt.mpr h]

/-- The report queue never grows past its depth by an offer. -/
theorem takeOffer_length (r : Report) (now : Time) (ru : Reports) (h : ru.queue.length ≤ 16) :
    (takeOffer r now ru).queue.length ≤ 16 := by
  unfold takeOffer Config.reportQueueDepth; dsimp only; split <;> simp_all

end Sys2Proof.Machine
end

