-- ==== Sys2Proof/Laws/Owners.lean ====
section
/-! SUPPORT. What each owner has done when it has not refused: one inversion lemma per command. -/

namespace Sys2Proof.Machine

variable {it : CmdItem} {s s' : State} {n : Nat}

theorem offOnly_ok {owner : Owner} (h : offOnly owner it s = .ok (s', n)) :
    s.cu.mode = .off ∧ owner it s = .ok (s', n) := by
  unfold offOnly at h
  split at h
  · exact ⟨‹_›, h⟩
  · cases h

theorem ownSetMode_ok (h : ownSetMode it s = .ok (s', n)) :
    n = 0 ∧ ∃ m, modeOfCode (argField it.arg 0 8) = some m ∧
      ((m = .off ∧ s.cu.mode ≠ .off ∧ s' = stopMode (drainOffers s))
        ∨ (m ≠ .off ∧ s.cu.mode = .off ∧ (windowOf .report s.mp).isSome ∧ s' = startMode m (drainOffers s))) := by
  unfold ownSetMode at h
  split at h
  · cases h
  · rename_i m hm
    split at h
    · cases h
    · split at h
      · simp only [Except.ok.injEq, Prod.mk.injEq] at h
        exact ⟨h.2.symm, m, hm, .inl ⟨‹_›, by simp_all, h.1.symm⟩⟩
      · split at h
        · cases h
        · simp only [Except.ok.injEq, Prod.mk.injEq] at h
          exact ⟨h.2.symm, m, hm, .inr ⟨‹_›, by simp_all, by simp_all [Option.isSome_iff_ne_none], h.1.symm⟩⟩

theorem ownRestart_ok (h : ownRestart it s = .ok (s', n)) :
    s' = restartPart (drainOffers s) ∧ n = (drainOffers s).su.queue.length := by
  simp only [ownRestart, Except.ok.injEq, Prod.mk.injEq] at h
  exact ⟨h.1.symm, h.2.symm⟩

theorem ownControlMask_ok (h : ownControlMask it s = .ok (s', n)) :
    n = 0 ∧ namesMaster15 (BitVec.ofNat 16 (argField it.arg 0 16)) = false
      ∧ inSet it.master (BitVec.ofNat 16 (argField it.arg 0 16)) = true
      ∧ s' = { s with cu := { s.cu with controlMask := BitVec.ofNat 16 (argField it.arg 0 16) } } := by
  simp only [ownControlMask] at h
  split at h
  · cases h
  · simp only [Except.ok.injEq, Prod.mk.injEq] at h
    exact ⟨h.2.symm, by simp_all, by simp_all, h.1.symm⟩

theorem ownSetTime_ok (h : ownSetTime it s = .ok (s', n)) :
    n = 0 ∧ s.cu.mode = .off
      ∧ s' = { s with tb := { s.tb with time := BitVec.ofNat 32 (argField it.arg 0 32), prescale := 0 } } := by
  obtain ⟨hm, h⟩ := offOnly_ok h
  simp only [Except.ok.injEq, Prod.mk.injEq] at h
  exact ⟨h.2.symm, hm, h.1.symm⟩

theorem ownSetPrescale_ok (h : ownSetPrescale it s = .ok (s', n)) :
    n = 0 ∧ s.cu.mode = .off ∧ 1 ≤ argField it.arg 0 32 ∧ argField it.arg 0 32 ≤ 65536
      ∧ s' = { s with tb := { s.tb with divisor := argField it.arg 0 32, prescale := 0 } } := by
  obtain ⟨hm, h⟩ := offOnly_ok h
  simp only at h
  split at h
  · cases h
  · simp only [Except.ok.injEq, Prod.mk.injEq] at h
    refine ⟨h.2.symm, hm, by omega, by omega, h.1.symm⟩

theorem ownCueSet_ok (h : ownCueSet it s = .ok (s', n)) :
    n = 0 ∧ 1 ≤ argField it.arg 0 8 ∧ argField it.arg 0 8 ≤ 16 ∧ argField it.arg 8 16 ≤ 60000
      ∧ s' = { s with tb := { clearRun s.tb with cueQ := argField it.arg 0 8, earlyWindow := argField it.arg 8 16 } } := by
  simp only [ownCueSet] at h
  split at h
  · cases h
  · simp only [Except.ok.injEq, Prod.mk.injEq] at h
    refine ⟨h.2.symm, by omega, by omega, by omega, h.1.symm⟩

theorem ownLineForce_ok (h : ownLineForce it s = .ok (s', n)) :
    n = 0 ∧ ∃ f, forceOfCode (argField it.arg 0 8) = some f ∧ s' = { s with tb := { s.tb with force := f } } := by
  simp only [ownLineForce] at h
  split at h
  · cases h
  · simp only [Except.ok.injEq, Prod.mk.injEq] at h
    exact ⟨h.2.symm, _, ‹_›, h.1.symm⟩

theorem ownReadIndex_ok (h : ownReadIndex it s = .ok (s', n)) :
    n = 0 ∧ ∃ g, s.ru.geometry = some g ∧ argField it.arg 0 16 < g.capacity
      ∧ unread g.capacity (argField it.arg 0 16) s.ru.readIndex ≤ unread g.capacity s.ru.writeIndex s.ru.readIndex
      ∧ s' = { s with ru := { s.ru with readIndex := argField it.arg 0 16 } } := by
  simp only [ownReadIndex] at h
  (repeat' split at h) <;> first
    | (cases h; done)
    | (simp only [Except.ok.injEq, Prod.mk.injEq] at h; exact ⟨h.2.symm, _, ‹_›, by omega, by omega, h.1.symm⟩)

theorem ownFlagEnableSet_ok (h : ownFlagEnableSet it s = .ok (s', n)) :
    n = 0 ∧ s' = { s with ru := enableFlags (flagSetArg it) s.ru } := by
  simp only [ownFlagEnableSet, Except.ok.injEq, Prod.mk.injEq] at h
  exact ⟨h.2.symm, h.1.symm⟩

theorem ownFlagEnableClear_ok (h : ownFlagEnableClear it s = .ok (s', n)) :
    n = 0 ∧ s' = { s with ru := disableFlags (flagSetArg it) s.ru } := by
  simp only [ownFlagEnableClear, Except.ok.injEq, Prod.mk.injEq] at h
  exact ⟨h.2.symm, h.1.symm⟩

theorem ownAckFlags_ok (h : ownAckFlags it s = .ok (s', n)) :
    n = 0 ∧ s' = { s with ru := clearFlags (flagSetArg it) s.ru } := by
  simp only [ownAckFlags, Except.ok.injEq, Prod.mk.injEq] at h
  exact ⟨h.2.symm, h.1.symm⟩

theorem ownEntry_ok (h : ownEntry it s = .ok (s', n)) :
    n = 0 ∧ ∃ e, stagedEntry it = some e ∧ idTaken e.id s = false ∧ s.su.queue.length < 32 ∧ orderOk e s = true
      ∧ s' = commitEntry e s := by
  simp only [ownEntry] at h
  split at h
  · cases h
  · rename_i e he
    (repeat' split at h) <;> first
      | (cases h; done)
      | (simp only [Except.ok.injEq, Prod.mk.injEq] at h
         refine ⟨h.2.symm, e, he, ?_, ?_, ?_, h.1.symm⟩ <;> simp_all [Config.pendingDepth])

theorem ownCancelFrom_ok (h : ownCancelFrom it s = .ok (s', n)) :
    s.su.queue.any (·.id == BitVec.ofNat 16 (argField it.arg 0 16)) = true
      ∧ n = s.su.queue.length - (aheadOf (BitVec.ofNat 16 (argField it.arg 0 16)) s.su.queue).length
      ∧ s' = if (aheadOf (BitVec.ofNat 16 (argField it.arg 0 16)) s.su.queue).isEmpty
          then loadCompare none { s with su := { s.su with queue := aheadOf (BitVec.ofNat 16 (argField it.arg 0 16)) s.su.queue } }
          else { s with su := { s.su with queue := aheadOf (BitVec.ofNat 16 (argField it.arg 0 16)) s.su.queue } } := by
  simp only [ownCancelFrom] at h
  split at h
  · simp only [Except.ok.injEq, Prod.mk.injEq] at h
    exact ⟨‹_›, h.2.symm, h.1.symm⟩
  · cases h

theorem ownReplayCue_ok (h : ownReplayCue it s = .ok (s', n)) :
    n = 0 ∧ s.cu.mode = .replay ∧ s' = judgeCue s.tb.time s := by
  simp only [ownReplayCue] at h
  split at h
  · simp only [Except.ok.injEq, Prod.mk.injEq] at h
    exact ⟨h.2.symm, ‹_›, h.1.symm⟩
  · cases h

theorem ownHoldPolicy_ok (h : ownHoldPolicy it s = .ok (s', n)) :
    n = 0 ∧ ∃ c, classOfCode (argField it.arg 0 8) = some c ∧ s' = { s with su := { s.su with
      policy := s.su.policy.setIfInBounds c.code (BitVec.ofNat 4 (argField it.arg 8 4)) } } := by
  simp only [ownHoldPolicy] at h
  split at h
  · cases h
  · simp only [Except.ok.injEq, Prod.mk.injEq] at h
    exact ⟨h.2.symm, _, ‹_›, h.1.symm⟩

theorem ownDefaultEntry_ok (h : ownDefaultEntry it s = .ok (s', n)) :
    n = 0 ∧ ∃ d, s' = { s with su := { s.su with defaults := d } } := by
  simp only [ownDefaultEntry, setDefaultLoudness, setDefaultCaption, setDefaultDeadAir] at h
  (repeat' split at h) <;> first
    | (cases h; done)
    | (simp only [Except.ok.injEq, Prod.mk.injEq] at h; exact ⟨h.2.symm, _, h.1.symm⟩)

theorem ownLayoutOverride_ok (h : ownLayoutOverride it s = .ok (s', n)) :
    n = 0 ∧ ∃ o, s' = { s with lu := { s.lu with overrides := o } } := by
  simp only [ownLayoutOverride] at h
  (repeat' split at h) <;> first
    | (cases h; done)
    | (simp only [Except.ok.injEq, Prod.mk.injEq] at h; exact ⟨h.2.symm, _, h.1.symm⟩)

theorem ownFilter_ok (h : ownFilter it s = .ok (s', n)) :
    n = 0 ∧ s.cu.mode = .off ∧ -50 ≤ filterOffset it ∧ filterOffset it ≤ 50 ∧ s' = { s with lu := { s.lu with
      stage1 := filterStage it false, stage2 := filterStage it true, calibration := filterOffset it } } := by
  obtain ⟨hm, h⟩ := offOnly_ok h
  simp only at h
  split at h
  · cases h
  · simp only [Except.ok.injEq, Prod.mk.injEq] at h
    refine ⟨h.2.symm, hm, by omega, by omega, h.1.symm⟩

theorem ownActivitySet_ok (h : ownActivitySet it s = .ok (s', n)) :
    n = 0 ∧ ∃ tOn tOff qOn qOff,
      s' = { s with ag := { clearCounts s.ag with tOn := tOn, tOff := tOff, qOn := qOn, qOff := qOff } } := by
  simp only [ownActivitySet] at h
  split at h
  · cases h
  · simp only [Except.ok.injEq, Prod.mk.injEq] at h
    exact ⟨h.2.symm, _, _, _, _, h.1.symm⟩

/-- A done archive command had its privilege, and its owner treated the named segment (R26, R149). -/
theorem archiveCommand_ok {own : Segment → Owner} (h : archiveCommand own it s = .ok (s', n)) :
    inSet it.master (archiveMask s.mp) = true
      ∧ ∃ g, s.rc.table[argField it.arg 0 8]? = some g ∧ own g it s = .ok (s', n) := by
  simp only [archiveCommand] at h
  (repeat' split at h) <;> first
    | cases h
    | exact ⟨‹_›, _, ‹_›, h⟩

theorem holdOn_ok {g : Segment} (h : holdOn g it s = .ok (s', n)) :
    n = 0 ∧ ((g.state ≠ .free ∧ g.state ≠ .closed ∧ s' = joinReason g .manual none false s)
      ∨ (g.state = .closed ∧ hasRoom s.rc.table = true ∧ s' = holdClosed g .manual none false s)) := by
  simp only [holdOn] at h
  (repeat' split at h) <;> simp_all

theorem releaseOn_ok {g : Segment} (h : releaseOn g it s = .ok (s', n)) :
    n = 0 ∧ reasonSetArg it ≠ 0 ∧ ((g.state = .closed ∧ s' = s)
      ∨ ((g.state = .held ∨ g.state = .exporting) ∧ s' = putSegment (releaseReasons (reasonSetArg it) g) s)) := by
  simp only [releaseOn] at h
  (repeat' split at h) <;> simp_all

theorem exportOn_ok {g : Segment} (h : exportOn g it s = .ok (s', n)) :
    n = 0 ∧ (((g.state = .held ∨ (g.state = .closed ∧ hasRoom s.rc.table = true)) ∧ s' = grantExport g it s)
      ∨ (g.state = .filling ∧ s.rc.pendingExport = none ∧ s' = placeExport g it s)) := by
  simp only [exportOn] at h
  (repeat' split at h) <;> simp_all

theorem exportDoneOn_ok {g : Segment} (h : exportDoneOn g it s = .ok (s', n)) :
    n = 0 ∧ g.state = .exporting ∧ s' = putSegment (withState (returnState g) g) s := by
  simp only [exportDoneOn] at h
  split at h <;> simp_all

theorem ownWindow_ok (h : ownWindow it s = .ok (s', n)) :
    n = 0 ∧ (stagedWindow it).slot ≤ 7
      ∧ (observing s = true → guardOrEmpty (windowAt s.mp (stagedWindow it).slot) = true
          ∧ stagesGuardOrEmpty (stagedWindow it) = true)
      ∧ holdsPresent (stagedWindow it).slot s = false
      ∧ ((kindOfCode (stagedWindow it).kindCode = some none ∧ s' = commitWindow (stagedWindow it).slot none s)
        ∨ ∃ k, kindOfCode (stagedWindow it).kindCode = some (some k)
          ∧ descriptorOk k (stagedWindow it) s.mp = true ∧ overlapsOther (stagedWindow it) s.mp = false
          ∧ s' = commitWindow (stagedWindow it).slot (some (installed k (stagedWindow it))) s) := by
  simp only [ownWindow] at h
  (repeat' split at h) <;> simp_all

end Sys2Proof.Machine
end

