-- ==== Sys2Proof/Laws/EveryRow.lean ====
section
/-! SUPPORT. What every row does, said once: a property of State that each event of the part keeps is kept by every row, and
so by every step. -/

namespace Sys2Proof.Machine

/-- A property that each event of the part keeps, event by event. -/
structure Keeps (P : State → Prop) : Prop where
  pending : ∀ s l, P s → P { s with pending := l }
  lineReset : ∀ l, P { State.reset with pending := l, resetAsserted := true }
  release : ∀ s (straps : BitVec 8), s.resetAsserted = true → P s →
    P { s with resetAsserted := false, mp := { s.mp with ctlBase := straps.toNat * 67108864 } }
  complete : ∀ s, P s → P (completeSubBlock s)
  frameTick : ∀ s later, P s → P (takeFrameTick later s)
  request : ∀ s r, r.wf = true → P s → P (takeRequest r s)
  answer : ∀ s m, P s → P (answerReturn m s)
  issue : ∀ s, P s → P { s with mp := arbitrate s.mp }
  completion : ∀ s t id data, issuedTxn id s.mp = some t → completionFits t.req data = true → P s → P (completePass t data s)
  ownOffer : ∀ s, P s → P (offerOwnWrite s)
  ownCompletion : ∀ s, P s → P (ownWriteCompletion s)
  beat : ∀ s, P s → P (takeControlBeat s)
  pop : ∀ s, P s → P (popItem s)
  offer : ∀ s r, P s → P (offer r s)
  drain : ∀ s, P s → P (drainOffers s)
  stop : ∀ s, s.cu.mode ≠ .off → P s → P (stopMode (drainOffers s))
  start : ∀ s m, s.cu.mode = .off → m ≠ .off → (windowOf .report s.mp).isSome → P s → P (startMode m (drainOffers s))
  restart : ∀ s, P s → P (restartPart (drainOffers s))
  controlMask : ∀ s set, P s → P { s with cu := { s.cu with controlMask := set } }
  setTime : ∀ s v, s.cu.mode = .off → P s → P { s with tb := { s.tb with time := v, prescale := 0 } }
  setPrescale : ∀ s d, s.cu.mode = .off → 1 ≤ d → d ≤ 65536 → P s →
    P { s with tb := { s.tb with divisor := d, prescale := 0 } }
  cueSet : ∀ s q w, 1 ≤ q → q ≤ 16 → w ≤ 60000 → P s →
    P { s with tb := { clearRun s.tb with cueQ := q, earlyWindow := w } }
  lineForce : ∀ s f, P s → P { s with tb := { s.tb with force := f } }
  readIndex : ∀ s g r, s.ru.geometry = some g → r < g.capacity →
    unread g.capacity r s.ru.readIndex ≤ unread g.capacity s.ru.writeIndex s.ru.readIndex → P s →
    P { s with ru := { s.ru with readIndex := r } }
  enable : ∀ s set, P s → P { s with ru := enableFlags set s.ru }
  disable : ∀ s set, P s → P { s with ru := disableFlags set s.ru }
  acknowledge : ∀ s set, P s → P { s with ru := clearFlags set s.ru }
  entry : ∀ s it e, stagedEntry it = some e → idTaken e.id s = false → s.su.queue.length < 32 → orderOk e s = true →
    P s → P (commitEntry e s)
  cancel : ∀ s id, P s →
    P (if (aheadOf id s.su.queue).isEmpty then loadCompare none { s with su := { s.su with queue := aheadOf id s.su.queue } }
      else { s with su := { s.su with queue := aheadOf id s.su.queue } })
  judgeCue : ∀ s t, s.cu.mode = .replay → P s → P (judgeCue t s)
  policy : ∀ s p, P s → P { s with su := { s.su with policy := p } }
  defaults : ∀ s d, P s → P { s with su := { s.su with defaults := d } }
  overrides : ∀ s o, P s → P { s with lu := { s.lu with overrides := o } }
  filter : ∀ s a b c, s.cu.mode = .off → -50 ≤ c → c ≤ 50 → P s →
    P { s with lu := { s.lu with stage1 := a, stage2 := b, calibration := c } }
  activitySet : ∀ s a b c d, P s → P { s with ag := { clearCounts s.ag with tOn := a, tOff := b, qOn := c, qOff := d } }
  hold : ∀ s (g : Segment) (i : Nat) it s', s.rc.table[i]? = some g → holdOn g it s = .ok (s', 0) → P s → P s'
  release_ : ∀ s (g : Segment) (i : Nat) it s', s.rc.table[i]? = some g → releaseOn g it s = .ok (s', 0) → P s → P s'
  export_ : ∀ s (g : Segment) (i : Nat) it s', s.rc.table[i]? = some g → exportOn g it s = .ok (s', 0) → P s → P s'
  exportDone : ∀ s (g : Segment) (i : Nat) it s', s.rc.table[i]? = some g → exportDoneOn g it s = .ok (s', 0) → P s → P s'
  window : ∀ s it s', ownWindow it s = .ok (s', 0) → P s → P s'
  tick : ∀ s cueHigh later, P s → P (tickRow cueHigh later s)
  edge : ∀ s cueHigh later, P s → P (edgeEvent cueHigh later s)
  cue : ∀ s, P s → P (takeCue s)
  firing : ∀ s, P s → P (takeFiring s)
  observerTick : ∀ s, P s → P (takeObserverTick s)
  activityTick : ∀ s, P s → P (takeActivityTick s)
  captionTick : ∀ s, P s → P (takeCaptionTick s)
  reportTick : ∀ s, P s → P (takeReportTick s)
  item : ∀ s mine, P s → P (takeItem mine s)
  captionBeat : ∀ s, P s → P (takeCaption s)
  scan : ∀ s bank, P s → P (completeScan bank s)
  lay : ∀ s, P s → P (layRecord s)
  compose : ∀ s, P s → P (composeImage s)

variable {P : State → Prop} {s t : State}

theorem Keeps.settle (k : Keeps P) (h : P s) : P (settleWord s) := k.frameTick _ _ (k.complete _ h)

/-- A command row keeps what its owner keeps when it has not refused. -/
theorem Keeps.command (k : Keeps P) {mine : CmdItem → Bool} {owner : Owner}
    (ho : ∀ it s s' n, owner it s = .ok (s', n) → P s → P s') (h : running s (carryOut mine owner) = .next t) (hs : P s) :
    P t :=
  running_keeps h hs fun _ =>
    carryOut_keeps (k.settle hs) (k.pop _ (k.settle hs)) (fun r u hu => k.offer u r hu)
      fun it u n _ hu => ho it _ u n hu (k.pop _ (k.settle hs))

/-- A row that takes one event keeps what the event keeps. -/
theorem Keeps.event (k : Keeps P) {event : State → State} (he : ∀ s, P s → P (event s)) (h : running s event = .next t)
    (hs : P s) : P t :=
  running_keeps h hs fun _ => he _ (k.settle hs)

/-- An archive command keeps what its owner keeps on the named segment. -/
theorem Keeps.archive (_k : Keeps P) {own : Segment → Owner} (hn : ∀ {g it s s' n}, own g it s = .ok (s', n) → n = 0)
    (ho : ∀ s (g : Segment) (i : Nat) it s', s.rc.table[i]? = some g → own g it s = .ok (s', 0) → P s → P s') :
    ∀ it s s' n, archiveCommand own it s = .ok (s', n) → P s → P s' := by
  intro it s s' n h hs
  obtain ⟨-, g, hg, h⟩ := archiveCommand_ok h
  cases hn h
  exact ho s g _ it s' hg h hs

theorem Keeps.defaultEntry (k : Keeps P) : ∀ it s s' n, ownDefaultEntry it s = .ok (s', n) → P s → P s' := by
  intro it s s' n h hs
  obtain ⟨-, d, rfl⟩ := ownDefaultEntry_ok h
  exact k.defaults s d hs

theorem Keeps.layoutOverride (k : Keeps P) : ∀ it s s' n, ownLayoutOverride it s = .ok (s', n) → P s → P s' := by
  intro it s s' n h hs
  obtain ⟨-, o, rfl⟩ := ownLayoutOverride_ok h
  exact k.overrides s o hs

/-- A property that each event keeps is kept by every row. -/
theorem Keeps.exec (k : Keeps P) {i : Instr} (h : exec i s = .next t) (hs : P s) : P t := by
  cases i with
  | lineReset =>
    cases h
    exact k.lineReset _
  | resetNRelease straps =>
    cases h
    split
    · exact k.release s straps ‹_› hs
    · exact hs
  | passThroughRequest r =>
    simp only [Machine.exec, execPassThroughRequest] at h
    split at h
    · rename_i hw
      exact k.event (fun s => k.request s r hw) h hs
    · cases h
  | answerReturn m => exact k.event (fun s => k.answer s m) h hs
  | memoryPortIssue => exact k.event (event := fun s => { s with mp := arbitrate s.mp }) k.issue h hs
  | memoryPortCompletion id data =>
    simp only [Machine.exec, execMemoryPortCompletion] at h
    split at h
    · exact k.event (fun _ hs => hs) h hs
    · rename_i t' ht
      split at h
      · rename_i hf
        exact running_keeps h hs fun _ => k.completion _ t' id data (by simpa using ht) hf (k.settle hs)
      · cases h
  | ownWriteOffer => exact k.event k.ownOffer h hs
  | ownWriteCompletion => exact k.event k.ownCompletion h hs
  | controlPageBeat => exact k.event k.beat h hs
  | setMode =>
    refine k.command (fun it s s' n ho hs => ?_) h hs
    obtain ⟨-, m, -, ⟨-, hm, rfl⟩ | ⟨hn, hm, hw, rfl⟩⟩ := ownSetMode_ok ho
    · exact k.stop s hm hs
    · exact k.start s m hm hn hw hs
  | setTime =>
    refine k.command (fun it s s' n ho hs => ?_) h hs
    obtain ⟨-, hm, rfl⟩ := ownSetTime_ok ho
    exact k.setTime s _ hm hs
  | setPrescale =>
    refine k.command (fun it s s' n ho hs => ?_) h hs
    obtain ⟨-, hm, h1, h2, rfl⟩ := ownSetPrescale_ok ho
    exact k.setPrescale s _ hm h1 h2 hs
  | controlMask =>
    refine k.command (fun it s s' n ho hs => ?_) h hs
    obtain ⟨-, -, -, rfl⟩ := ownControlMask_ok ho
    exact k.controlMask s _ hs
  | readIndex =>
    refine k.command (fun it s s' n ho hs => ?_) h hs
    obtain ⟨-, g, hg, hl, hu, rfl⟩ := ownReadIndex_ok ho
    exact k.readIndex s g _ hg hl hu hs
  | flagEnableSet =>
    refine k.command (fun it s s' n ho hs => ?_) h hs
    obtain ⟨-, rfl⟩ := ownFlagEnableSet_ok ho
    exact k.enable s _ hs
  | flagEnableClear =>
    refine k.command (fun it s s' n ho hs => ?_) h hs
    obtain ⟨-, rfl⟩ := ownFlagEnableClear_ok ho
    exact k.disable s _ hs
  | ackFlags =>
    refine k.command (fun it s s' n ho hs => ?_) h hs
    obtain ⟨-, rfl⟩ := ownAckFlags_ok ho
    exact k.acknowledge s _ hs
  | cancelFrom =>
    refine k.command (fun it s s' n ho hs => ?_) h hs
    obtain ⟨-, -, rfl⟩ := ownCancelFrom_ok ho
    exact k.cancel s _ hs
  | replayCue =>
    refine k.command (fun it s s' n ho hs => ?_) h hs
    obtain ⟨-, hm, rfl⟩ := ownReplayCue_ok ho
    exact k.judgeCue s _ hm hs
  | holdPolicy =>
    refine k.command (fun it s s' n ho hs => ?_) h hs
    obtain ⟨-, c, -, rfl⟩ := ownHoldPolicy_ok ho
    exact k.policy s _ hs
  | layoutOverrideSet => exact k.command k.layoutOverride h hs
  | layoutOverrideClear => exact k.command k.layoutOverride h hs
  | activitySet =>
    refine k.command (fun it s s' n ho hs => ?_) h hs
    obtain ⟨-, a, b, c, d, rfl⟩ := ownActivitySet_ok ho
    exact k.activitySet s a b c d hs
  | defaultEntryLoudness => exact k.command k.defaultEntry h hs
  | defaultEntryCaption => exact k.command k.defaultEntry h hs
  | defaultEntryDeadAir => exact k.command k.defaultEntry h hs
  | lineForce =>
    refine k.command (fun it s s' n ho hs => ?_) h hs
    obtain ⟨-, f, -, rfl⟩ := ownLineForce_ok ho
    exact k.lineForce s f hs
  | restart =>
    refine k.command (fun it s s' n ho hs => ?_) h hs
    obtain ⟨rfl, -⟩ := ownRestart_ok ho
    exact k.restart s hs
  | hold => exact k.command (k.archive (fun h => (holdOn_ok h).1) k.hold) h hs
  | releaseHold => exact k.command (k.archive (fun h => (releaseOn_ok h).1) k.release_) h hs
  | exportRequest => exact k.command (k.archive (fun h => (exportOn_ok h).1) k.export_) h hs
  | exportDone => exact k.command (k.archive (fun h => (exportDoneOn_ok h).1) k.exportDone) h hs
  | cueSet =>
    refine k.command (fun it s s' n ho hs => ?_) h hs
    obtain ⟨-, h1, h2, h3, rfl⟩ := ownCueSet_ok ho
    exact k.cueSet s _ _ h1 h2 h3 hs
  | window =>
    refine k.command (fun it s s' n ho hs => ?_) h hs
    cases (ownWindow_ok ho).1
    exact k.window s it s' ho hs
  | entry =>
    refine k.command (fun it s s' n ho hs => ?_) h hs
    obtain ⟨-, e, he, hi, hl, hr, rfl⟩ := ownEntry_ok ho
    exact k.entry s it e he hi hl hr hs
  | filter =>
    refine k.command (fun it s s' n ho hs => ?_) h hs
    obtain ⟨-, hm, h1, h2, rfl⟩ := ownFilter_ok ho
    exact k.filter s _ _ _ hm h1 h2 hs
  | tick cueHigh later =>
    cases h
    split
    · exact hs
    · exact k.tick _ _ _ (k.complete s hs)
  | cue => exact k.event k.cue h hs
  | startCompare => exact k.event k.firing h hs
  | stall => exact k.event k.observerTick h hs
  | deadAir => exact k.event k.activityTick h hs
  | captionGap => exact k.event k.captionTick h hs
  | imageDue => exact k.event k.reportTick h hs
  | descriptorBeat => exact k.event (fun s => k.item s _) h hs
  | sampleWord => exact k.event (fun s => k.item s _) h hs
  | subBlockCompletion =>
    cases h
    split
    · exact hs
    · exact k.complete s hs
  | captionBeat => exact k.event k.captionBeat h hs
  | scanCompletion bank => exact k.event (fun s => k.scan s bank) h hs
  | layRecord => exact k.event k.lay h hs
  | statusImageCompose => exact k.event k.compose h hs
  | refClkEdge cueHigh later => exact k.event (fun s => k.edge s cueHigh later) h hs

/-- A property that each event keeps is kept by every step. -/
theorem Keeps.step (k : Keeps P) (h : step s = .next t) (hs : P s) : P t := by
  unfold Machine.step at h
  split at h
  · cases h
    exact hs
  · exact k.exec h (k.pending s _ hs)

end Sys2Proof.Machine
end

