-- ==== Sys2Proof/Laws/Histogram.lean ====
section
/-! SUPPORT. The histogram of a bank: adding a block keeps the canonical form, adds 1 to one bin and 1 to the total (R89,
R90, R92). -/

namespace Sys2Proof.Machine

/-- The canonical form, one bin at a time. -/
theorem wf_cons {x : Nat × Nat} {t : Histogram} :
    Histogram.wf (x :: t) = true ↔ x.1 < 800 ∧ 0 < x.2 ∧ (∀ y ∈ t, x.1 < y.1) ∧ Histogram.wf t = true := by
  simp only [Histogram.wf, List.all_cons, List.map_cons, Bool.and_eq_true, decide_eq_true_eq, List.pairwise_cons, List.mem_map,
    forall_exists_index, and_imp, forall_apply_eq_imp_iff₂]
  tauto

/-- Adding a block adds 1 to the total. -/
theorem binAdd_total (h : Histogram) (b : Nat) : binTotal (binAdd h b) = binTotal h + 1 := by
  induction h with
  | nil => rfl
  | cons x t ih =>
    obtain ⟨c, n⟩ := x
    simp only [binAdd]
    (repeat' split) <;> simp_all [binTotal] <;> omega

/-- A bin of the sum is the added one or was there. -/
theorem binAdd_mem {h : Histogram} {b : Nat} {x : Nat × Nat} (hx : x ∈ binAdd h b) : x.1 = b ∨ ∃ y ∈ h, y.1 = x.1 := by
  induction h with
  | nil =>
    simp only [binAdd, List.mem_singleton] at hx
    simp [hx]
  | cons y t ih =>
    obtain ⟨c, n⟩ := y
    simp only [binAdd] at hx
    split at hx
    · simp only [List.mem_cons] at hx
      rcases hx with rfl | rfl | hx
      · simp
      · exact .inr ⟨(c, n), by simp, rfl⟩
      · exact .inr ⟨x, by simp [hx], rfl⟩
    · split at hx
      · simp only [List.mem_cons] at hx
        rcases hx with rfl | hx
        · left; simp_all
        · exact .inr ⟨x, by simp [hx], rfl⟩
      · simp only [List.mem_cons] at hx
        rcases hx with rfl | hx
        · exact .inr ⟨(c, n), by simp, rfl⟩
        · rcases ih hx with h | ⟨y, hy, e⟩
          · exact .inl h
          · exact .inr ⟨y, by simp [hy], e⟩

/-- Adding a block to a canonical histogram leaves it canonical. -/
theorem binAdd_wf {h : Histogram} (hw : Histogram.wf h = true) {b : Nat} (hb : b < 800) :
    Histogram.wf (binAdd h b) = true := by
  induction h with
  | nil => simp [binAdd, Histogram.wf, hb]
  | cons x t ih =>
    obtain ⟨c, n⟩ := x
    have hw' := hw
    rw [wf_cons] at hw'
    obtain ⟨h1, h2, h3, h4⟩ := hw'
    simp only [binAdd]
    split
    · rw [wf_cons]
      refine ⟨hb, by simp, fun y hy => ?_, hw⟩
      simp only [List.mem_cons] at hy
      rcases hy with rfl | hy
      · assumption
      · have := h3 y hy
        simp only at *
        omega
    · split
      · rw [wf_cons]
        exact ⟨h1, by simp, h3, h4⟩
      · rw [wf_cons]
        refine ⟨h1, h2, fun y hy => ?_, ih h4⟩
        rcases binAdd_mem hy with e | ⟨z, hz, e⟩
        · simp only at *
          omega
        · rw [← e]
          exact h3 z hz

/-- A bin below every listed one counts 0. -/
theorem binCount_below {h : Histogram} {b : Nat} (hb : ∀ y ∈ h, b < y.1) : binCount h b = 0 := by
  induction h with
  | nil => rfl
  | cons x t ih =>
    obtain ⟨c, n⟩ := x
    have hc : b < c := hb (c, n) (by simp)
    simp only [binCount, if_neg (by omega : ¬ c = b)]
    exact ih fun y hy => hb y (by simp [hy])

/-- Adding a block to a canonical histogram adds 1 to its bin and changes no other. -/
theorem binCount_binAdd {h : Histogram} (hw : Histogram.wf h = true) (b x : Nat) :
    binCount (binAdd h b) x = binCount h x + if x = b then 1 else 0 := by
  induction h with
  | nil =>
    simp only [binAdd, binCount]
    by_cases e : b = x <;> simp [e, eq_comm]
  | cons y t ih =>
    obtain ⟨c, n⟩ := y
    rw [wf_cons] at hw
    obtain ⟨-, -, h3, h4⟩ := hw
    simp only [binAdd]
    split
    · rename_i lt
      by_cases e : x = b
      · subst e
        have : binCount ((c, n) :: t) x = 0 := binCount_below fun y hy => by
          simp only [List.mem_cons] at hy
          rcases hy with rfl | hy
          · exact lt
          · have := h3 y hy
            simp only at *
            omega
        rw [this]
        simp [binCount]
      · simp [binCount, e, Ne.symm e]
    · split
      · rename_i e
        subst e
        by_cases e : x = b
        · simp [binCount, e]
        · simp [binCount, e, Ne.symm e]
      · rename_i h1 h2
        simp only [binCount]
        split
        · rename_i e
          subst e
          simp [Ne.symm h2]
        · exact ih h4

end Sys2Proof.Machine
end

