-- ==== Sys2Proof/Laws/ReportUnit.lean ====
section
/-! SUPPORT. Which operations touch the report unit by offers and ticks alone, and how a
unit in progress keeps its room in the ring (R158 to R163, R170). -/

namespace Sys2Proof.Machine

/-- A report unit that comes from another by taking offers and ticks, and by nothing else (R158, R170). -/
inductive Heard (a : Reports) : Reports → Prop where
  | refl : Heard a a
  | offer {b : Reports} (r : Report) (now : Time) : Heard a b → Heard a (takeOffer r now b)
  | tick {b : Reports} : Heard a b → Heard a (reportTick b)

@[simp] theorem heard_refl (a : Reports) : Heard a a := .refl

@[simp] theorem takeOffer_heard {a b : Reports} (r : Report) (now : Time) (h : Heard a b) :
    Heard a (takeOffer r now b) := .offer r now h

@[simp] theorem offer_heard {a : Reports} (r : Report) {s : State} (h : Heard a s.ru) : Heard a (offer r s).ru :=
  .offer r _ h

@[simp] theorem ite_heard {a : Reports} {c : Prop} [Decidable c] {x y : State} (hx : Heard a x.ru)
    (hy : Heard a y.ru) : Heard a (if c then x else y).ru := by split <;> assumption

/-- What every offer and every tick keeps, an operation that makes only these keeps. -/
theorem Heard.keeps {P : Reports → Prop} (hO : ∀ r now b, P b → P (takeOffer r now b))
    (hT : ∀ b, P b → P (reportTick b)) {a b : Reports} (h : Heard a b)
    (ha : P a) : P b := by
  induction h with
  | refl => exact ha
  | offer r now _ ih => exact hO r now _ ih
  | tick _ ih => exact hT _ ih

@[simp] theorem joinReason_heard {a : Reports} (g : Segment) (reason : HoldReason) (req : Option HoldRequest) (missing : Bool)
    {s : State}
    (h : Heard a s.ru) : Heard a (joinReason g reason req missing s).ru := by
  unfold joinReason; dsimp only; (repeat' split) <;> simp_all

@[simp] theorem holdClosed_heard {a : Reports} (g : Segment) (reason : HoldReason) (req : Option HoldRequest) (missing : Bool)
    {s : State}
    (h : Heard a s.ru) : Heard a (holdClosed g reason req missing s).ru := by
  unfold holdClosed; dsimp only; simp_all

@[simp] theorem holdSegment_heard {a : Reports} (req : HoldRequest) (missing : Bool)  (index : Nat) {s : State}
    (h : Heard a s.ru) : Heard a (holdSegment req missing s index).ru := by
  unfold holdSegment; (repeat' split) <;> simp_all

@[simp] theorem holdFold_heard {a : Reports} (req : HoldRequest) (m : Bool) (l : List Nat) {s : State}
    (h : Heard a s.ru) : Heard a (l.foldl (holdSegment req m) s).ru := by
  induction l generalizing s with
  | nil => simpa using h
  | cons i l ih => exact ih (holdSegment_heard req m i h)

@[simp] theorem holdRequest_heard {a : Reports} (req : HoldRequest) {s : State}
    (h : Heard a s.ru) : Heard a (holdRequest req s).ru := by
  unfold holdRequest; dsimp only; (repeat' split) <;> simp_all

@[simp] theorem reportClose_heard {a : Reports} (g : Segment) (cleared : ReasonSet) (pending : Option PendingExport)
    {s : State} (h : Heard a s.ru) : Heard a (reportClose g cleared pending s).ru := by
  unfold reportClose
  dsimp only
  (repeat' split) <;> (repeat' first | exact h | apply offer_heard)

@[simp] theorem closeFilling_heard {a : Reports} (g : Segment) {s : State}
    (h : Heard a s.ru) : Heard a (closeFilling g s).ru := by
  simp_all [closeFilling]

@[simp] theorem countBlocked_heard {a : Reports} (r : Request)  (index : Nat) {s : State}
    (h : Heard a s.ru) : Heard a (countBlocked r s index).ru := by
  unfold countBlocked; dsimp only; (repeat' split) <;> simp_all

@[simp] theorem blockFold_heard {a : Reports} (r : Request) (l : List Nat) {s : State}
    (h : Heard a s.ru) : Heard a (l.foldl (countBlocked r) s).ru := by
  induction l generalizing s with
  | nil => simpa using h
  | cons i l ih => exact ih (countBlocked_heard r i h)

@[simp] theorem blockRecordWrite_heard {a : Reports} (r : Request) (ts : List Touch) {s : State}
    (h : Heard a s.ru) : Heard a (blockRecordWrite r ts s).ru := by
  simp_all [blockRecordWrite]

@[simp] theorem capture_heard {a : Reports} (ts : List Touch) {s : State}
    (h : Heard a s.ru) : Heard a (capture ts s).ru := by
  unfold capture; dsimp only; (repeat' split) <;> simp_all

@[simp] theorem buildVerdict_heard {a : Reports} (c : ClosedEntry) (ungated integrated : Option Int) {s : State}
    (h : Heard a s.ru) : Heard a (buildVerdict c ungated integrated s).ru := by
  unfold buildVerdict; dsimp only; (repeat' split) <;> simp_all

@[simp] theorem closeEntry_heard {a : Reports} (actualEnd : Time) (aborted : Bool) {s : State}
    (h : Heard a s.ru) : Heard a (closeEntry actualEnd aborted s).ru := by
  unfold closeEntry; dsimp only; (repeat' split) <;> simp_all

@[simp] theorem openOne_heard {a : Reports} (e : Entry) (start : Time) (cause : Cause) (cuedEarly : Bool) (rest : List Entry)
    {s : State}
    (h : Heard a s.ru) : Heard a (openOne e start cause cuedEarly rest s).ru := by
  unfold openOne; dsimp only; simp_all

@[simp] theorem cascade_heard {a : Reports} (b : Bool) (l : List Entry) {s : State}
    (h : Heard a s.ru) : Heard a (cascade b l s).ru := by
  induction l generalizing s with
  | nil => simpa [cascade] using h
  | cons e l ih => unfold cascade; split <;> simp_all

@[simp] theorem openHead_heard {a : Reports} (start : Time) (cause : Cause) (cuedEarly : Bool) {s : State}
    (h : Heard a s.ru) : Heard a (openHead start cause cuedEarly s).ru := by
  unfold openHead; (repeat' split) <;> simp_all

@[simp] theorem openDefault_heard {a : Reports}  {s : State}
    (h : Heard a s.ru) : Heard a (openDefault s).ru := by
  simp_all [openDefault]

@[simp] theorem takeFiring_heard {a : Reports}  {s : State}
    (h : Heard a s.ru) : Heard a (takeFiring s).ru := by
  unfold takeFiring; dsimp only; (repeat' split) <;> simp_all

@[simp] theorem strayCue_heard {a : Reports} (captured : Time) {s : State}
    (h : Heard a s.ru) : Heard a (strayCue captured s).ru := by
  unfold strayCue; dsimp only; simp_all

@[simp] theorem judgeCue_heard {a : Reports} (captured : Time) {s : State}
    (h : Heard a s.ru) : Heard a (judgeCue captured s).ru := by
  unfold judgeCue; (repeat' split) <;> simp_all

@[simp] theorem takeCue_heard {a : Reports}  {s : State}
    (h : Heard a s.ru) : Heard a (takeCue s).ru := by
  unfold takeCue; dsimp only; (repeat' split) <;> simp_all

@[simp] theorem completeScan_heard {a : Reports} (bank : Bank) {s : State}
    (h : Heard a s.ru) : Heard a (completeScan bank s).ru := by
  unfold completeScan; dsimp only; (repeat' split) <;> simp_all

@[simp] theorem askHold_heard {a : Reports} (e : OpenEntry) (reason : HoldReason) (start : Time) {s : State}
    (h : Heard a s.ru) : Heard a (askHold e reason start s).ru := by
  simp_all [askHold]

@[simp] theorem becomeActive_heard {a : Reports}  {s : State}
    (h : Heard a s.ru) : Heard a (becomeActive s).ru := by
  unfold becomeActive; dsimp only; (repeat' split) <;> simp_all

@[simp] theorem decideActivity_heard {a : Reports} (level : Option Int) {s : State}
    (h : Heard a s.ru) : Heard a (decideActivity level s).ru := by
  unfold decideActivity; dsimp only; (repeat' split) <;> simp_all

@[simp] theorem beginDeadAir_heard {a : Reports}  {s : State}
    (h : Heard a s.ru) : Heard a (beginDeadAir s).ru := by
  unfold beginDeadAir; dsimp only; (repeat' split) <;> simp_all

@[simp] theorem activityTick_heard {a : Reports}  {s : State}
    (h : Heard a s.ru) : Heard a (activityTick s).ru := by
  unfold activityTick; dsimp only; (repeat' split) <;> simp_all

@[simp] theorem takeQualifying_heard {a : Reports} (u : UnitShadow) (e : OpenEntry) {s : State}
    (h : Heard a s.ru) : Heard a (takeQualifying u e s).ru := by
  unfold takeQualifying; dsimp only; (repeat' split) <;> simp_all

@[simp] theorem commitUnit_heard {a : Reports} (u : UnitShadow) {s : State}
    (h : Heard a s.ru) : Heard a (commitUnit u s).ru := by
  unfold commitUnit; (repeat' split) <;> simp_all

@[simp] theorem continueUnit_heard {a : Reports} (u : UnitShadow) (offset : Nat) (b : WBeat) {s : State}
    (h : Heard a s.ru) : Heard a (continueUnit u offset b s).ru := by
  unfold continueUnit; dsimp only; (repeat' split) <;> simp_all

@[simp] theorem tearUnit_heard {a : Reports} (u : UnitShadow) (offset : Nat) {s : State}
    (h : Heard a s.ru) : Heard a (tearUnit u offset s).ru := by
  unfold tearUnit; dsimp only; (repeat' split) <;> simp_all

@[simp] theorem captionBeatEvent_heard {a : Reports} (c : CaptionBeat) {s : State}
    (h : Heard a s.ru) : Heard a (captionBeatEvent c s).ru := by
  unfold captionBeatEvent; (repeat' split) <;> simp_all

@[simp] theorem takeCaption_heard {a : Reports}  {s : State}
    (h : Heard a s.ru) : Heard a (takeCaption s).ru := by
  unfold takeCaption; dsimp only; (repeat' split) <;> simp_all

@[simp] theorem beginGap_heard {a : Reports}  {s : State}
    (h : Heard a s.ru) : Heard a (beginGap s).ru := by
  unfold beginGap; dsimp only; (repeat' split) <;> simp_all

@[simp] theorem captionTick_heard {a : Reports}  {s : State}
    (h : Heard a s.ru) : Heard a (captionTick s).ru := by
  unfold captionTick; dsimp only; (repeat' split) <;> simp_all

@[simp] theorem offerAudioState_heard {a : Reports} (cause : AudioCause) (before : Engine) {s : State}
    (h : Heard a s.ru) : Heard a (offerAudioState cause before s).ru := by
  simp_all [offerAudioState]

@[simp] theorem takeDescriptor_heard {a : Reports}  {s : State}
    (h : Heard a s.ru) : Heard a (takeDescriptor s).ru := by
  unfold takeDescriptor; dsimp only; (repeat' split) <;> simp_all

@[simp] theorem descriptorBeatEvent_heard {a : Reports} (offset : Nat) (b : WBeat) {s : State}
    (h : Heard a s.ru) : Heard a (descriptorBeatEvent offset b s).ru := by
  unfold descriptorBeatEvent; dsimp only; (repeat' split) <;> simp_all

@[simp] theorem resumeEngine_heard {a : Reports}  {s : State}
    (h : Heard a s.ru) : Heard a (resumeEngine s).ru := by
  unfold resumeEngine; dsimp only; (repeat' split) <;> simp_all

@[simp] theorem acceptWord_heard {a : Reports} (offset : Nat) (data : BitVec 32) {s : State}
    (h : Heard a s.ru) : Heard a (acceptWord offset data s).ru := by
  unfold acceptWord; dsimp only; simp_all

@[simp] theorem sampleWordEvent_heard {a : Reports} (offset : Nat) (data : BitVec 32) (enables : BitVec 4) {s : State}
    (h : Heard a s.ru) : Heard a (sampleWordEvent offset data enables s).ru := by
  unfold sampleWordEvent; dsimp only; (repeat' split) <;> simp_all

@[simp] theorem audioItemEvent_heard {a : Reports} (i : AudioItem) {s : State}
    (h : Heard a s.ru) : Heard a (audioItemEvent i s).ru := by
  unfold audioItemEvent; (repeat' split) <;> simp_all

@[simp] theorem checkCeiling_heard {a : Reports} (level : Int) {s : State}
    (h : Heard a s.ru) : Heard a (checkCeiling level s).ru := by
  unfold checkCeiling; dsimp only; (repeat' split) <;> simp_all

@[simp] theorem shortTermStep_heard {a : Reports}  {s : State}
    (h : Heard a s.ru) : Heard a (shortTermStep s).ru := by
  unfold shortTermStep; dsimp only; (repeat' split) <;> simp_all

@[simp] theorem completionTail_heard {a : Reports} (b : SubBlock) {s : State}
    (h : Heard a s.ru) : Heard a (completionTail b s).ru := by
  unfold completionTail; dsimp only; simp_all

@[simp] theorem completeSubBlock_heard {a : Reports}  {s : State}
    (h : Heard a s.ru) : Heard a (completeSubBlock s).ru := by
  unfold completeSubBlock; dsimp only; (repeat' split) <;> simp_all

@[simp] theorem enterStalled_heard {a : Reports}  {s : State}
    (h : Heard a s.ru) : Heard a (enterStalled s).ru := by
  unfold enterStalled; dsimp only; simp_all

@[simp] theorem observerTick_heard {a : Reports}  {s : State}
    (h : Heard a s.ru) : Heard a (observerTick s).ru := by
  unfold observerTick; dsimp only; (repeat' split) <;> simp_all

@[simp] theorem takeObserverTick_heard {a : Reports}  {s : State}
    (h : Heard a s.ru) : Heard a (takeObserverTick s).ru := by
  unfold takeObserverTick; dsimp only; (repeat' split) <;> simp_all

@[simp] theorem takeActivityTick_heard {a : Reports}  {s : State}
    (h : Heard a s.ru) : Heard a (takeActivityTick s).ru := by
  unfold takeActivityTick; dsimp only; (repeat' split) <;> simp_all

@[simp] theorem takeCaptionTick_heard {a : Reports}  {s : State}
    (h : Heard a s.ru) : Heard a (takeCaptionTick s).ru := by
  unfold takeCaptionTick; dsimp only; (repeat' split) <;> simp_all

@[simp] theorem takeReportTick_heard {a : Reports} {s : State} (h : Heard a s.ru) :
    Heard a (takeReportTick s).ru := by
  unfold takeReportTick
  split
  · exact .tick h
  · exact h

@[simp] theorem takeOwedTicks_heard {a : Reports} {s : State} (h : Heard a s.ru) :
    Heard a (takeOwedTicks s).ru :=
  takeReportTick_heard (by simpa using takeCaptionTick_heard (takeActivityTick_heard (takeObserverTick_heard h)))

@[simp] theorem offerTick_heard {a : Reports} (later : TickSet) {s : State}
    (h : Heard a s.ru) : Heard a (offerTick later s).ru := by
  unfold offerTick; dsimp only; simp_all

@[simp] theorem takeCues_heard {a : Reports} (l : List Time) {s : State}
    (h : Heard a s.ru) : Heard a (takeCues l s).ru := by
  induction l generalizing s with
  | nil => simpa [takeCues] using h
  | cons e l ih => unfold takeCues; simp_all

@[simp] theorem takeOffers_heard {a : Reports} {s : State} (h : Heard a s.ru) : Heard a (takeOffers s).ru :=
  takeCues_heard _ (takeFiring_heard (takeOwedTicks_heard h))

@[simp] theorem forceScans_heard {a : Reports} (expired : Option ClosingSlot → Bool) {s : State}
    (h : Heard a s.ru) : Heard a (forceScans expired s).ru := by
  unfold forceScans; dsimp only; (repeat' split) <;> simp_all

@[simp] theorem tickEvent_heard {a : Reports} (cueHigh : Bool) (later : TickSet) {s : State} (h : Heard a s.ru) :
    Heard a (tickEvent cueHigh later s).ru :=
  offerTick_heard later (forceScans_heard tickExpired (takeOffers_heard h))

@[simp] theorem passEdges_heard {a : Reports} (n : Nat) {s : State}
    (h : Heard a s.ru) : Heard a (passEdges n s).ru := by
  unfold passEdges; dsimp only; split <;> simp_all

@[simp] theorem edgeEvent_heard {a : Reports} (cueHigh : Bool) (later : TickSet) {s : State}
    (h : Heard a s.ru) : Heard a (edgeEvent cueHigh later s).ru := by
  unfold edgeEvent; dsimp only; (repeat' split) <;> simp_all

@[simp] theorem takeFrameTick_heard {a : Reports} (later : TickSet) {s : State}
    (h : Heard a s.ru) : Heard a (takeFrameTick later s).ru := by
  unfold takeFrameTick; dsimp only; (repeat' split) <;> simp_all

@[simp] theorem settleWord_heard {a : Reports}  {s : State}
    (h : Heard a s.ru) : Heard a (settleWord s).ru := by
  simp_all [settleWord]

@[simp] theorem takeAudio_heard {a : Reports}  {s : State}
    (h : Heard a s.ru) : Heard a (takeAudio s).ru := by
  unfold takeAudio; dsimp only; (repeat' split) <;> simp_all

@[simp] theorem commitEntry_heard {a : Reports} (e : Entry) {s : State}
    (h : Heard a s.ru) : Heard a (commitEntry e s).ru := by
  unfold commitEntry; dsimp only; (repeat' split) <;> simp_all

@[simp] theorem formItem_heard {a : Reports} (it : CmdItem) {s : State}
    (h : Heard a s.ru) : Heard a (formItem it s).ru := by
  unfold formItem; dsimp only; (repeat' split) <;> simp_all

@[simp] theorem controlBeatEvent_heard {a : Reports} (b : CtlBeat) {s : State}
    (h : Heard a s.ru) : Heard a (controlBeatEvent b s).ru := by
  unfold controlBeatEvent; dsimp only; (repeat' split) <;> simp_all

@[simp] theorem takeControlBeat_heard {a : Reports}  {s : State}
    (h : Heard a s.ru) : Heard a (takeControlBeat s).ru := by
  unfold takeControlBeat; dsimp only; (repeat' split) <;> simp_all

@[simp] theorem grantExport_heard {a : Reports} (g : Segment) (it : CmdItem) {s : State}
    (h : Heard a s.ru) : Heard a (grantExport g it s).ru := by
  unfold grantExport; dsimp only; simp_all

@[simp] theorem reportBlock_heard {a : Reports} (index : Nat) (reason : BlockReason) (r : Request) {s : State}
    (h : Heard a s.ru) : Heard a (reportBlock index reason r s).ru := by
  unfold reportBlock; dsimp only; simp_all

@[simp] theorem blockRequest_heard {a : Reports} (index : Option Nat) (reason : BlockReason) (r : Request) {s : State}
    (h : Heard a s.ru) : Heard a (blockRequest index reason r s).ru := by
  unfold blockRequest; dsimp only; (repeat' split) <;> simp_all

@[simp] theorem presentWrite_heard {a : Reports} (slot : Nat) (w : Window) (r : Request) {s : State}
    (h : Heard a s.ru) : Heard a (presentWrite slot w r s).ru := by
  unfold presentWrite; dsimp only; (repeat' split) <;> simp_all

@[simp] theorem takeRequest_heard {a : Reports} (r : Request) {s : State}
    (h : Heard a s.ru) : Heard a (takeRequest r s).ru := by
  unfold takeRequest; (repeat' split) <;> simp_all

@[simp] theorem tickRow_heard {a : Reports} (cueHigh : Bool) (later : TickSet) {s : State}
    (h : Heard a s.ru) : Heard a (tickRow cueHigh later s).ru := by
  unfold tickRow; dsimp only; (repeat' split) <;> simp_all

@[simp] theorem takeItem_heard {a : Reports} (mine : AudioItem → Bool) {s : State}
    (h : Heard a s.ru) : Heard a (takeItem mine s).ru := by
  unfold takeItem; dsimp only; (repeat' split) <;> simp_all

@[simp] theorem repeatAudio_heard {a : Reports} (n : Nat) {s : State} (h : Heard a s.ru) :
    Heard a (repeatStep takeAudio n s).ru := by
  induction n generalizing s with
  | zero => exact h
  | succ n ih => exact ih (takeAudio_heard h)

@[simp] theorem repeatCaption_heard {a : Reports} (n : Nat) {s : State} (h : Heard a s.ru) :
    Heard a (repeatStep takeCaption n s).ru := by
  induction n generalizing s with
  | zero => exact h
  | succ n ih => exact ih (takeCaption_heard h)

@[simp] theorem drainOffers_heard {a : Reports} {s : State} (h : Heard a s.ru) : Heard a (drainOffers s).ru :=
  takeOffers_heard (repeatCaption_heard _ (settleWord_heard (repeatAudio_heard _ h)))

@[simp] theorem startMode_heard {a : Reports} (m : Mode) {s : State}
    (h : Heard a s.ru) : Heard a (startMode m s).ru := by
  unfold startMode; dsimp only; simp_all

@[simp] theorem stopMode_heard {a : Reports}  {s : State}
    (h : Heard a s.ru) : Heard a (stopMode s).ru := by
  unfold stopMode; dsimp only; simp_all

@[simp] theorem restartPart_heard {a : Reports}  {s : State}
    (h : Heard a s.ru) : Heard a (restartPart s).ru := by
  unfold restartPart; dsimp only; simp_all

/-! ### The room of a unit in progress (R160 to R163) -/

/-- A record takes as many positions as are laid for it (R158). -/
theorem recordPositions_length (q : QueuedReport) (number : BitVec 32) :
    (recordPositions q number).length = positions q.report := by
  unfold recordPositions positions
  cases q.report <;> rfl

theorem positions_pos (r : Report) : 1 ≤ positions r := by unfold positions; split <;> omega

/-- A unit fits as before when the indices stand and the head record is the same. -/
theorem UnitFits.of_head {g : Geometry} {a b : Reports} {u : UnitInProgress} (h : UnitFits g a u)
    (hw : b.writeIndex = a.writeIndex) (hr : b.readIndex = a.readIndex)
    (hq : ∀ q rest, a.queue = q :: rest → ∃ rest', b.queue = q :: rest') : UnitFits g b u := by
  obtain ⟨hne, hi, hrec⟩ := h
  refine ⟨hne, hi, fun e => ?_⟩
  obtain ⟨q, rest, e', room⟩ := hrec e
  obtain ⟨rest', e''⟩ := hq q rest e'
  exact ⟨q, rest', e'', by rw [hw, hr]; exact room⟩

/-- An offer leaves the head of the report queue and the indices, and so the room of a unit in progress (R159). -/
theorem takeOffer_unitFits (g : Geometry) (r : Report) (now : Time) (b : Reports)
    (h : ∀ u, b.current = some u → UnitFits g b u) :
    ∀ u, (takeOffer r now b).current = some u → UnitFits g (takeOffer r now b) u := by
  intro u hu
  by_cases hl : b.queue.length < 16
  · have e := takeOffer_queued r now b hl
    rw [e] at hu ⊢
    refine (h u (by simpa using hu)).of_head (by simp) (by simp) fun q rest hq => ⟨rest ++ [⟨r, now⟩], by simp [hq]⟩
  · have e := takeOffer_full r now b (by omega)
    rw [e] at hu ⊢
    refine (h u (by simpa using hu)).of_head (by simp) (by simp) fun q rest hq => ⟨rest, by simpa using hq⟩

/-- The unread count of two positions without the modulus. -/
theorem unread_eq {c w r : Nat} (hw : w < c) (hr : r < c) : (w + c - r) % c = if r ≤ w then w - r else w + c - r := by
  split
  · rw [show w + c - r = w - r + c by omega, Nat.add_mod_right, Nat.mod_eq_of_lt (by omega)]
  · exact Nat.mod_eq_of_lt (by omega)

/-- The write index moved on by one adds one to the unread count at most. -/
theorem unread_next {c w r : Nat} (hw : w < c) (hr : r < c) :
    ((w + 1) % c + c - r) % c ≤ (w + c - r) % c + 1 := by
  rw [unread_eq hw hr]
  rcases Nat.lt_or_ge (w + 1) c with h | h
  · rw [Nat.mod_eq_of_lt h, unread_eq h hr]
    (repeat' split) <;> omega
  · rw [show w + 1 = c by omega, Nat.mod_self, unread_eq (by omega) hr]
    (repeat' split) <;> omega

/-- A record laid with room, and its LOST record, lie ahead of the unread positions (R161, R163). -/
theorem layHead_unitFits {g : Geometry} {now : Time} {q : QueuedReport} {rest : List QueuedReport} {ru : Reports}
    (hg : ru.geometry = some g) (hq : ru.queue = q :: rest) (room : hasRingRoom q.report ru = true) :
    ∀ u, (layHead g now q ru).current = some u → UnitFits g (layHead g now q ru) u := by
  rintro u hu
  have hb : ∀ p n i b, (recordBursts g p q n)[i]? = some b → b.addr = g.base + 256 + 64 * ((p + i) % g.capacity) := by
    intro p n i b h
    simp only [recordBursts, List.getElem?_map, Option.map_eq_some_iff] at h
    obtain ⟨x, hx, rfl⟩ := h
    have : x.2 = i := by
      rw [List.getElem?_zipIdx] at hx
      simp only [Option.map_eq_some_iff] at hx
      obtain ⟨_, _, rfl⟩ := hx
      simp
    simp [positionAddr, this]
  have hl : ∀ p n, (recordBursts g p q n).length = positions q.report := by
    intro p n; simp [recordBursts, recordPositions_length]
  have hpos := positions_pos q.report
  simp only [hasRingRoom, unreadOf, unread, capacityOf, hg, Option.map_some, Option.getD_some, positionsNeeded,
    decide_eq_true_eq] at room
  simp only [layHead, Option.some.injEq] at hu
  by_cases z : ru.lostCount = 0#32
  · simp [z, lostBursts] at hu room
    subst hu
    refine ⟨by intro e; have := congrArg List.length e; simp [hl] at this; omega, by simp, fun _ => ⟨q, rest, hq, ?_⟩⟩
    simp only [layHead, hl]
    refine ⟨by simpa using room, by simp, by simp, fun i b h => ?_⟩
    simpa using hb _ _ _ _ h
  · simp [z, lostBursts] at hu room
    subst hu
    refine ⟨by simp, by simp, fun _ => ⟨q, rest, hq, ?_⟩⟩
    simp only [layHead, List.length_cons, hl]
    refine ⟨by simpa using room, by simp, by simp, fun i b h => ?_⟩
    cases i with
    | zero => simp at h; subst h; simp [positionAddr]
    | succ i =>
      have := hb _ _ _ _ (by simpa using h)
      rw [this]
      simp
      congr 1
      omega

@[simp] theorem finishRecord_current (ru : Reports) : (finishRecord ru).current = none := by
  unfold finishRecord
  dsimp only
  (repeat' split) <;> simp [moveWrite]

/-- A record's end leaves the geometry of the ring. -/
theorem finishRecord_geometry (ru : Reports) : (finishRecord ru).geometry = ru.geometry := by
  unfold finishRecord
  split
  · rfl
  · dsimp only; split <;> rfl

/-- A burst taken leaves the geometry of the ring. -/
theorem burstTaken_geometry (u : UnitInProgress) (rest : List Burst) (ru : Reports) :
    (burstTaken u rest ru).geometry = ru.geometry := by
  unfold burstTaken
  (repeat' split) <;> first | rfl | exact finishRecord_geometry _

/-- What is left of a unit after a burst has been taken still lies ahead of the unread positions (R161, log 20). -/
theorem burstTaken_unitFits {g : Geometry} {u : UnitInProgress} {b : Burst} {rest : List Burst} {ru : Reports}
    (hg : ru.geometry = some g) (hw : ru.writeIndex < g.capacity) (hr : ru.readIndex < g.capacity)
    (hb : u.bursts = b :: rest) (fits : UnitFits g ru u) :
    ∀ u', (burstTaken u rest ru).current = some u' → UnitFits g (burstTaken u rest ru) u' := by
  intro u' hu'
  obtain ⟨-, hi, hrec⟩ := fits
  unfold burstTaken at hu' ⊢
  by_cases hlost : u.lost.isSome = true
  · simp only [hlost, if_true, moveWrite, Option.some.injEq] at hu' ⊢
    subst hu'
    have him : u.image = false := by
      cases h : u.image
      · rfl
      · simp [hi h] at hlost
    obtain ⟨q, more, hq, room, hle, hlen, haddr⟩ := hrec him
    have hpos := positions_pos q.report
    simp only [hlost, if_true, hb, List.length_cons] at room hle hlen haddr
    have hl := hlen trivial
    refine ⟨by intro e; simp [show rest = [] from e] at hl; omega, by simp, fun _ => ⟨q, more, hq, ?_⟩⟩
    simp only [capacityOf, hg, Option.map_some, Option.getD_some, Option.isSome_none, Bool.false_eq_true, if_false,
      Nat.add_zero]
    refine ⟨?_, by omega, by simp, fun i b' h => ?_⟩
    · have e : (((ru.writeIndex + 1) % g.capacity + g.capacity - ru.readIndex) % g.capacity)
          ≤ (ru.writeIndex + g.capacity - ru.readIndex) % g.capacity + 1 := by
        exact unread_next hw hr
      omega
    · have := haddr (i + 1) b' (by simpa using h)
      rw [this]
      have e1 : positions q.report + 1 - (rest.length + 1) = 0 := by omega
      have e2 : positions q.report - rest.length = 0 := by omega
      rw [e1, e2]
      simp [Nat.add_mod, Nat.add_comm, Nat.add_left_comm]
  · simp only [hlost, Bool.false_eq_true, if_false] at hu' ⊢
    by_cases he : rest.isEmpty = true
    · simp only [he, if_true] at hu' ⊢
      by_cases him : u.image = true
      · simp [him] at hu'
      · simp [him] at hu'
    · simp only [he, Bool.false_eq_true, if_false, Option.some.injEq] at hu' ⊢
      subst hu'
      refine ⟨by simpa using he, hi, fun him => ?_⟩
      obtain ⟨q, more, hq, room, hle, hlen, haddr⟩ := hrec him
      simp only [hlost, Bool.false_eq_true, if_false, hb, List.length_cons] at room hle hlen haddr
      refine ⟨q, more, hq, ?_⟩
      simp only [hlost, Bool.false_eq_true, if_false]
      refine ⟨room, by omega, fun h => absurd h (by simp), fun i b' h => ?_⟩
      have := haddr (i + 1) b' (by simpa using h)
      rw [this]
      congr 3
      omega

end Sys2Proof.Machine
end

