-- ==== Sys2Proof/Laws/Settle.lean ====
section
/-! SUPPORT. What belongs to the event of a word already taken, said once: after it nothing of the kind is left (log 5). -/

namespace Sys2Proof.Machine

/-! ### The mark of a frame's tick -/

@[simp] theorem loadCompare_frameTick (v : Option Time) (s : State) : (loadCompare v s).tb.frameTick = s.tb.frameTick := rfl

@[simp] theorem cascade_frameTick (b : Bool) (l : List Entry) (s : State) :
    (cascade b l s).tb.frameTick = s.tb.frameTick := by
  induction l generalizing s with
  | nil => rfl
  | cons e l ih => unfold cascade; split <;> simp [ih]

@[simp] theorem openHead_frameTick (start : Time) (c : Cause) (b : Bool) (s : State) :
    (openHead start c b s).tb.frameTick = s.tb.frameTick := by
  unfold openHead; split <;> simp

@[simp] theorem judgeCue_frameTick (t : Time) (s : State) : (judgeCue t s).tb.frameTick = s.tb.frameTick := by
  unfold judgeCue; (repeat' split) <;> simp

@[simp] theorem takeCues_frameTick (l : List Time) (s : State) : (takeCues l s).tb.frameTick = s.tb.frameTick := by
  induction l generalizing s with
  | nil => rfl
  | cons e l ih => unfold takeCues; simp [ih]

@[simp] theorem takeFiring_frameTick (s : State) : (takeFiring s).tb.frameTick = s.tb.frameTick := by
  unfold takeFiring; split <;> simp

@[simp] theorem takeOwedTicks_frameTick (s : State) : (takeOwedTicks s).tb.frameTick = s.tb.frameTick := by
  have a (s : State) : (takeObserverTick s).tb.frameTick = s.tb.frameTick := by
    unfold takeObserverTick; split <;> simp [setOwed]
  have b (s : State) : (takeActivityTick s).tb.frameTick = s.tb.frameTick := by
    unfold takeActivityTick; split <;> simp [setOwed]
  have c (s : State) : (takeCaptionTick s).tb.frameTick = s.tb.frameTick := by
    unfold takeCaptionTick; split <;> simp [setOwed]
  have d (s : State) : (takeScheduleTick s).tb.frameTick = s.tb.frameTick := by
    unfold takeScheduleTick; split <;> simp [setOwed]
  have e (s : State) : (takeReportTick s).tb.frameTick = s.tb.frameTick := by
    unfold takeReportTick; split <;> simp [setOwed]
  simp [takeOwedTicks, a, b, c, d, e]

@[simp] theorem advanceTime_frameTick (m : Mode) (h : Bool) (tb : TimeBase) :
    (advanceTime m h tb).frameTick = tb.frameTick := by
  have a (tb : TimeBase) : (testCompare tb).frameTick = tb.frameTick := by
    unfold testCompare; (repeat' split) <;> rfl
  have b (tb : TimeBase) : (sampleCue h tb).frameTick = tb.frameTick := by
    unfold sampleCue; dsimp only; (repeat' split) <;> rfl
  cases m <;> simp [advanceTime, a, b]

/-- A tick leaves the mark of a frame's tick as it is. -/
@[simp] theorem tickEvent_frameTick (h : Bool) (l : TickSet) (s : State) :
    (tickEvent h l s).tb.frameTick = s.tb.frameTick := by
  simp [tickEvent, offerTick, setOwed, takeOffers]

/-! ### A completion that is due -/

/-- A tick makes no completion due. -/
theorem tickEvent_not_due (h : Bool) (l : TickSet) {s : State} (d : completionDue s = false) :
    completionDue (tickEvent h l s) = false := by
  have o {s : State} (d : completionDue s = false) : completionDue (takeObserverTick s) = false := by
    have st (s : State) : completionDue (enterStalled s) = false := by
      simp [completionDue, enterStalled, abandon, offerAudioState, clearFilters]
    unfold takeObserverTick observerTick
    dsimp only
    split
    · split
      · split
        · exact st _
        · exact d
      · exact d
    · exact d
  have e {s t : State} (h : t.ao = s.ao) : completionDue t = completionDue s := by simp [completionDue, h]
  have ow {s : State} (d : completionDue s = false) : completionDue (takeOwedTicks s) = false :=
    (e (s := takeObserverTick s) (by simp [takeOwedTicks])).trans (o d)
  have t : completionDue (forceScans tickExpired (takeOffers s)) = false :=
    (e (s := takeOwedTicks s) (by simp [takeOffers])).trans (ow d)
  have g (l : TickSet) {s : State} (d : completionDue s = false) : completionDue (offerTick l s) = false := by
    refine (e (s := takeOwedTicks _) rfl).trans (ow ?_)
    exact d
  exact g l ((e (by simp)).trans t)

/-- After the completion that was due, none is. -/
theorem completeSubBlock_not_due (s : State) : completionDue (completeSubBlock s) = false := by
  unfold completeSubBlock
  split
  · split
    · simp [completionDue]
    · rename_i b d hs ht hl
      simp [completionDue, hs, ht, hl]
  · rename_i h
    unfold completionDue
    split
    · exact absurd ‹_› (h _ _ ‹_›)
    · rfl

/-- What belongs to the event of a word already taken is all taken (log 5). -/
theorem settleWord_settled (s : State) : settled (settleWord s) = true := by
  have h := completeSubBlock_not_due s
  unfold settleWord takeFrameTick
  split
  · refine (Bool.and_eq_true ..).mpr ⟨?_, ?_⟩
    · rw [tickEvent_not_due]
      · rfl
      · exact h
    · rw [tickEvent_frameTick]
      rfl
  · simp_all [settled]

end Sys2Proof.Machine
end

