-- ==== Sys2Proof/Tests/Slice0.lean ====
section
/-! SUPPORT. The model's own tests: the well-formedness checks, the rows on small states with results from the spec's worked
examples and tables, and for each statement a state that meets its hypotheses. -/

set_option Elab.async false

namespace Sys2Proof.Tests

open Sys2Proof.Machine

/-! ### States -/

/-- The state after a row. -/
def after (c : Instr) (s : State) : State :=
  match exec c s with
  | .next t => t
  | .fault _ | .refused _ => s

/-- A command of master 1 at the head of the command queue. -/
def issue (k : CmdKind) (arg : BitVec 48) (s : State) : State := withQueue [⟨k, 7, arg, [], 1⟩] s

/-- A staged command of master 1 at the head of the command queue. -/
def stage (k : CmdKind) (words : List Beat) (s : State) : State := withQueue [⟨k, 7, 0, words, 1⟩] s

/-- A beat handed to the command unit. -/
def handBeat (offset : Nat) (data : Beat) (enables : BitVec 8) (s : State) : State :=
  { s with cu := { s.cu with beats := [⟨offset, ⟨data, enables⟩, 1⟩] } }

def reportWindow : Window := ⟨.report, 0x10, 2, 0, 0, 0x8, 0, 0, 0⟩
def audioWindow : Window := ⟨.audio, 0x100, 64, 4, 0x10, 0x10, 0, 0, 0⟩
def captionWindow : Window := ⟨.caption, 0x200, 1, 4, 0x10, 0x10, 0, 0, 0⟩
def recordWindow : Window := ⟨.record, 0x10000, 49152, 6, 0x40, 0x12, 2, 6, 32⟩

/-- The windows of a part at work: REPORT in slot 0 (8 KiB), AUDIO, CAPTION, and RECORD with 6 segments of 32 MiB (9.7). The
control page lies at 64 MiB × 16. -/
def installed : State :=
  commitWindow 3 (some recordWindow) (commitWindow 2 (some captionWindow) (commitWindow 1 (some audioWindow)
    (commitWindow 0 (some reportWindow) (after (.resetNRelease 16) (after .lineReset State.reset)))))

/-- An entry of a schedule. -/
def sample (id : EntryId) (start : Time) : Entry :=
  ⟨id, .programme, start, -230, 10, 50, true, 1, 10000, 950, 4000, false⟩

/-- A record that has just been opened. -/
def opened (bank : Option Bank) : OpenEntry := newRecord (sample 640 0) 0 .start false false bank true

/-- LIVE with an entry open in bank A and nothing pending. -/
def live : State :=
  { installed with
    cu := { installed.cu with mode := .live }
    su := { installed.su with openEntry := some (opened (some .a)) }
    ag := { installed.ag with bankA := ⟨.collecting, []⟩, quietStart := some 0 } }

/-- LIVE with a measuring stereo stream. -/
def measuring : State :=
  { live with ao := { live.ao with
      engine := .measuring, taken := some ⟨.pcm, .r48000, 2, #v[.l, .r, .other, .other, .other, .other, .other, .other], 41⟩ } }

/-- LIVE with the segment table of 9.7 at 7,996,000. -/
def ring : State :=
  let closed (i : Nat) (start stop : Time) : Segment :=
    { freeSegment i with state := .closed, start := some start, finish := some stop }
  { live with
    tb := { live.tb with time := 7996000 }
    rc := ⟨[{ closed 0 7960000 7966400 with state := .held, reasons := 0x1 },
            { closed 1 7966400 7972800 with state := .held, reasons := 0x8 },
            closed 2 7972800 7979200, closed 3 7979200 7985600, closed 4 7985600 7992000,
            { freeSegment 5 with state := .filling, start := some 7992000 }], none⟩ }

/-! ### Well-formedness -/

theorem test_request_wf : Instr.wf (.passThroughRequest ⟨0, 2 ^ 36 - 8, .read 32⟩) = true := by decide
theorem test_request_empty : Instr.wf (.passThroughRequest ⟨0, 0, .write []⟩) = false := by decide
theorem test_request_long : Instr.wf (.passThroughRequest ⟨0, 0, .read 33⟩) = false := by decide
theorem test_request_unaligned : Instr.wf (.passThroughRequest ⟨0, 4, .read 1⟩) = false := by decide
theorem test_request_outside : Instr.wf (.passThroughRequest ⟨0, 2 ^ 36, .read 1⟩) = false := by decide
theorem test_completion_long : Instr.wf (.memoryPortCompletion 0 (List.replicate 33 0)) = false := by decide
theorem test_ill_formed_refused :
    exec (.passThroughRequest ⟨0, 4, .read 1⟩) State.reset = .refused .illFormedRequest := rfl

/-! ### Reset, the queue of rows -/

theorem test_line_reset : after .lineReset live = { State.reset with resetAsserted := true } := by decide +kernel

theorem test_release : (after (.resetNRelease 2) (after .lineReset live)).mp.ctlBase = 0x8000000 := by decide +kernel

theorem witness_ResetAndRelease :
    (after .lineReset live).resetAsserted = true ∧ (after .lineReset live).mp.txns = []
      ∧ Instr.wf .memoryPortIssue = true ∧ live.resetAsserted = false := by decide +kernel

theorem witness_StepTakesTheFrontRow : State.reset.pending = [] ∧ step State.reset = .next State.reset := ⟨rfl, rfl⟩

theorem test_ready : ready installed = true ∧ ready live = true ∧ ready measuring = true ∧ ready ring = true := by
  decide +kernel

/-- The invariants that have a decidable form hold of the states of these tests. -/
theorem test_states_ok : offQuiet installed = true ∧ compareFollowsHead live = true
    ∧ (ring.rc.table.all segmentOk && holdCount ring.rc.table == 2) = true := by decide +kernel

/-! ### Requests and the memory port -/

/-- A read of the GUARD-free space, a control-page write, and requests into windows. -/
def guardRead : Request := ⟨3, 0x8000, .read 2⟩
def pageWrite : Request := ⟨1, 0x40000000, .write [⟨0x10007, 0xFF⟩]⟩
def reportWrite : Request := ⟨1, 0x10000, .write [⟨0, 0xFF⟩]⟩

/-- Two beats of the feeding master. -/
def fed (addr : Nat) : Request := ⟨4, addr, .write [⟨41, 0xFF⟩, ⟨0x700000000, 0xF0⟩]⟩

theorem witness_RegionOfRequest :
    (guardRead.wf = true ∧ regionOf installed.mp guardRead = .outside)
      ∧ regionOf installed.mp ⟨1, 0x40000FF8, .read 1⟩ = .inside 8 ∧ regionOf installed.mp ⟨3, 0x11FF8, .read 1⟩ = .inside 0
      ∧ regionOf installed.mp ⟨3, 0xFFF8, .read 2⟩ = .crossing (some 0)
      ∧ regionOf installed.mp ⟨3, 2 ^ 36 - 8, .read 2⟩ = .crossing none := by decide +kernel

theorem witness_JudgementOfRequest :
    regionOf installed.mp guardRead = .outside ∧ regionOf installed.mp ⟨3, 0xFFF8, .read 2⟩ = .crossing (some 0)
      ∧ regionOf installed.mp ⟨1, 0x40000FF8, .read 1⟩ = .inside 8 ∧ regionOf installed.mp reportWrite = .inside 0
      ∧ (windowAt installed.mp 0).map (·.kind) = some .report ∧ windowAt installed.mp 3 = some recordWindow
      ∧ regionOf installed.mp ⟨6, 0x10000000, .write [⟨0, 0xFF⟩]⟩ = .inside 3
      ∧ recordWindow.writeMask.getLsbD 6 = true ∧ recordWindow.writeMask.getLsbD 14 = false := by decide +kernel

theorem test_judgements :
    judge installed reportWrite = .block (some 0) .reportWrite
      ∧ judge installed ⟨1, 0x10000, .read 1⟩ = .block (some 0) .readMask
      ∧ judge installed ⟨6, 0x100000, .write [⟨0, 0xFF⟩]⟩ = .block (some 1) .writeMask
      ∧ judge installed ⟨15, 0x40000000, .read 1⟩ = .block (some 8) .controlMask
      ∧ judge installed ⟨6, 0x10000000, .write [⟨0, 0xFF⟩]⟩ = .checkSegments 3 recordWindow := by decide +kernel

theorem witness_BlockedRequest :
    ready installed = true ∧ reportWrite.wf = true ∧ judge installed reportWrite = .block (some 0) .reportWrite := by
  decide +kernel

/-- A second block within 100 ms is counted and not reported (R13). -/
theorem test_blocked_twice :
    let t := after (.passThroughRequest reportWrite) (after (.passThroughRequest reportWrite) installed)
    blockedCount t.mp 0 = 2 ∧ t.ru.queue.length = 1 ∧ t.mp.txns.map (·.progress) = [.answered .ack, .answered .ack] := by
  decide +kernel

theorem witness_ForwardedRequest :
    (ready installed = true ∧ pageWrite.wf = true ∧ judge installed pageWrite = .forward
        ∧ guardRead.wf = true ∧ judge installed guardRead = .forward)
      ∧ ready live = true ∧ live.cu.mode = .live ∧ (fed 0x100038).wf = true ∧ judge live (fed 0x100038) = .forward
      ∧ regionOf live.mp (fed 0x100038) = .inside 1 ∧ windowAt live.mp 1 = some audioWindow
      ∧ (fed 0x200000).wf = true ∧ judge live (fed 0x200000) = .forward ∧ regionOf live.mp (fed 0x200000) = .inside 2
      ∧ windowAt live.mp 2 = some captionWindow ∧ audioWindow.feeding = 4 ∧ captionWindow.feeding = 4 := by decide +kernel

/-- The descriptor's last beat, and the beat behind it whose lower word has no byte enabled (R52). -/
theorem test_audio_items :
    (after (.passThroughRequest (fed 0x100038)) live).ao.inbox
      = [.descriptor 0x38 ⟨41, 0xFF⟩, .word 0x44 7 0xF] := by decide +kernel

theorem test_page_write_handed :
    (after (.passThroughRequest pageWrite) installed).cu.beats = [⟨0, ⟨0x10007, 0xFF⟩, 1⟩] := by decide +kernel

/-- LIVE with an own write queued and a read of its bytes held behind it (1.6). -/
def held : State :=
  after (.passThroughRequest ⟨3, 0x10000, .read 32⟩)
    { live with mp := { live.mp with ownQueue := [⟨0, 0x10000, [1]⟩], ownIssued := true, nextOwn := 1, lastGrant := .pass } }

theorem test_read_held : held.mp.txns.map (·.progress) = [.held [0]] := by decide +kernel

theorem test_read_released :
    let t := after .ownWriteCompletion held
    t.mp.ownQueue = [] ∧ t.mp.released = [0] ∧ t.mp.txns.map (·.progress) = [.waiting]
      ∧ (passCandidate t.mp).map (·.id) = some 0 := by decide +kernel

/-- Two reads of one master meet the own write: the first is in the read-hold list, the second stands behind it, and both are
ready once the write has completed, the released one first (log 16). -/
theorem test_read_behind :
    let s := after (.passThroughRequest ⟨3, 0x10000, .read 1⟩) held
    let t := after .ownWriteCompletion s
    s.mp.txns.map (·.progress) = [.held [0], .behind [0]] ∧ s.mp.txns.map isHeld = [true, false]
      ∧ t.mp.txns.map (·.progress) = [.waiting, .waiting] ∧ t.mp.released = [0]
      ∧ (passCandidate (after .memoryPortIssue t).mp).map (·.id) = some 1 := by decide +kernel

/-- Read A of a master is held; its write C, and its read B that meets a later own write as well, are taken behind A. A
goes out first, then C, and B last, though B's own writes complete before C is issued (R16). -/
theorem test_order_behind_held :
    let two : State := { held with mp := { held.mp with
      ownQueue := held.mp.ownQueue ++ [⟨1, 0x10000, [2]⟩], nextOwn := 2 } }
    let s := after (.passThroughRequest ⟨3, 0x10000, .read 1⟩)
      (after (.passThroughRequest ⟨3, 0x40000, .write [⟨7, 0xFF⟩]⟩) two)
    let t := after .ownWriteCompletion { (after .ownWriteCompletion s) with mp := { (after .ownWriteCompletion s).mp with
      ownIssued := true } }
    s.mp.txns.map (·.progress) = [.held [0], .waiting, .behind [0, 1]]
      ∧ (passCandidate s.mp).isNone ∧ t.mp.released = [0]
      ∧ (passCandidate t.mp).map (·.id) = some 0
      ∧ (passCandidate (after .memoryPortIssue t).mp).map (·.id) = some 1
      ∧ (passCandidate (after .memoryPortIssue (after .memoryPortIssue t)).mp).map (·.id) = some 2 := by decide +kernel

/-- A unit in progress with two bursts, and one with the queue of own writes full. -/
def offering (n : Nat) : State :=
  { live with
    mp := { live.mp with ownQueue := (List.range n).map fun k => ⟨k, 0x10000, [1]⟩ }
    ru := { live.ru with current := some ⟨true, [⟨0x10000, [1]⟩, ⟨0x10008, [2]⟩], none⟩ } }

theorem witness_OwnWritesMoveOn :
    (ready held = true ∧ held.mp.ownQueue ≠ [] ∧ held.mp.ownIssued = true)
      ∧ (ready (offering 8) = true ∧ 8 ≤ (offering 8).mp.ownQueue.length)
      ∧ ready (offering 7) = true ∧ (offering 7).mp.ownQueue.length < 8
      ∧ (offering 7).ru.current = some ⟨true, [⟨0x10000, [1]⟩, ⟨0x10008, [2]⟩], none⟩ := by decide +kernel

/-- A request issued, completed and returned. -/
def issuedRead : State := after .memoryPortIssue (after (.passThroughRequest guardRead) installed)

theorem witness_RequestsAnswered :
    ready issuedRead = true ∧ issuedRead.mp.txns = [⟨0, guardRead, .issued⟩] ∧ issuedRead.mp.lastGrant = .pass := by
  decide +kernel

theorem test_answer :
    (after (.answerReturn 3) (after (.memoryPortCompletion 0 [5, 6]) issuedRead)).mp.sysOut = some (3, .data [5, 6]) := by
  decide +kernel

theorem test_completion_misfit : exec (.memoryPortCompletion 0 [5]) issuedRead = .refused .illFormedCompletion := by
  have h : issuedTxn 0 issuedRead.mp = some ⟨0, guardRead, .issued⟩ := by decide +kernel
  show execMemoryPortCompletion 0 [5] issuedRead = _
  simp [execMemoryPortCompletion, h, completionFits, guardRead]

/-- Both kinds wait after an OWN grant: the pass-through request is issued, and the own write next, as a write of master 15
with every byte enabled (R2, R15). -/
theorem test_arbiter :
    let s : State := { held with mp := { held.mp with
      ownIssued := false, lastGrant := .own, txns := [⟨0, guardRead, .waiting⟩] } }
    let t := after .memoryPortIssue s
    t.mp.memOut = some (.pass 0 guardRead)
      ∧ (after .memoryPortIssue t).mp.memOut = some (.own 0 ⟨15, 0x10000, .write [⟨1, 0xFF⟩]⟩) := by decide +kernel

/-! ### Control page and modes -/

theorem witness_SlotBeatFormsCommand :
    (ready (handBeat 0 0x10007 0xFF installed) = true ∧ (0 : Nat) = 8 * CmdKind.setMode.code)
      ∧ 0x0A0 = 8 * CmdKind.cueSet.code := by decide +kernel

theorem test_slot_beat :
    (after .controlPageBeat (handBeat 0x0A0 0x1388030007 0xFF installed)).cu.queue
      = [⟨.cueSet, 7, 0x138803, [], 1⟩] := by decide +kernel

/-- A partial READ_INDEX beat is refused with the tag bytes that are enabled (R23). -/
theorem test_partial_beat :
    let t := after .controlPageBeat (handBeat 0x020 0x4321 0x01 installed)
    t.cu.queue = [] ∧ t.ru.lastRefusal = some ⟨0x21, 4, 1, .partialBeat⟩ := by decide +kernel

theorem witness_StagingBeatKeepsShadow :
    ready (handBeat 0x118 7 0xFF installed) = true ∧ (3 : Nat) < 4 ∧ 0x118 = 0x100 + 8 * 3
      ∧ 0x238 = 0x200 + 8 * 7 ∧ 0x328 = 0x300 + 8 * 5 := by decide +kernel

theorem test_commit_word :
    (after .controlPageBeat (handBeat 0x328 0xFFF90007 0xFF installed)).cu.queue
      = [⟨.filter, 7, 0, [0, 0, 0, 0, 0, 0xFFF90007], 1⟩] := by decide +kernel

theorem witness_ModeChecks :
    ready (issue .setTime 0 live) = true ∧ live.cu.mode = .live ∧ installed.cu.mode = .off
      ∧ (windowOf .report State.reset.mp) = none := by decide +kernel

theorem test_busy_live :
    (after .setTime (issue .setTime 0 live)).ru.lastRefusal = some ⟨7, 1, 1, .busyLive⟩ := by decide +kernel

theorem test_no_report :
    (after .setMode (issue .setMode 1 State.reset)).ru.lastRefusal = some ⟨7, 0, 1, .noReport⟩ := by decide +kernel

theorem witness_StartOpensDefaultEntry :
    ready (issue .setMode 1 installed) = true ∧ installed.ao.inbox = [] ∧ installed.ca.inbox = []
      ∧ installed.tb.owed = TickSet.none ∧ installed.tb.firing = none ∧ installed.tb.cues = [] ∧ installed.cu.mode = .off
      ∧ installed.su.openEntry = none ∧ windowOf .report installed.mp ≠ none ∧ installed.su.queue.head? = none := by
  decide +kernel

/-- START opens what has passed in its own event (6.8): the entries 0, 910 and 911, and 912 stays pending. -/
theorem test_start_cascade :
    let t := after .setMode (issue .setMode 1 { installed with
      tb := { installed.tb with time := 2002000 }
      su := { installed.su with queue := [sample 910 2000000, sample 911 2001500, sample 912 2060000] } })
    t.cu.mode = .live ∧ openId t = some 911 ∧ openBank t = none ∧ t.su.queue.map (·.id) = [912]
      ∧ t.tb.compare = some 2060000 ∧ t.ag.bankA.state = .scanning ∧ t.ag.bankB.state = .scanning
      ∧ (t.su.slotA.map (·.closed.duration)) = some 0
      ∧ openBank (after (.scanCompletion .a) t) = some .a := by decide +kernel

theorem witness_ChangeToOff :
    ready (issue .setMode 0 live) = true ∧ live.su.openEntry = some (opened (some .a)) ∧ live.cu.mode ≠ .off
      ∧ live.su.slotA = none ∧ live.su.slotB = none := by decide +kernel

theorem test_change_to_off :
    let t := after .setMode (issue .setMode 0 live)
    t.cu.mode = .off ∧ t.su.openEntry = none ∧ t.ag.bankA.state = .scanning
      ∧ (t.su.slotA.map (·.closed.aborted)) = some true := by decide +kernel


theorem test_restart_count :
    let t := after .restart (issue .restart 0 { live with su := { live.su with queue := [sample 1 9000, sample 2 19000] } })
    t.cu.mode = .off ∧ t.su.queue = [] ∧ t.ru.queue.map (·.report) = [.commandDone 7 15 1 0x078 2] := by decide +kernel

theorem witness_TimeAndLineSettings :
    ready (issue .setTime 43200000 installed) = true ∧ ready (issue .setPrescale 65536 installed) = true
      ∧ ready (issue .cueSet 0x138803 installed) = true ∧ ready (issue .lineForce 2 installed) = true := by decide +kernel

theorem test_set_time : (after .setTime (issue .setTime 43200000 installed)).tb.time = 43200000 := by decide +kernel
theorem test_set_prescale_top : (after .setPrescale (issue .setPrescale 65536 installed)).tb.divisor = 65536 := by
  decide +kernel
theorem test_set_prescale_refused : (after .setPrescale (issue .setPrescale 65537 installed)).tb.divisor = 10000 := by
  decide +kernel
theorem test_cue_set : (after .cueSet (issue .cueSet 0xEA6010 installed)).tb.earlyWindow = 60000 := by decide +kernel
theorem test_line_force : tallyAsserted (after .lineForce (issue .lineForce 2 installed)) = true := by decide +kernel

/-! ### Ticks -/

theorem witness_TicksAndEdges :
    ready installed = true ∧ installed.cu.mode = .off ∧ installed.tb.prescale < installed.tb.divisor
      ∧ installed.tb.prescale + 1 < installed.tb.divisor ∧ installed.su.slotA = none ∧ installed.su.slotB = none
      ∧ installed.pending = [] ∧ installed.su.openEntry = none ∧ installed.ao.engine = .idle := by decide +kernel

theorem test_edge_before_tick :
    let s : State := { installed with tb := { installed.tb with prescale := 9998 } }
    (after (.refClkEdge false .none) s).tb.time = 0
      ∧ (after (.refClkEdge false .none) (after (.refClkEdge false .none) s)).tb.time = 1 := by decide +kernel

theorem test_tick_wraps :
    (after (.tick false .none) { installed with tb := { installed.tb with time := 0xFFFFFFFF } }).tb.time = 0 := by
  decide +kernel


/-- The bouncing cue of 3.5: the cue is offered at the third HIGH sample with the time of the first. -/
theorem test_bouncing_cue :
    let s : State := { live with tb := { live.tb with time := 100002, cueLevel := some false } }
    let t := after (.tick true .none) (after (.tick true .none) (after (.tick true .none) s))
    t.tb.time = 100005 ∧ t.tb.cueLevel = some true ∧ t.tb.cues = [100003] := by decide +kernel

/-- A start across the wrap: the compare fires when station time reaches 500 (3.3). -/
theorem test_compare_fires :
    let s (time : Time) : State := { live with tb := { live.tb with time := time, compare := some 500 } }
    (after (.tick false .none) (s 4294967000)).tb.firing = none ∧ (after (.tick false .none) (s 499)).tb.firing = some 500 := by
  decide +kernel

/-! ### Windows -/

/-- A record being laid behind a LOST record of 3 whose burst is still to be taken, with another record behind it. -/
def begun : State :=
  { installed with ru := { installed.ru with
      queue := [⟨.deniedClose 0 1, 9⟩, ⟨.deniedClose 1 1, 10⟩], recordNumber := 5000
      current := some ⟨false, [⟨0x10100, [1]⟩, ⟨0x10140, [2]⟩], some 3⟩ } }

/-- The RECORD window of 12.1, 16 segments of 64 MiB, at 2 GiB. -/
def recordWords : List Beat := [0x0008000000060303, 0x0013004000040000, 0x0000004000100002, 7]

theorem witness_WindowChecksInOrder :
    ready (stage .window recordWords installed) = true ∧ (stage .window recordWords installed).cu.queue.length = 1 := by
  decide +kernel

theorem test_window_record :
    let t := after .window (stage .window recordWords installed)
    t.ru.queue.getLast?.map (·.report) = some (.commandDone 7 32 1 0x118 0) ∧ t.rc.table.length = 16
      ∧ t.rc.table.all (·.state == .free) = true := by decide +kernel

/-- The same window over the control page, with held segments, and in LIVE. -/
theorem test_window_refused :
    let refusal (words : List Beat) (s : State) := (after .window (stage .window words s)).ru.lastRefusal.map (·.reason)
    refusal [0x0003800000060303, 0x0013004000040000, 0x0000004000100002, 7] installed = some .overlap
      ∧ refusal recordWords { ring with cu := { ring.cu with mode := .off } } = some .holdsPresent
      ∧ refusal recordWords live = some .busyLive ∧ refusal [0x408, 0, 0, 7] installed = some .badValue := by decide +kernel

theorem witness_WindowCommitTellsOwners :
    (7 : Nat) < 8 ∧ (offering 1).ru.current = some ⟨true, [⟨0x10000, [1]⟩, ⟨0x10008, [2]⟩], none⟩
      ∧ (windowAt (offering 1).mp 0).map (·.kind) = some .report ∧ (begun.ru.current.map (·.image)) = some false
      ∧ begun.ru.queue.length = 2 ∧ (windowAt begun.mp 0).map (·.kind) = some .report := by decide +kernel

/-- A REPORT window that is replaced: a record begun is dropped with its LOST record's count, the record behind it stays, and
the number goes on; an image begun is due again (R172). -/
theorem test_report_window_replaced :
    let t := commitWindow 0 (some reportWindow) begun
    t.ru.queue.map (·.time) = [10] ∧ t.ru.lostCount = 4 ∧ t.ru.recordNumber = 5000 ∧ t.ru.flags = Flag.reportsLost.set
      ∧ t.ru.current = none ∧ (commitWindow 0 none (offering 1)).ru.imageDue = true := by decide +kernel

/-! ### Audio -/

/-- LIVE with the descriptor of 4.10 staged and its commit word handed. -/
def described : State :=
  { live with ao := { live.ao with
      shadow := #v[0x020301, 0x0201, 0, 0, 0, 0, 0, 0], inbox := [.descriptor 0x38 ⟨41, 0xFF⟩] } }

theorem witness_DescriptorTaken : ready described = true ∧ (0x38 : Nat) < 0x40 := by decide +kernel

theorem test_descriptor :
    let t := after .descriptorBeat described
    t.ao.engine = .measuring ∧ (t.ao.taken.map (·.channels)) = some 2 ∧ (t.ao.taken.map (·.generation)) = some 41
      ∧ (t.ao.taken.map (·.roles[1])) = some .r ∧ t.ru.queue.length = 1 := by decide +kernel

/-- A word of the stereo stream. -/
def word (offset : Nat) (data : BitVec 32) (enables : BitVec 4) (s : State) : State :=
  { s with ao := { s.ao with inbox := [.word offset data enables] } }

theorem witness_SampleWords :
    ready (word 0x40 0 0xF measuring) = true ∧ ready (word 0x48 0 0x7 measuring) = true
      ∧ ready (word 0x40 0 0xF live) = true ∧ live.ao.engine = .idle ∧ measuring.ao.engine = .measuring
      ∧ measuring.ao.expected = none := by decide +kernel

/-- A word out of place is a discontinuity, and begins a new sub-block (4.10). -/
theorem test_word_gap :
    let s : State := { measuring with ao := { measuring.ao with expected := some 208064, history := [1, 2, 3, 4, 5] } }
    let t := after .sampleWord (word 208072 0 0xF s)
    t.ao.expected = some 208076 ∧ t.ao.channel = 1 ∧ t.ao.history = [] ∧ (t.ao.sub.map (·.frames)) = some 0
      ∧ (t.su.openEntry.map (·.discontinuities)) = some 1 := by decide +kernel

/-- The 4800th frame ends: its completion is due and is taken before the next word (R63). -/
theorem test_last_word :
    let s : State := { measuring with
      ao := { measuring.ao with expected := some 38460, channel := 1, sub := some ⟨4799, Vector.replicate 8 0, Vector.replicate 8 0⟩ } }
    let t := after .sampleWord (word 38460 0 0xF s)
    t.ao.expected = some 38464 ∧ t.ao.channel = 0 ∧ completionDue t = true
      ∧ (after .subBlockCompletion t).ao.history.length = 1 := by decide +kernel

/-- The fourth sub-block of the tone of 5.4, each channel with energy 12. -/
def fourth : State :=
  { measuring with ao := { measuring.ao with
      history := List.replicate 3 (24000 * 2 ^ 62)
      sub := some ⟨4800, #v[12 * 2 ^ 62, 12 * 2 ^ 62, 0, 0, 0, 0, 0, 0], Vector.replicate 8 0⟩ } }

theorem witness_SubBlockCompletes :
    (fourth.resetAsserted = false ∧ fourth.ao.history.length ≤ 30 ∧ (fourth.ao.sub.map (·.frames)) = some 4800
        ∧ fourth.ao.taken.isSome = true ∧ (fourth.su.openEntry.map (·.subBlocks)) = some 0)
      ∧ ({ fourth with su := { fourth.su with openEntry := none } } : State).ao.sub = fourth.ao.sub := by decide +kernel

/-- A completion that is due and a frame's tick come before another row (R39, R63). -/
theorem test_settled_first :
    let s : State := { fourth with cu := { fourth.cu with mode := .replay }, tb := { fourth.tb with frameTick := true } }
    let t := after .ownWriteOffer s
    s.resetAsserted = false ∧ completionDue s = true ∧ t.ao.history.length = 4 ∧ t.tb.time = s.tb.time + 1
      ∧ t = after (.tick false .none) (after .subBlockCompletion s) := by decide +kernel

/-- The fourth sub-block of an entry: its momentary level is attributed, counted in its bin and taken as its maximum, and the
count of sub-blocks stays at its largest value (R77, R78, R89). -/
theorem test_attributed :
    let s (n : BitVec 32) : State := { fourth with su := { fourth.su with openEntry := some { opened (some .a) with subBlocks := n } } }
    let t := after .subBlockCompletion (s 3)
    (t.su.openEntry.map fun e => (e.subBlocks, e.maxMomentary)) = some (4, some (-237)) ∧ t.ag.bankA.counts = [(462, 1)]
      ∧ ((after .subBlockCompletion (s (BitVec.allOnes 32))).su.openEntry.map (·.subBlocks)) = some (BitVec.allOnes 32) := by
  decide +kernel

theorem test_momentary : (after .subBlockCompletion fourth).lu.momentary = some (-237) := by decide +kernel

/-- LIVE with a tick owed to each block. -/
def owing (s : State) : State := { s with tb := { s.tb with owed := ⟨true, true, true, true, true⟩ } }

theorem witness_StallTick :
    ready (owing measuring) = true ∧ (owing measuring).tb.owed.ao = true ∧ measuring.ao.engine = .measuring := by
  decide +kernel

theorem test_stall :
    let t := after .stall (owing { measuring with
      ao := { measuring.ao with stallCount := 499 }, ag := { measuring.ag with active := true } })
    t.ao.engine = .stalled ∧ t.ag.active = false ∧ t.ru.queue.length = 1 := by decide +kernel

theorem witness_SettingsReplaced :
    ready (issue .controlMask 0x3 installed) = true ∧ ready (issue .layoutOverride 0x3E80001 installed) = true
      ∧ ready (stage .filter [] installed) = true ∧ installed.cu.mode = .off
      ∧ ready (issue .activitySet 0x3232FDA8FE0C installed) = true := by decide +kernel

theorem test_control_mask : (after .controlMask (issue .controlMask 0x3 installed)).cu.controlMask = 0x3 := by decide +kernel
theorem test_control_mask_self : (after .controlMask (issue .controlMask 0x1 installed)).cu.controlMask = 0x7FFF := by
  decide +kernel
theorem test_override_set :
    (after .layoutOverrideSet (issue .layoutOverride 0x7D00701 installed)).lu.overrides[7] = some 2000 := by decide +kernel
theorem test_override_clear :
    (after .layoutOverrideClear (issue .layoutOverride 2 (after .layoutOverrideSet
      (issue .layoutOverride 0x7D00701 installed)))).lu.overrides[7] = none := by decide +kernel
theorem test_filter :
    let t := after .filter (stage .filter [0x4000000020000000, 0, 0, 0, 0, 0xFFCE0007] installed)
    t.lu.stage1.b0 = 0x20000000 ∧ t.lu.stage2.b0 = 0x40000000 ∧ t.lu.calibration = -50 := by decide +kernel
theorem test_filter_refused :
    (after .filter (stage .filter [0, 0, 0, 0, 0, 0xFFCD0007] installed)).lu.stage1 = .passThrough := by decide +kernel
theorem test_activity_set :
    let t := after .activitySet (issue .activitySet 0x3201FC19FE0C installed)
    t.ag.tOn = -500 ∧ t.ag.tOff = -999 ∧ t.ag.qOn = 1 ∧ t.ag.qOff = 50 := by decide +kernel
theorem test_activity_set_order :
    (after .activitySet (issue .activitySet 0x0505FE0CFE0C installed)).ru.lastRefusal = some ⟨7, 12, 1, .badValue⟩ := by
  decide +kernel

/-! ### Loudness, activity and gating -/

/-- Samples 3 and 6 of the saturating stage of 5.2, and its two ties. -/
theorem test_stage :
    let c : StageCoeffs := ⟨0x40000000, 0, 0, 0xA0000000, 0⟩
    let q : StageCoeffs := ⟨0x10000000, 0, 0, 0, 0⟩
    stageOut c ⟨0, 0, 5100273664, 0⟩ (2 ^ 30) = 8724152320 ∧ stageSaturates c ⟨0, 0, 2 ^ 34 - 1, 0⟩ (2 ^ 30) = true
      ∧ stageOut c ⟨0, 0, 2 ^ 34 - 1, 0⟩ (2 ^ 30) = 2 ^ 34 - 1
      ∧ stageOut q .clear 2 = 0 ∧ stageOut q .clear 6 = 2 := by decide +kernel

theorem test_levels :
    levelOf 5 1000 (-7) = -237 ∧ levelOf 5 1000 50 = -180 ∧ levelOf 1455 100000 (-7) = -191
      ∧ levelOf 1 (10 ^ 10) (-7) = -999 ∧ levelOf 1024 1 (-7) = 200 ∧ levelOf 0 1 (-7) = -999 := by decide +kernel

theorem test_peaks :
    peakOf 0 = -999 ∧ peakOf 1 = -999 ∧ peakOf 838861 = -200 ∧ peakOf 4194304 = -60 ∧ peakOf 8388607 = 0
      ∧ peakOf 8388608 = 0 := by decide +kernel

/-- The scan of 6.7. -/
theorem test_scan_values : scanValues [(119, 1), (369, 1), (434, 2), (479, 6)] = (some (-237), some (-232)) := by
  decide +kernel

/-- The second case of 6.7: three blocks at −23.0 and one at −35.0. -/
theorem test_scan_values_gate : scanValues [(349, 1), (469, 3)] = (some (-242), some (-230)) := by decide +kernel

theorem witness_ScanValuesRounded :
    Histogram.wf [(469, 3)] = true ∧ binTotal [(469, 3)] ≠ 0 ∧ Histogram.wf [] = true ∧ binTotal [] = 0
      ∧ histogramLevel [(469, 3)] = some (-230) := by decide +kernel

theorem witness_LevelAndPeakRounding : 0 < 1000 ∧ (8388608 : Nat) ≤ 8388608 ∧ 0 < (8388608 : Nat) := by decide

theorem witness_WeightingStage : (7 : Nat) < 8 ∧ (-2 : Int) ^ 23 ≤ -8388608 ∧ (-8388608 : Int) < 2 ^ 23 := by decide

theorem witness_CeilingExceeded : live.su.openEntry = some (opened (some .a)) := by decide +kernel

/-- The first level above −18.0 (−23.0 plus 5.0) is reported, the second counted only; −18.0 itself is not above (R80, R81). -/
theorem test_ceiling :
    let once := checkCeiling (-179) live
    let t := checkCeiling (-170) (checkCeiling (-180) once)
    (once.ru.queue.map (·.report)).head? = some (.shortTermOver 640 (-179) (-180) 0)
      ∧ (t.su.openEntry.map (·.overCount)) = some 2 ∧ tallyFunction t = true := by decide +kernel

/-- Settings of line reset, with both runs at their last count but one: every clause of the decision has its level. -/
theorem witness_ActivityDecided :
    live.ag.tOff ≤ -550 ∧ -550 < live.ag.tOn ∧ live.ag.tOn ≤ -500 ∧ live.ag.active = false
      ∧ live.ag.onCount + 1 < live.ag.qOn ∧ live.ag.qOn ≤ 4 + 1 ∧ (-601 < live.ag.tOff ∧ -601 < live.ag.tOn)
      ∧ live.ag.offCount + 1 < live.ag.qOff ∧ live.ag.qOff ≤ 4 + 1 := by decide +kernel

/-- The levels of 6.7 from 1,200,000 to 1,200,400, and the fifth below −60.0 in a row. -/
theorem test_activity_runs :
    let s : State := { live with ag := { live.ag with active := true } }
    let run := fun t l => decideActivity (some l) t
    ([-241, -520, -615, -630].foldl run s).ag.offCount = 2 ∧ ([-241, -520, -615, -630, -580].foldl run s).ag.offCount = 0
      ∧ ([-660, -660, -660, -660, -672].foldl run s).ag.active = false := by decide +kernel

/-- LIVE, QUIET since 1,200,900, one tick before the dead-air limit of 640 (6.7). -/
def silent : State :=
  owing { measuring with
    tb := { measuring.tb with time := 1204900 }, ag := { measuring.ag with deadTimer := 3999, quietStart := some 1200900 } }

theorem witness_DeadAirTick :
    ready silent = true ∧ silent.tb.owed.ag = true ∧ (opened (some .a)).entry.deadAirLimit = 4000 := by decide +kernel

theorem test_dead_air :
    let t := after .deadAir silent
    t.ag.deadTimer = 4000 ∧ (t.ru.queue.map (·.report)).head? = some (.deadAir 640 1200900 4000 1204900)
      ∧ (t.su.openEntry.map (·.deadAirCount)) = some 1 := by decide +kernel

theorem witness_BlockGated : live.su.openEntry = some (opened (some .a)) ∧ binCount live.ag.bankA.counts 799 < 16777215 := by
  decide +kernel

theorem test_gate :
    (gateBlock (some (-699)) true live).ag.bankA.counts = [(0, 1)]
      ∧ (gateBlock (some 101) true live).ag.bankA.counts = [(799, 1)] ∧ gateBlock (some (-700)) true live = live := by
  decide +kernel

/-- LIVE with the scan of 640 in bank A, and the open entry unbanked or in bank B. -/
def scanning (bank : Option Bank) : State :=
  { live with
    su := { live.su with
      openEntry := some (opened bank), slotA := some ⟨closedOf (opened (some .a)) 1800000 false, .ticks 1⟩ }
    ag := { live.ag with bankA := ⟨.scanning, [(119, 1), (369, 1), (434, 2), (479, 6)]⟩ } }

theorem witness_ScanCompletes :
    ready (scanning none) = true ∧ (slotOf (scanning none).su .a).isSome = true ∧ openBank (scanning none) = none
      ∧ openBank (scanning (some .b)) = some .b := by decide +kernel

theorem test_scan_completion :
    openBank (after (.scanCompletion .a) (scanning none)) = some .a
      ∧ (after (.scanCompletion .a) (scanning (some .b))).ag.bankA = ⟨.free, []⟩
      ∧ (after (.scanCompletion .a) (scanning (some .b))).ru.queue.length = 1 := by decide +kernel

/-- A scan bounded in ticks or in edges, in LIVE or REPLAY. -/
def bounded (m : Mode) (left : ScanLeft) : State :=
  let s := scanning (some .b)
  { s with cu := { s.cu with mode := m }, su := { s.su with slotA := s.su.slotA.map fun c => { c with left := left } } }

/-- LIVE, OFF, and LIVE with the scan of 640 in flight in bank A, with and without an open entry's bank, and
REPLAY. -/
theorem witness_RestartClearsAndKeeps :
    ready (issue .restart 0 live) = true ∧ (live.cu.mode = .off ↔ live.su.openEntry = none)
      ∧ ready (issue .restart 0 installed) = true ∧ (installed.cu.mode = .off ↔ installed.su.openEntry = none)
      ∧ ready (issue .restart 0 (scanning (some .b))) = true ∧ (scanning (some .b)).ag.bankA.state = .scanning
      ∧ openBank (scanning (some .b)) = some .b ∧ openBank (scanning none) = none
      ∧ ready (issue .restart 0 (bounded .replay (.ticks 1))) = true
      ∧ openBank (bounded .replay (.ticks 1)) = some .b := by decide +kernel

/-- RESTART leaves the scan in bank A with its counts and its record (R33, 2.8). -/
theorem test_restart_scan :
    let s := scanning none
    let t := after .restart (issue .restart 0 s)
    t.ag.bankA = s.ag.bankA ∧ t.su.slotA = s.su.slotA ∧ t.ag.bankB = ⟨.free, []⟩ := by decide +kernel

/-- The scan that a RESTART begins is bounded in edges in REPLAY and in a tick in LIVE (R94, log 29). -/
theorem test_restart_scan_bound :
    let left (s : State) := (after .restart (issue .restart 0 s)).su.slotB.map (·.left)
    left (bounded .replay (.ticks 1)) = some (.edges 20000) ∧ left (bounded .live (.ticks 1)) = some (.ticks 1) := by
  decide +kernel

theorem witness_TickInLiveAndReplay :
    (live.resetAsserted = false ∧ completionDue live = false ∧ live.cu.mode = .live ∧ live.tb.frameTick = false
        ∧ live.tb.owed = TickSet.none ∧ live.su.slotA = none ∧ live.su.openEntry = some (opened (some .a)))
      ∧ ready (bounded .live (.ticks 1)) = true ∧ ((bounded .live (.ticks 1)).su.slotA.map (·.left)) = some (.ticks (0 + 1))
      ∧ ready (bounded .live (.ticks 0)) = true ∧ ((bounded .live (.ticks 0)).su.slotA.map (·.left)) = some (.ticks 0)
      ∧ ready (bounded .replay (.edges 2)) = true ∧ ((bounded .replay (.edges 2)).su.slotA.map (·.left)) = some (.edges 2)
      ∧ (bounded .replay (.edges 1)).su.slotB = none ∧ (bounded .live (.ticks 1)).ao.inbox = []
      ∧ (bounded .live (.ticks 1)).ca.inbox = [] ∧ (bounded .live (.ticks 1)).tb.owed = TickSet.none
      ∧ (bounded .live (.ticks 1)).tb.firing = none ∧ (bounded .live (.ticks 1)).tb.cues = []
      ∧ (ready (bounded .live (.edges 10001)) = true ∧ (bounded .live (.edges 10001)).cu.mode ≠ .replay
        ∧ (bounded .live (.edges 10001)).tb.divisor = 10000 ∧ (bounded .live (.edges 10001)).tb.prescale = 0
        ∧ ready (bounded .off (.edges 1)) = true ∧ (bounded .off (.edges 1)).su.slotB = none) := by decide +kernel

/-- A tick in LIVE is counted by every block in its own event; a block that is named is owed it, and so is the observer by the
500th tick without a word (R37, R61, R86, R107, R170). -/
theorem test_tick_counts :
    let t := after (.tick false .none) measuring
    let heard : State := { measuring with ag := { measuring.ag with active := true } }
    let u := after (.tick false .none) heard
    let late := after (.tick false { TickSet.none with ag := true }) { measuring with ao := { measuring.ao with stallCount := 499 } }
    (t.ao.stallCount, t.ag.deadTimer, t.ca.gapTimer, t.ru.imageTicks) = (1, 1, 0, 1) ∧ t.tb.owed = TickSet.none
      ∧ (u.ag.deadTimer, u.ca.gapTimer) = (0, 1) ∧ (u.su.openEntry.map fun e => (e.activeMs, e.coveredMs)) = some (1, 1)
      ∧ (late.ao.stallCount, late.ag.deadTimer) = (499, 0) ∧ late.tb.owed = { TickSet.none with ao := true, ag := true } := by
  decide +kernel

/-- A scan's last tick passes; at the next one it completes first, once (R94). -/
theorem test_scan_bound :
    let t := after (.tick false .none) (bounded .live (.ticks 1))
    (t.su.slotA.map (·.left)) = some (.ticks 0) ∧ (after (.tick false .none) t).su.slotA = none
      ∧ ((after (.refClkEdge false .none) (bounded .replay (.edges 2))).su.slotA.map (·.left)) = some (.edges 1)
      ∧ (after (.refClkEdge false .none) (bounded .replay (.edges 1))).su.slotA = none := by decide +kernel

/-- The edges of a scan begun in REPLAY go on counting in LIVE and OFF: one at an edge, all that the prescaler still needs at
a TICK, and the scan completes with the last of them (R94). -/
theorem test_scan_edges_outside_replay :
    let left (i : Instr) (s : State) := (after i s).su.slotA.map (·.left)
    left (.refClkEdge false .none) (bounded .live (.edges 2)) = some (.edges 1)
      ∧ left (.refClkEdge false .none) (bounded .off (.edges 1)) = none
      ∧ left (.tick false .none) (bounded .live (.edges 10001)) = some (.edges 1)
      ∧ left (.tick false .none) (bounded .off (.edges 10000)) = none := by decide +kernel

/-! ### Captions -/

/-- A beat handed to the caption unit. -/
def caption (offset : Nat) (data : Beat) (enables : BitVec 8) (s : State) : State :=
  { s with ca := { s.ca with inbox := [⟨offset, ⟨data, enables⟩⟩] } }

/-- A unit of 12 beats with two of them collected, as 7.7 tears it; the gap timer stands at 8500. -/
def unfinished : State :=
  { live with
    tb := { live.tb with time := 5018000 }
    ca := { live.ca with
      collecting := true, expected := some 0x3B0, shadow := some ⟨0x3A0, 96, .text, 1, 10, some 9, 2⟩
      gapTimer := 10000, lastQualifying := some 5010800 } }

theorem witness_CaptionHeaderAndTear :
    (ready (caption 0x3A0 0xA01010060 0xFF live) = true ∧ live.ca.collecting = false)
      ∧ ready (caption 0x3C0 0 0xFF unfinished) = true ∧ unfinished.ca.collecting = true
      ∧ unfinished.ca.expected ≠ some 0x3C0 ∧ unfinished.su.openEntry = some (opened (some .a)) := by decide +kernel

theorem test_caption_header :
    (after .captionBeat (caption 0x3A0 0xA01010060 0xFF live)).ca.expected = some 0x3A8
      ∧ (after .captionBeat (caption 0x3A0 0xA01010408 0xFF live)).ca.collecting = false
      ∧ (after .captionBeat (caption 0x3A0 0x1F401010400 0xFF live)).ca.collecting = true := by decide +kernel

theorem test_caption_tear :
    let t := after .captionBeat (caption 0x3C0 0 0xFF unfinished)
    (t.su.openEntry.map fun e => (e.tornCount, e.malformed)) = some (1, 1)
      ∧ t.ru.queue.map (·.report)
        = [.captionTorn 640 ⟨0x3A0, 96, .text, 1, 10, some 9, 2⟩ 0x3C0 5018000] := by decide +kernel

/-- The same unit with its last beat to come. -/
def lastBeat : State :=
  { unfinished with ca := { unfinished.ca with expected := some 0x3F8, shadow := some ⟨0x3A0, 96, .text, 1, 10, some 9, 11⟩ } }

theorem witness_CaptionUnitCollected :
    ready (caption 0x3F8 0 0xFF lastBeat) = true ∧ lastBeat.ca.expected = some 0x3F8 ∧ lastBeat.ca.collecting = true
      ∧ (lastBeat.ca.shadow.map fun u => (u.collected + 1, u.length / 8)) = some (12, 12)
      ∧ lastBeat.su.openEntry = some (opened (some .a)) := by decide +kernel

theorem test_caption_gap_end :
    let t := after .captionBeat (caption 0x3F8 0 0xFF lastBeat)
    t.ca.gapTimer = 0 ∧ t.ca.lastQualifying = some 5018000
      ∧ t.ru.queue.map (·.report) = [.captionGapEnd 640 5010800 10000 5018000 9] := by decide +kernel

/-- The tick 47,865,000 of 12.3, taken by the caption unit. -/
def uncaptioned : State :=
  owing { live with
    tb := { live.tb with time := 47865000 }
    ag := { live.ag with active := true }
    ca := { live.ca with gapTimer := 9999, lastQualifying := some 47855000 } }

theorem witness_CaptionGapTick :
    ready uncaptioned = true ∧ uncaptioned.tb.owed.ca = true ∧ uncaptioned.ca.windowPresent = true
      ∧ (opened (some .a)).entry.gapLimit = 10000 := by decide +kernel

theorem test_caption_gap :
    let t := after .captionGap uncaptioned
    t.ca.gapTimer = 10000 ∧ (t.su.openEntry.map fun e => (e.activeMs, e.coveredMs, e.gapCount)) = some (1, 1, 1)
      ∧ (t.ru.queue.map (·.report)).head? = some (.captionGap 640 1 47855000 10000 47865000) := by decide +kernel

/-! ### The schedule -/

/-- 12.2 before the first cue: 640 stands for 700, the head 701 starts at 46,800,000. -/
def beforeBreak (captured : Time) : State :=
  { live with
    tb := { live.tb with time := 46798002, compare := some 46800000, cues := [captured] }
    su := { live.su with queue := [sample 701 46800000, sample 702 46830000] } }

theorem witness_HeadOpens :
    (ready (beforeBreak 46798000) = true ∧ staysPending 46798002 [sample 702 46830000]
      ∧ (beforeBreak 46798000).su.openEntry = some (opened (some .a)))
      ∧ ready (issue .replayCue 0 { live with cu := { live.cu with mode := .replay } }) = true ∧ live.tb.cues = [] := by
  refine ⟨⟨by decide +kernel, ?_, by decide +kernel⟩, by decide +kernel, by decide +kernel⟩
  intro n h
  cases h
  decide

theorem test_early_cue :
    let t := after .cue (beforeBreak 46798000)
    (t.su.openEntry.map fun e => (e.entry.id, e.actualStart, e.cuedEarly)) = some (701, 46798000, true)
      ∧ t.tb.compare = some 46830000 ∧ openBank t = some .b
      ∧ (t.su.slotA.map (·.closed.actualEnd)) = some 46798000 := by decide +kernel

/-- The scan of the entry that an opening closes is bounded in a tick in LIVE and in 2 × D edges in REPLAY (R94, log 9). -/
theorem test_opening_scan_bound :
    let s := beforeBreak 46798000
    let left (s : State) := (after .cue s).su.slotA.map (·.left)
    left s = some (.ticks 1) ∧ left { s with cu := { s.cu with mode := .replay } } = some (.edges 20000) := by decide +kernel

/-- One ms beyond the early window, a cue is stray. -/
theorem test_stray_cue :
    let t := after .cue (beforeBreak 46794999)
    openId t = some 640 ∧ t.su.strayCues = 1
      ∧ t.ru.queue.map (·.report) = [.strayCue 46794999 (some (701, 46800000)) 5000 1] := by decide +kernel

/-- The late cue of 12.2: the ident 702 closes with duration 0. -/
theorem test_late_cue :
    let s : State := { live with
      tb := { live.tb with time := 46830001, compare := some 46831000, cues := [46829999] }
      su := { live.su with
        openEntry := some { opened (some .a) with entry := sample 702 46830000, actualStart := 46830000 }
        queue := [sample 703 46831000] } }
    let t := after .cue s
    (t.su.openEntry.map fun e => (e.entry.id, e.actualStart, e.cuedEarly)) = some (703, 46830000, true)
      ∧ (t.su.slotA.map (·.closed.duration)) = some 0 := by decide +kernel

theorem test_start_compare :
    let s : State := { beforeBreak 0 with tb := { live.tb with time := 46800000, firing := some 46800000 } }
    let t := after .startCompare s
    (t.su.openEntry.map fun e => (e.entry.id, e.actualStart, e.cause)) = some (701, 46800000, .compare)
      ∧ t.tb.compare = some 46830000 := by decide +kernel

theorem test_replay_cue :
    let s : State := { live with
      cu := { live.cu with mode := .replay }
      tb := { live.tb with time := 46798000, compare := some 46800000 }, su := { live.su with queue := [sample 701 46800000] } }
    let t := after .replayCue (issue .replayCue 0 s)
    openId t = some 701 ∧ (t.su.openEntry.map (·.replay)) = some true
      ∧ (t.ru.queue.map (·.report)).getLast? = some (.commandDone 7 9 1 0x048 0) := by decide +kernel

/-- Entry 700 of 12.1. -/
def entryWords : List Beat := [0x01010002BC, 43230000, 0x03B60000000AFF1A, 10000, 8000, 0, 0, 7]

theorem witness_EntriesQueued :
    ready (stage .entry entryWords installed) = true ∧ installed.tb.firing = none ∧ installed.su.queue.length < 32
      ∧ ready (issue .cancelFrom 702 (beforeBreak 0)) = true ∧ live.su.queue = [] := by decide +kernel

theorem test_entry :
    let t := after .entry (stage .entry entryWords installed)
    t.su.queue = [⟨700, .programme, 43230000, -230, 10, 0, true, 1, 10000, 950, 8000, false⟩] := by decide +kernel

/-- 999 ms after the tail is too soon, 1000 ms is not (R116). -/
theorem test_entry_order :
    let commit (start : Beat) := after .entry (stage .entry [0x01010002BD, start, 0x03B60000000AFF1A, 10000, 8000, 0, 0, 7]
      (after .entry (stage .entry entryWords installed)))
    (commit 43230999).ru.lastRefusal = some ⟨7, 33, 1, .order⟩ ∧ (commit 43231000).su.queue.length = 2 := by decide +kernel

theorem test_cancel :
    let t := after .cancelFrom (issue .cancelFrom 701 (beforeBreak 0))
    t.su.queue = [] ∧ t.tb.compare = none ∧ t.ru.queue.map (·.report) = [.commandDone 7 8 1 0x040 2] := by decide +kernel

theorem witness_PolicyAndDefaults :
    ready (issue .holdPolicy 0x903 installed) = true ∧ ready (issue .defaultEntry 3 installed) = true := by decide +kernel

theorem test_hold_policy :
    let t := after .holdPolicy (issue .holdPolicy 0x903 installed)
    policyHolds t .live .loudness = true ∧ policyHolds t .live .caption = false ∧ policyHolds t .programme .caption = true := by
  decide +kernel

theorem test_default_loudness :
    (after .defaultEntryLoudness (issue .defaultEntry 0x0A0AFDA801 installed)).su.defaults.target = -600 := by decide +kernel
theorem test_default_caption :
    let t := after .defaultEntryCaption (issue .defaultEntry (BitVec.ofNat 48 (2 + 2 ^ 8 + 2 ^ 12 + 950 * 2 ^ 18 + 10000 * 2 ^ 28))
      installed)
    t.su.defaults = ⟨-230, 10, 0, true, 1, 10000, 950, 0⟩ := by decide +kernel
theorem test_default_dead_air :
    (after .defaultEntryDeadAir (issue .defaultEntry 0x927C003 installed)).su.defaults.deadAirLimit = 600000 := by decide +kernel

theorem witness_OutcomesDecided : 0 ≤ ((46798000 : Time) - 43230000).toInt ∧ (opened none).activeMs = 0 := by decide +kernel

theorem witness_VerdictBuilt :
    (opened none).subBlocks = 0 ∧ ({ opened none with subBlocks := 4 } : OpenEntry).subBlocks ≠ 0
      ∧ (verdictOf ⟨opened none, 0, 0, false⟩ (some (-219)) (some (-219))).loudness = .failHigh
      ∧ policyHolds live (opened none).entry.cls .loudness = true ∧ (opened none).replay = false
      ∧ (verdictOf ⟨opened none, 0, 0, false⟩ none none).loudness = .undetermined := by decide +kernel

/-- The coverages of 12.3, 12.4 and 7.7, and the loudness outcomes of R132. -/
theorem test_outcomes :
    let e (active covered : Nat) : OpenEntry := { opened none with activeMs := active, coveredMs := covered }
    let c : ClosedEntry := ⟨opened none, 0, 0, false⟩
    coverageOf (e 1740000 1736800) = 998 ∧ coverageOf (e 50000 46800) = 936 ∧ coverageOf (e 60000 56500) = 941
      ∧ captionOutcome (e 50000 46800) = .fail ∧ captionOutcome (e 1740000 1736800) = .pass
      ∧ loudnessOutcome c (some (-219)) = .failHigh ∧ loudnessOutcome c (some (-220)) = .pass
      ∧ loudnessOutcome c none = .undetermined := by decide +kernel

/-- Programme 700 of 12.2 closes with its duration, and its measured ms are bounded by it. -/
theorem test_close_bound :
    let c := closedOf { opened none with actualStart := 43230000, measuredMs := 3568002 } 46798000 false
    c.duration = 3568000 ∧ c.record.measuredMs = 3568000 := by decide +kernel

/-! ### The recording ring -/

/-- The capture write at the base of the RECORD window, and one into segment 2. -/
def capture (addr : Nat) : Request := ⟨6, addr, .write [⟨0, 0xFF⟩, ⟨0, 0x0F⟩]⟩

theorem witness_HeldSegmentsBlockWrites :
    ready ring = true ∧ (capture 0x10000000).wf = true ∧ judge ring (capture 0x10000000) = .checkSegments 3 recordWindow
      ∧ (ring.rc.table.head?.map (·.state)) = some .held
      ∧ (capture 0x11FFFFF8).wf = true ∧ judge ring (capture 0x11FFFFF8) = .checkSegments 3 recordWindow
      ∧ (ring.rc.table[1]?.map (·.state)) = some .held := by decide +kernel

/-- A write across the end of segment 0 touches two held segments: both count it and both report, the lower index first
(R140, log 37). -/
theorem test_held_write_two_segments :
    let t := after (.passThroughRequest (capture 0x11FFFFF8)) ring
    (t.rc.table.take 2).map (fun g => (g.blocked, g.blockedMark)) = [(1, true), (1, true)] ∧ blockedCount t.mp 3 = 1
      ∧ t.ru.queue.map (fun q => match q.report with
          | .recordBlocked g _ _ _ _ => some g.index
          | _ => none) = [some 0, some 1] := by decide +kernel

theorem test_held_write :
    let t := after (.passThroughRequest (capture 0x10000000)) ring
    t.mp.txns.map (·.progress) = [.answered .ack] ∧ blockedCount t.mp 3 = 1
      ∧ (t.rc.table.head?.map (·.blocked)) = some 1 ∧ (t.rc.table[5]?.map (·.state)) = some .filling
      ∧ (after (.passThroughRequest (capture 0x10000000)) t).ru.queue.length = 1 := by decide +kernel

theorem witness_CaptureWrites :
    ready ring = true ∧ (capture 0x14000000).wf = true ∧ judge ring (capture 0x14000000) = .checkSegments 3 recordWindow
      ∧ (ring.rc.table[2]?.map (·.state)) = some .closed ∧ (capture 0x1A000000).wf = true
      ∧ judge ring (capture 0x1A000000) = .checkSegments 3 recordWindow := by decide +kernel

theorem test_capture_fills :
    let t := after (.passThroughRequest (capture 0x1A000000)) ring
    (t.rc.table[5]?.map (·.bytes)) = some 12 ∧ t.mp.txns.map (·.progress) = [.waiting] := by decide +kernel

/-- Segment 5 closes with CAPTION and is HELD; the landing segment begins filling with the open entry (9.7). -/
theorem test_capture_lands :
    let s : State := { ring with
      tb := { ring.tb with time := 8000000 }
      rc := { ring.rc with
        table := ring.rc.table.set 5 ({ freeSegment 5 with state := .filling, start := some 7992000, reasons := 0x4 } : Segment) } }
    let t := after (.passThroughRequest (capture 0x14000000)) s
    (t.rc.table[5]?.map fun g => (g.state, g.finish)) = some (.held, some 8000000)
      ∧ (t.rc.table[2]?.map fun g => (g.state, g.start, g.entries, g.bytes)) = some (.filling, some 8000000, [640], 12) := by
  decide +kernel

theorem witness_FillingSegment :
    (ring.rc.table[5]?.map (·.state)) = some .filling ∧ 5 < ring.rc.table.length ∧ ring.cu.mode = .live := by decide +kernel

theorem witness_HoldRequests :
    ring.cu.mode ≠ .replay ∧ ring.rc.table ≠ [] ∧ evidenceMissing 7996000 ⟨.caption, 7983000, 7996000, 880⟩ ring.rc.table = false
      ∧ evidenceMissing 7996000 ⟨.caption, 7950000, 7996000, 880⟩ ring.rc.table = true ∧ installed.cu.mode ≠ .replay
      ∧ (ring.rc.table[4]?.map (·.state)) = some .closed ∧ (ring.rc.table[5]?.map (·.index)) = some 5
      ∧ holdCount ring.rc.table < ring.rc.table.length - 2 := by decide +kernel

/-- The caption hold of 9.7: segments 5, 4 and 3, latest first, with complete evidence. -/
theorem test_hold_request :
    let t := holdRequest ⟨.caption, 7983000, 7996000, 880⟩ ring
    t.rc.table.map (·.state) = [.held, .held, .closed, .held, .held, .filling]
      ∧ (t.rc.table[5]?.map (·.reasons)) = some 0x4 ∧ holdCount t.rc.table = 4
      ∧ t.ru.queue.map (fun q => match q.report with | .holdPlaced g _ _ n late => (g.index, n, late) | _ => (0, 0, true))
        = [(5, 2, false), (4, 3, false), (3, 4, false)] := by decide +kernel

theorem witness_HoldAndRelease :
    ready (issue .hold 4 ring) = true ∧ inSet 1 (archiveMask ring.mp) = true ∧ ready (issue .releaseHold 0x100 ring) = true
      ∧ (ring.rc.table[0]?.map (·.index)) = some 0 := by decide +kernel

theorem test_hold :
    let t := after .hold (issue .hold 4 ring)
    (t.rc.table[4]?.map fun g => (g.state, g.reasons)) = some (.held, 0x10) ∧ t.ru.queue.length = 2 := by decide +kernel

theorem test_release_hold :
    let t := after .releaseHold (issue .releaseHold 0x100 ring)
    (t.rc.table[0]?.map fun g => (g.state, g.reasons)) = some (.closed, 0) ∧ holdCount t.rc.table = 1 := by decide +kernel

theorem witness_ExportCommands :
    ready (issue .exportRequest 0 ring) = true ∧ inSet 1 (archiveMask ring.mp) = true
      ∧ (ring.rc.table[0]?.map (·.state)) = some .held ∧ inSet 1 (archiveMask State.reset.mp) = false
      ∧ ready (issue .exportDone 6 ring) = true ∧ ring.rc.table.length ≤ 6 := by decide +kernel

/-- HELD to EXPORT and back (9.7, 12.3). -/
theorem test_export :
    let t := after .exportRequest (issue .exportRequest 0 ring)
    (t.rc.table[0]?.map fun g => (g.state, g.beforeExportHeld)) = some (.exporting, some true)
      ∧ ((after .exportDone (issue .exportDone 0 t)).rc.table[0]?.map (·.state)) = some .held := by decide +kernel

/-- A pending export is placed on the FILLING segment, and a second is refused (9.7). -/
theorem test_export_pending :
    let t := after .exportRequest (issue .exportRequest 5 ring)
    t.rc.pendingExport = some ⟨5, 7, 1⟩
      ∧ (after .exportRequest (issue .exportRequest 5 t)).ru.lastRefusal = some ⟨7, 18, 1, .exportPending⟩ := by decide +kernel

/-! ### Reports -/

/-- The ring of 10.9 with one record queued: 124 positions, no image owed. -/
def reporting (write read : Nat) (lost : BitVec 32) (r : Report) : State :=
  { installed with ru := { installed.ru with
      queue := [⟨r, 9⟩], writeIndex := write, readIndex := read, lostCount := lost, recordNumber := 5000, imageDue := false
      enables := Flag.reportsLost.set } }

/-- Each clause: a record without a window, without room, with room behind a LOST record, the LOST record's burst, the last
burst. -/
theorem witness_RecordsLaid :
    let r : Report := .commandDone 7 4 1 0x020 0
    let s := reporting 123 100 2 r
    let laid := after .layRecord s
    let lost := after .ownWriteOffer laid
    (ready s = true ∧ s.ru.current = none ∧ s.ru.imageDue = false ∧ s.ru.geometry = some ⟨0x10000, 124⟩
        ∧ s.ru.queue = [⟨r, 9⟩] ∧ (123 + 124 - 100) % 124 + 1 + 1 < 124)
      ∧ 124 ≤ (123 + 124 - 0) % 124 + 0 + 1
      ∧ ({ s with ru := { s.ru with geometry := none } } : State).ru.geometry = none
      ∧ (ready laid = true ∧ (laid.ru.current.map fun u => (u.bursts.length, u.lost)) = some (2, some 2)
        ∧ laid.mp.ownQueue.length < 8)
      ∧ ready lost = true ∧ (lost.ru.current.map fun u => (u.image, u.bursts.length, u.lost)) = some (false, 1, none)
      ∧ lost.ru.queue = [⟨r, 9⟩] ∧ lost.mp.ownQueue.length < 8 := by decide +kernel

/-- A due image goes ahead of the head record, and a unit in progress ahead of both (R161). -/
theorem test_lay_waits :
    let s := reporting 123 100 2 (.commandDone 7 4 1 0x020 0)
    let due : State := { s with ru := { s.ru with imageDue := true } }
    ready due = true ∧ after .layRecord due = due ∧ after .layRecord (after .layRecord s) = after .layRecord s
      ∧ ready installed = true ∧ installed.ru.queue = [] ∧ after .layRecord installed = installed := by decide +kernel

/-- A position read byte by byte against the table of R175. -/
theorem test_position_layout :
    let q : QueuedReport := ⟨.segmentClosed { (freeSegment 3) with
      state := .closed, start := some 1, finish := some 0xFFFFFFFF, bytes := 9, entries := [640, 641], more := true } 1 2, 77⟩
    ∀ beats ∈ (recordPositions q 5).head?, HoldsFields beats (positionTable q 12 5 0) := by
  unfold HoldsFields
  decide +kernel

/-- A record without room is dropped, and calls the alert (10.9). -/
theorem test_record_dropped :
    let t := after .layRecord (reporting 123 0 0 (.deadAirEnd 1 0 0 0))
    t.ru.lostCount = 1 ∧ t.ru.recordNumber = 5000 ∧ alertAsserted t = true ∧ t.ru.queue = [] := by decide +kernel

/-- The LOST record at 123 and the outcome at 0 (10.9). -/
theorem test_record_after_lost :
    let t := after .ownWriteOffer (after .ownWriteOffer (after .layRecord (reporting 123 100 2 (.commandDone 7 4 1 0x020 0))))
    t.ru.writeIndex = 1 ∧ t.ru.lostCount = 0 ∧ t.ru.recordNumber = 5002 ∧ t.ru.imageDue = true
      ∧ t.mp.ownQueue.map (·.addr) = [0x10000 + 256 + 64 * 123, 0x10000 + 256]
      ∧ t.mp.ownQueue.map (fun w => w.beats.head?)
        = [some 0x0000138800000113, some 0x0000138900000101] := by decide +kernel

/-- An image is due. -/
def imageOwed : State := { installed with ru := { installed.ru with imageDue := true, flags := 0x1001 } }

/-- The same image with only its trailing beat to come. -/
def trailing : State :=
  { imageOwed with ru := { imageOwed.ru with imageDue := false, current := some ⟨true, [⟨0x100F8, [1]⟩], none⟩ } }

/-- Each clause: an image composed, none owed, the trailing beat taken, a tick not owed, a tick short of 100, the hundredth. -/
theorem witness_StatusImages :
    (ready imageOwed = true ∧ imageOwed.ru.current = none ∧ imageOwed.ru.geometry = some ⟨0x10000, 124⟩
        ∧ imageOwed.ru.imageDue = true)
      ∧ (ready trailing = true ∧ trailing.ru.current = some ⟨true, [⟨0x100F8, [1]⟩], none⟩ ∧ trailing.mp.ownQueue.length < 8)
      ∧ (ready installed = true ∧ installed.tb.owed.ru = false)
      ∧ ready (owing installed) = true ∧ (owing installed).tb.owed.ru = true ∧ installed.ru.imageTicks + 1 ≠ 100
      ∧ ready (owing { installed with ru := { installed.ru with imageTicks := 99 } }) = true := by decide +kernel

/-- The image of a part at work against the table of R176, and its end with the trailing beat (R171). -/
theorem test_image_layout :
    let s : State := { imageOwed with
      cu := { imageOwed.cu with mode := .live }, ag := { imageOwed.ag with active := true, deadTimer := 0x01020304 }
      lu := { imageOwed.lu with momentary := some (-237) }, rc := { imageOwed.rc with table := ring.rc.table }
      ru := { imageOwed.ru with lastRefusal := some ⟨0x1234, 32, 5, .overlap⟩, lostCount := 3, readIndex := 7 } }
    HoldsFields ((after .statusImageCompose s).ru.current.toList.flatMap fun u => u.bursts.flatMap (·.beats))
        (imageTable s none 1)
      ∧ (after .ownWriteOffer trailing).ru.current = none := by
  unfold HoldsFields
  decide +kernel

theorem test_image :
    let t := after .statusImageCompose imageOwed
    (t.ru.current.map fun u => u.bursts.map fun b => (b.addr - 0x10000, b.beats.length))
        = some [(0, 1), (8, 8), (72, 8), (136, 8), (200, 6), (248, 1)]
      ∧ t.ru.imageGeneration = 1 ∧ t.ru.imageDue = false := by decide +kernel

/-- An image before its leading beat is offered, and one with three of its six bursts queued: a read of the whole image is
still to be issued in the first, and would break the order of R171 in the second. -/
theorem test_image_order :
    let read : Request := ⟨3, 0x10000, .read 32⟩
    let composed := after .statusImageCompose imageOwed
    let asked := after (.passThroughRequest read) composed
    let half := after .ownWriteOffer (after .ownWriteOffer (after .ownWriteOffer composed))
    leadingNext asked.ru = true ∧ asked.mp.txns.map (fun t => (readsImage asked.ru t.req, unissued t)) = [(true, true)]
      ∧ imageBegun half.ru = true ∧ readsImage half.ru read = true
      ∧ leadingNext (after .memoryPortIssue asked).ru = true
      ∧ (after .memoryPortIssue asked).mp.txns.map unissued = [false] := by decide +kernel

/-- R16 as it stands: a read taken with three of an image's six bursts queued waits for these three, and a burst offered behind
it does not lengthen its wait. -/
theorem test_image_read_taken_early :
    let times (n : Nat) (i : Instr) (s : State) : State := (List.replicate n i).foldl (fun s i => after i s) s
    let s := after (.passThroughRequest ⟨3, 0x10000, .read 32⟩) (times 3 .ownWriteOffer (after .statusImageCompose imageOwed))
    s.mp.txns.map (·.progress) = [.held [0, 1, 2]]
      ∧ (times 3 .ownWriteOffer s).mp.txns.map (·.progress) = [.held [0, 1, 2]] := by decide +kernel

/-- 1.6: a read of the whole image that meets its six own writes queued waits for the last of them, and is issued then. -/
theorem test_image_read_held :
    let times (n : Nat) (i : Instr) (s : State) : State := (List.replicate n i).foldl (fun s i => after i s) s
    let done (s : State) : State := after .ownWriteCompletion (after .memoryPortIssue s)
    let s := after (.passThroughRequest ⟨3, 0x10000, .read 32⟩) (times 6 .ownWriteOffer (after .statusImageCompose imageOwed))
    let five := done (done (done (done (done s))))
    s.mp.txns.map (·.progress) = [.held [0, 1, 2, 3, 4, 5]] ∧ five.mp.txns.map (·.progress) = [.held [5]]
      ∧ (passCandidate five.mp).isNone ∧ (passCandidate (done five).mp).map (·.id) = some 0 := by decide +kernel

theorem test_image_due :
    let t := after .imageDue (owing { installed with ru := { installed.ru with imageTicks := 99, imageDue := false } })
    t.ru.imageTicks = 0 ∧ t.ru.imageDue = true := by decide +kernel

theorem witness_ReportCommands :
    ready (issue .readIndex 100 (reporting 123 0 0 (.deadAirEnd 1 0 0 0))) = true
      ∧ ready (issue .flagEnableSet 0x1FFF installed) = true ∧ ready (issue .flagEnableClear 0 installed) = true
      ∧ ready (issue .ackFlags 0x1000 installed) = true := by decide +kernel

/-- READ_INDEX 100 of 10.9, and one beyond the write index. -/
theorem test_read_index :
    let s := reporting 123 0 0 (.deadAirEnd 1 0 0 0)
    (after .readIndex (issue .readIndex 100 s)).ru.readIndex = 100
      ∧ (after .readIndex (issue .readIndex 124 s)).ru.lastRefusal = some ⟨7, 4, 1, .badIndex⟩ := by decide +kernel

/-- A flag that stood set before its enable calls no alert until it is set again (R166, R168). -/
theorem test_flag_enable :
    let s : State := { installed with ru := { installed.ru with flags := Flag.commandRefused.set } }
    let t := after .flagEnableSet (issue .flagEnableSet 0x0400 s)
    alertAsserted t = false ∧ alertAsserted (after .setTime (issue .setTime 0 { t with cu := { t.cu with mode := .live } })) = true := by
  decide +kernel

theorem test_flag_clear :
    let s : State := { installed with ru := { installed.ru with flags := 0x0400, enables := 0x0400, latch := true } }
    alertAsserted (after .flagEnableClear (issue .flagEnableClear 0x0400 s)) = false
      ∧ alertAsserted (after .ackFlags (issue .ackFlags 0x0400 s)) = false
      ∧ alertAsserted (after .ackFlags (issue .ackFlags 0x0001 s)) = true := by decide +kernel

/-! ### The invariants hold of states at work, and a step goes on from them -/

theorem windowAt_beyond {mp : MemPath} {k : Nat} (h : 8 ≤ k) : windowAt mp k = none := by
  simp [windowAt, Vector.getElem?_eq_none (by omega : 8 ≤ k)]

theorem ring_windows (k : Nat) (w : Window) (h : windowAt ring.mp k = some w) :
    (k, w) ∈ [(0, reportWindow), (1, audioWindow), (2, captionWindow), (3, recordWindow)] := by
  by_cases hk : k < 8
  · have key : ∀ k < 8, windowAt ring.mp k = (if k = 0 then some reportWindow else if k = 1 then some audioWindow
        else if k = 2 then some captionWindow else if k = 3 then some recordWindow else none) := by decide +kernel
    rw [key k hk] at h
    split at h <;> simp_all
    split at h <;> simp_all
    split at h <;> simp_all
  · rw [windowAt_beyond (by omega)] at h; cases h

theorem witness_StepKeepsWindows : WindowsOk ring ∧ OwnersAgree ring := by
  refine ⟨⟨fun k w h => ?_, fun j k v w ne hv hw => ?_, fun h => ?_⟩, by decide +kernel, by decide +kernel, by decide +kernel⟩
  · have := ring_windows k w h
    simp at this
    rcases this with ⟨-, rfl⟩ | ⟨-, rfl⟩ | ⟨-, rfl⟩ | ⟨-, rfl⟩ <;> decide +kernel
  · have h1 := ring_windows j v hv
    have h2 := ring_windows k w hw
    simp at h1 h2
    rcases h1 with ⟨rfl, rfl⟩ | ⟨rfl, rfl⟩ | ⟨rfl, rfl⟩ | ⟨rfl, rfl⟩ <;>
      rcases h2 with ⟨rfl, rfl⟩ | ⟨rfl, rfl⟩ | ⟨rfl, rfl⟩ | ⟨rfl, rfl⟩ <;>
      first | exact absurd rfl ne | decide +kernel
  · exact absurd h (by decide +kernel)

theorem witness_StepKeepsRecorder : RecorderOk ring := by
  refine ⟨fun i g h => ?_, fun _ => by decide +kernel, by decide +kernel, fun p h => ?_⟩
  · have hi : i < 6 := by
      have hl : ring.rc.table.length = 6 := by decide +kernel
      exact hl ▸ (List.getElem?_eq_some_iff.mp h).1
    have key : ∀ i < 6, (ring.rc.table[i]?).all (fun g => g.index == i && segmentOk g) = true := by decide +kernel
    simpa [h] using key i hi
  · exact absurd h (by have : ring.rc.pendingExport = none := by decide +kernel
                       simp [this])

theorem witness_StepKeepsModesAndBanks : ModeOk ring ∧ BanksOk ring := by
  refine ⟨⟨fun h => absurd h (by decide +kernel), fun _ => by decide +kernel, fun h => absurd h (by decide +kernel)⟩,
    fun bank => ?_, by decide +kernel, fun bank h => ?_, fun h => absurd h (by decide +kernel)⟩
  · cases bank <;> decide +kernel
  · cases bank
    · decide +kernel
    · exact absurd h (by decide +kernel)

theorem witness_StepKeepsBounds : QueuesOk ring ∧ TimeOk ring ∧ RingOk ring ∧ AlertOk ring := by
  refine ⟨by unfold QueuesOk; decide +kernel, by unfold TimeOk; decide +kernel, ?_, fun h => absurd h (by decide +kernel)⟩
  have h : ring.ru.geometry = some ⟨0x10000, 124⟩ := by decide +kernel
  have c : ring.ru.current = none := by decide +kernel
  unfold RingOk
  rw [h]
  exact ⟨by decide +kernel, by decide +kernel, fun u hu => by simp [c] at hu⟩

/-- A record in progress behind a LOST record, at the positions 0 and 1 of the ring (R161, R163). -/
theorem witness_StepKeepsBounds_unit : QueuesOk begun ∧ TimeOk begun ∧ RingOk begun ∧ AlertOk begun := by
  refine ⟨by unfold QueuesOk; decide +kernel, by unfold TimeOk; decide +kernel, ?_, fun h => absurd h (by decide +kernel)⟩
  have h : begun.ru.geometry = some ⟨0x10000, 124⟩ := by decide +kernel
  have w : begun.ru.writeIndex = 0 := by decide +kernel
  have r : begun.ru.readIndex = 0 := by decide +kernel
  unfold RingOk
  rw [h]
  refine ⟨by decide +kernel, by decide +kernel, ?_⟩
  rintro u ⟨⟩
  refine ⟨by simp, by simp, fun _ => ⟨⟨.deniedClose 0 1, 9⟩, [⟨.deniedClose 1 1, 10⟩], rfl, ?_⟩⟩
  simp only [w, r]
  refine ⟨by decide, by decide, fun _ => rfl, ?_⟩
  rintro (_ | _ | i) b e
  · simp at e; subst e; decide
  · simp at e; subst e; decide
  · simp at e

theorem witness_StepKeepsPorts : PortsOk held := by
  unfold PortsOk
  have e : held.mp.txns = [⟨0, ⟨3, 0x10000, .read 32⟩, .held [0]⟩] := by decide +kernel
  have w : held.mp.ownQueue = [⟨0, 0x10000, [1]⟩] := by decide +kernel
  have r : held.mp.released = [] := by decide +kernel
  rw [e, w, r]
  refine ⟨by decide, ?_, by decide, ?_, ?_, ?_, by simp, by simp⟩
  · simp; decide +kernel
  · simp; decide +kernel
  · simp; decide +kernel
  · simp

/-- A held read of the image, and one that the arbiter issues ahead of an image composed and not begun (R171). -/
theorem witness_StepKeepsPorts_images :
    let asked := after (.passThroughRequest ⟨3, 0x10000, .read 32⟩) (after .statusImageCompose imageOwed)
    (ImagesMetWhole held ∧ (held.ru.geometry.map (·.base)) = some 0x10000 ∧ held.ru.current = none
        ∧ ¬ breaksImageOrder held .ownWriteCompletion)
      ∧ ImagesMetWhole asked ∧ ready asked = true ∧ asked.mp.txns = [⟨0, ⟨3, 0x10000, .read 32⟩, .waiting⟩]
      ∧ (after .memoryPortIssue asked).mp.txns = [⟨0, ⟨3, 0x10000, .read 32⟩, .issued⟩] := by
  refine ⟨⟨?_, by decide +kernel, by decide +kernel, by simp [breaksImageOrder]⟩, ?_, by decide +kernel, by decide +kernel,
    by decide +kernel⟩
  · have e : held.mp.txns = [⟨0, ⟨3, 0x10000, .read 32⟩, .held [0]⟩] := by decide +kernel
    have w : held.mp.ownQueue = [⟨0, 0x10000, [1]⟩] := by decide +kernel
    unfold ImagesMetWhole
    rw [e, w]
    exact fun t ht _ _ => ⟨by decide +kernel, fun w hw _ => ⟨[0], by simp_all⟩⟩
  · intro t _ _ _
    refine ⟨by decide +kernel, fun w hw => ?_⟩
    have q : (after (.passThroughRequest ⟨3, 0x10000, .read 32⟩) (after .statusImageCompose imageOwed)).mp.ownQueue = [] := by
      decide +kernel
    rw [q] at hw
    cases hw

theorem witness_Steps : step { ring with pending := [.memoryPortIssue] } = exec .memoryPortIssue ring
    ∧ step { held with pending := [.ownWriteCompletion] } = exec .ownWriteCompletion held := ⟨rfl, rfl⟩

theorem witness_ArbiterAlternates :
    ready held = true ∧ ({ held.mp with ownIssued := false } : MemPath).ownQueue.head? = some ⟨0, 0x10000, [1]⟩
      ∧ (passCandidate (after (.passThroughRequest guardRead) installed).mp).map (·.id) = some 0
      ∧ (passCandidate held.mp) = none := by decide +kernel

theorem witness_OffersTaken :
    installed.ru.queue.length < 16 ∧ 16 ≤ (List.replicate 16 (⟨.deniedClose 0 0, 0⟩ : QueuedReport)).length := by decide +kernel

theorem witness_OldestReadyRequest : PortsOk held ∧ (passCandidate held.mp) = none :=
  ⟨witness_StepKeepsPorts, by decide +kernel⟩

end Sys2Proof.Tests
end

section
set_option Elab.async false

namespace Sys2Proof.Machine

/-! ### What every event of the observers, the schedule and the clock keeps -/

/-- The counts of the time base are within their ranges (R38, R39, R44 to R46). -/
structure CountsOk (tb : TimeBase) : Prop where
  prescale : tb.prescale < tb.divisor
  divisor : tb.divisor ≤ 65536
  residue : tb.residue < 48
  cueQ : 1 ≤ tb.cueQ ∧ tb.cueQ ≤ 16
  cueRun : tb.cueRun < tb.cueQ
  earlyWindow : tb.earlyWindow ≤ 60000

/-- `t` comes from `s` by events that keep the number of segments and what the caption unit knows of its window, lengthen
no pending queue, and keep the history and the counts of the time base in bounds. -/
structure Steady (s t : State) : Prop where
  segments : t.rc.table.length = s.rc.table.length
  caption : t.ca.windowPresent = s.ca.windowPresent
  queue : t.su.queue.length ≤ s.su.queue.length
  history : s.ao.history.length ≤ 30 → t.ao.history.length ≤ 30
  counts : CountsOk s.tb → CountsOk t.tb

theorem Steady.refl (s : State) : Steady s s := ⟨rfl, rfl, Nat.le_refl _, id, id⟩

theorem Steady.trans {s t u : State} (h : Steady s t) (h' : Steady t u) : Steady s u :=
  ⟨h'.segments.trans h.segments, h'.caption.trans h.caption, h'.queue.trans h.queue, h'.history ∘ h.history,
    h'.counts ∘ h.counts⟩

/-- An update of other fields is steady. -/
theorem Steady.same {s t : State} (hrc : t.rc = s.rc := by rfl)
    (hca : t.ca.windowPresent = s.ca.windowPresent := by rfl) (hsu : t.su.queue = s.su.queue := by rfl)
    (hao : t.ao.history = s.ao.history := by rfl) (htb : CountsOk s.tb → CountsOk t.tb := by exact id) : Steady s t :=
  ⟨hrc ▸ rfl, hca, Nat.le_of_eq (hsu ▸ rfl), fun h => hao ▸ h, htb⟩

/-- Either branch of a choice may be taken. -/
theorem Steady.ite {s t u : State} {c : Prop} [Decidable c] (ht : Steady s t) (hu : Steady s u) :
    Steady s (if c then t else u) := by split <;> assumption

/-- A step repeated over a list is steady when each one is. -/
theorem Steady.foldl {α : Type} {f : State → α → State} (hf : ∀ s a, Steady s (f s a)) (l : List α) (s : State) :
    Steady s (l.foldl f s) := by
  induction l generalizing s with
  | nil => exact .refl s
  | cons a l ih => exact (hf s a).trans (ih _)

theorem Steady.repeatStep {f : State → State} (hf : ∀ s, Steady s (f s)) (n : Nat) (s : State) :
    Steady s (Machine.repeatStep f n s) := by
  induction n generalizing s with
  | zero => exact .refl s
  | succ n ih => exact (hf s).trans (ih _)

/-! ### The recorder -/

theorem putSegment_steady (g : Segment) (s : State) : Steady s (putSegment g s) := by constructor <;> simp

theorem joinReason_steady (g : Segment) (reason : HoldReason) (req : Option HoldRequest) (missing : Bool) (s : State) :
    Steady s (joinReason g reason req missing s) := by
  unfold joinReason
  exact .ite (.refl s) ((putSegment_steady _ s).trans .same)

theorem holdClosed_steady (g : Segment) (reason : HoldReason) (req : Option HoldRequest) (missing : Bool) (s : State) :
    Steady s (holdClosed g reason req missing s) := (putSegment_steady _ s).trans .same

theorem holdSegment_steady (req : HoldRequest) (missing : Bool) (s : State) (index : Nat) :
    Steady s (holdSegment req missing s index) := by
  unfold holdSegment
  split
  · exact .refl s
  · split
    · exact .refl s
    · exact joinReason_steady ..
    · exact joinReason_steady ..
    · exact joinReason_steady ..
    · exact .ite (holdClosed_steady ..) .same

theorem holdRequest_steady (req : HoldRequest) (s : State) : Steady s (holdRequest req s) := by
  unfold holdRequest
  have h := Steady.foldl (holdSegment_steady req (evidenceMissing s.tb.time req s.rc.table))
    ((overlapSet s.tb.time req s.rc.table).map (·.index)) s
  exact .ite (.ite (h.trans .same) h) (.refl s)

theorem closeFilling_steady (g : Segment) (s : State) : Steady s (closeFilling g s) := by
  have h : Steady (putSegment (closedSegment g s) s) (dropExport g (putSegment (closedSegment g s) s)) := by
    unfold dropExport
    split
    · exact ⟨rfl, rfl, Nat.le_refl _, id, id⟩
    · exact .refl _
  refine (putSegment_steady _ s).trans (h.trans ?_)
  exact .same (by simp [closeFilling]) (by simp [closeFilling]) (by simp [closeFilling]) (by simp [closeFilling])
    (by simp [closeFilling])

theorem countBlocked_steady (r : Request) (s : State) (index : Nat) : Steady s (countBlocked r s index) := by
  unfold countBlocked
  split
  · exact .refl s
  · exact .ite (putSegment_steady _ s) ((putSegment_steady _ s).trans .same)

theorem blockRecordWrite_steady (r : Request) (ts : List Touch) (s : State) : Steady s (blockRecordWrite r ts s) :=
  .foldl (countBlocked_steady r) _ s

theorem capture_steady (ts : List Touch) (s : State) : Steady s (capture ts s) := by
  unfold capture
  split
  · exact .refl s
  · split
    · exact .refl s
    · refine .ite (putSegment_steady _ s) ?_
      split
      · exact (closeFilling_steady _ s).trans (putSegment_steady _ _)
      · exact putSegment_steady _ s

theorem noteOpening_steady (id : EntryId) (s : State) : Steady s (noteOpening id s) := by
  unfold noteOpening
  split
  · split
    · exact putSegment_steady _ s
    · exact .refl s
  · exact .refl s

theorem noteShortTerm_steady (s : State) : Steady s (noteShortTerm s) := by
  unfold noteShortTerm
  split
  · split
    · exact putSegment_steady _ s
    · exact .refl s
  · exact .refl s

/-! ### The schedule unit -/

theorem buildVerdict_steady (c : ClosedEntry) (ungated integrated : Option Int) (s : State) :
    Steady s (buildVerdict c ungated integrated s) := by
  unfold buildVerdict
  exact .ite ((holdRequest_steady _ s).trans .same) .same

theorem closeEntry_steady (actualEnd : Time) (aborted : Bool) (s : State) : Steady s (closeEntry actualEnd aborted s) := by
  unfold closeEntry
  split
  · exact .refl s
  · dsimp only
    split
    · exact .same (hsu := by simp)
    · exact Steady.trans (t := { s with su := { s.su with openEntry := none } }) .same (buildVerdict_steady ..)

/-- An opening leaves the queue that is given to it (R125). -/
theorem openOne_queue (e : Entry) (start : Time) (cause : Cause) (cuedEarly : Bool) (rest : List Entry) (s : State) :
    (openOne e start cause cuedEarly rest s).su.queue = rest := by simp [openOne]

theorem openOne_steady (e : Entry) (start : Time) (cause : Cause) (cuedEarly : Bool) (rest : List Entry) {s : State}
    (h : rest.length ≤ s.su.queue.length) : Steady s (openOne e start cause cuedEarly rest s) := by
  have hc := closeEntry_steady start false s
  have hn := noteOpening_steady e.id { closeEntry start false s with
    su := { (closeEntry start false s).su with
      queue := rest
      openEntry := some (newRecord e start cause cuedEarly ((closeEntry start false s).cu.mode == .replay)
        (freeBank (closeEntry start false s).ag) (closeEntry start false s).ca.windowPresent) }
    ag := openingActivity (freeBank (closeEntry start false s).ag) (closeEntry start false s).tb.time (closeEntry start false s).ag
    ca := { (closeEntry start false s).ca with gapTimer := 0 } }
  exact ⟨hn.segments.trans hc.segments, hn.caption.trans hc.caption, by rw [openOne_queue]; exact h, by simp, by simp [openOne]⟩

theorem loadCompare_steady (v : Option Time) (s : State) : Steady s (loadCompare v s) :=
  .same (htb := fun h => ⟨h.prescale, h.divisor, h.residue, h.cueQ, h.cueRun, h.earlyWindow⟩)

theorem cascade_steady (atStart : Bool) (l : List Entry) {s : State} (h : l.length ≤ s.su.queue.length) :
    Steady s (cascade atStart l s) := by
  induction l generalizing s with
  | nil => exact loadCompare_steady none s
  | cons e rest ih =>
    unfold cascade
    refine .ite ?_ (loadCompare_steady _ s)
    refine (openOne_steady e _ _ _ rest (by simp at h; omega)).trans (ih ?_)
    rw [openOne_queue]

theorem openHead_steady (start : Time) (cause : Cause) (cuedEarly : Bool) (s : State) :
    Steady s (openHead start cause cuedEarly s) := by
  unfold openHead
  split
  · exact .refl s
  · rename_i e rest hq
    exact (openOne_steady e _ _ _ rest (by simp [hq])).trans (cascade_steady _ _ (by rw [openOne_queue]))

theorem openDefault_steady (s : State) : Steady s (openDefault s) :=
  (openOne_steady _ _ _ _ s.su.queue (Nat.le_refl _)).trans (cascade_steady _ _ (by rw [openOne_queue]))

theorem takeFiring_steady (s : State) : Steady s (takeFiring s) := by
  unfold takeFiring
  split
  · exact .refl s
  · refine Steady.trans (t := { s with tb := { s.tb with firing := none } }) ?_ (openHead_steady ..)
    exact .same (htb := fun h => ⟨h.prescale, h.divisor, h.residue, h.cueQ, h.cueRun, h.earlyWindow⟩)

theorem judgeCue_steady (captured : Time) (s : State) : Steady s (judgeCue captured s) := by
  unfold judgeCue
  split
  · exact .same
  · exact .ite (openHead_steady ..) .same

/-- The cues that are left are not among the counts. -/
theorem setCues_steady (l : List Time) (s : State) : Steady s { s with tb := { s.tb with cues := l } } :=
  .same (htb := fun h => ⟨h.prescale, h.divisor, h.residue, h.cueQ, h.cueRun, h.earlyWindow⟩)

theorem takeCue_steady (s : State) : Steady s (takeCue s) := by
  unfold takeCue
  split
  · exact .refl s
  · exact (setCues_steady _ s).trans (judgeCue_steady ..)

theorem takeCues_steady (l : List Time) (s : State) : Steady s (takeCues l s) := by
  induction l generalizing s with
  | nil => exact .refl s
  | cons t l ih => exact (setCues_steady l s).trans ((judgeCue_steady t _).trans (ih _))

theorem giveFreedBank_steady (bank : Bank) (s : State) : Steady s (giveFreedBank bank s) := by
  unfold giveFreedBank
  split
  · exact .ite .same (.refl s)
  · exact .refl s

theorem completeScan_steady (bank : Bank) (s : State) : Steady s (completeScan bank s) := by
  unfold completeScan
  split
  · exact .refl s
  · rename_i slot _
    have h := buildVerdict_steady slot.closed (scanValues (bankOf s.ag bank).counts).1 (scanValues (bankOf s.ag bank).counts).2 s
    exact h.trans (Steady.trans (.same (hsu := by simp)) (giveFreedBank_steady ..))

/-! ### Activity and captions -/

theorem askHold_steady (e : OpenEntry) (reason : HoldReason) (start : Time) (s : State) :
    Steady s (askHold e reason start s) := .ite (holdRequest_steady ..) (.refl s)

theorem decideActivity_steady (level : Option Int) (s : State) : Steady s (decideActivity level s) :=
  .same (by simp) (by simp) (by simp) (by simp) (by simp)

theorem activityTick_steady (s : State) : Steady s (activityTick s) := by
  unfold activityTick
  refine .ite (.ite ?_ .same) (.refl s)
  unfold beginDeadAir
  split
  · exact .same
  · exact Steady.trans .same (askHold_steady ..)

theorem gateBlock_steady (level : Option Int) (attributed : Bool) (s : State) : Steady s (gateBlock level attributed s) := by
  refine .same (by simp) (by simp) ?_ (by simp) (by simp)
  unfold gateBlock
  (repeat' split) <;> rfl

theorem takeHeader_steady (offset : Nat) (b : WBeat) (s : State) : Steady s (takeHeader offset b s) := by
  unfold takeHeader
  split <;> exact .same

theorem takeQualifying_steady (u : UnitShadow) (e : OpenEntry) (s : State) : Steady s (takeQualifying u e s) := by
  unfold takeQualifying
  dsimp only
  split <;> exact .same

theorem commitUnit_steady (u : UnitShadow) (s : State) : Steady s (commitUnit u s) := by
  unfold commitUnit
  split
  · exact .refl s
  · exact .ite (takeQualifying_steady ..) (.ite .same (.refl s))

theorem continueUnit_steady (u : UnitShadow) (offset : Nat) (b : WBeat) (s : State) :
    Steady s (continueUnit u offset b s) := by
  unfold continueUnit
  exact .ite (Steady.trans (t := { s with ca := waitHeader s.ca }) .same (commitUnit_steady ..)) .same

theorem tearUnit_steady (u : UnitShadow) (offset : Nat) (s : State) : Steady s (tearUnit u offset s) := by
  unfold tearUnit
  dsimp only
  split
  · exact .same
  · exact .ite .same .same

theorem takeCaption_steady (s : State) : Steady s (takeCaption s) := by
  have event (c : CaptionBeat) (s : State) : Steady s (captionBeatEvent c s) := by
    unfold captionBeatEvent
    refine .ite (.refl s) ?_
    split
    · exact .ite (continueUnit_steady ..) ((tearUnit_steady ..).trans (takeHeader_steady ..))
    · exact takeHeader_steady ..
  unfold takeCaption
  split
  · exact .refl s
  · exact Steady.trans .same (event _ _)

theorem captionTick_steady (s : State) : Steady s (captionTick s) := by
  unfold captionTick
  refine .ite (.ite ?_ .same) (.refl s)
  unfold beginGap
  split
  · exact .same
  · exact Steady.trans .same (askHold_steady ..)

/-! ### The audio observer -/

theorem abandon_steady (s : State) : Steady s (abandon s) := ⟨rfl, rfl, Nat.le_refl _, by simp, id⟩

theorem descriptorBeatEvent_steady (offset : Nat) (b : WBeat) (s : State) : Steady s (descriptorBeatEvent offset b s) := by
  unfold descriptorBeatEvent
  refine .ite ?_ .same
  exact ⟨rfl, rfl, Nat.le_refl _, by simp [takeDescriptor, clearFilters, offerAudioState], id⟩

theorem breakStream_steady (s : State) : Steady s (breakStream s) := (abandon_steady s).trans .same

theorem advanceFrame_steady (s : State) : Steady s (advanceFrame s) := by
  have frame (s : State) : Steady s (frameAccepted s) := by
    unfold frameAccepted
    split
    · split
      · exact .same (htb := fun h => ⟨h.prescale, h.divisor, by dsimp only; omega, h.cueQ, h.cueRun, h.earlyWindow⟩)
      · exact .same (htb := fun h => ⟨h.prescale, h.divisor, by simp, h.cueQ, h.cueRun, h.earlyWindow⟩)
    · exact .refl s
  unfold advanceFrame
  dsimp only
  refine .ite ?_ .same
  split
  · exact Steady.trans .same (frame _)
  · exact .same

theorem acceptWord_steady (offset : Nat) (data : BitVec 32) (s : State) : Steady s (acceptWord offset data s) := by
  have resume : Steady s (resumeEngine s) := .ite .same .same
  have sample (v : Int) (s : State) : Steady s (acceptSample v s) := by
    unfold acceptSample
    split
    · exact .same
    · exact .ite .same (.refl s)
  exact resume.trans ((sample _ _).trans ((advanceFrame_steady _).trans .same))

theorem sampleWordEvent_steady (offset : Nat) (data : BitVec 32) (enables : BitVec 4) (s : State) :
    Steady s (sampleWordEvent offset data enables s) := by
  have accepted : Steady s (acceptWord offset data (if inPlace offset s.ao then s else breakStream s)) :=
    Steady.trans (.ite (.refl s) (breakStream_steady s)) (acceptWord_steady ..)
  unfold sampleWordEvent
  split
  · exact .refl s
  · exact .refl s
  · exact .ite accepted ((breakStream_steady s).trans .same)
  · exact .ite accepted ((breakStream_steady s).trans .same)

theorem audioItemEvent_steady (i : AudioItem) (s : State) : Steady s (audioItemEvent i s) := by
  cases i with
  | descriptor offset b => exact descriptorBeatEvent_steady offset b s
  | word offset data enables => exact sampleWordEvent_steady offset data enables s

theorem takeItem_steady (mine : AudioItem → Bool) (s : State) : Steady s (takeItem mine s) := by
  unfold takeItem
  split
  · exact .refl s
  · exact .ite (Steady.trans .same (audioItemEvent_steady ..)) (.refl s)

theorem checkCeiling_steady (level : Int) (s : State) : Steady s (checkCeiling level s) := by
  unfold checkCeiling
  split
  · exact .refl s
  · exact .ite (.ite .same (Steady.trans .same (askHold_steady ..))) (.refl s)

theorem momentaryStep_steady (s : State) : Steady s (momentaryStep s) := by
  unfold momentaryStep
  dsimp only
  split
  · exact .ite .same .same
  · exact .same

theorem shortTermStep_steady (s : State) : Steady s (shortTermStep s) := by
  unfold shortTermStep
  dsimp only
  split
  · exact .ite (Steady.trans .same (checkCeiling_steady ..)) .same
  · exact .same

theorem completionTail_steady (b : SubBlock) (s : State) : Steady s (completionTail b s) := by
  have h := fun s => (momentaryStep_steady s).trans ((shortTermStep_steady _).trans (noteShortTerm_steady _))
  exact Steady.trans .same ((h _).trans ((decideActivity_steady ..).trans (gateBlock_steady ..)))

/-- The history never holds more than 30 energies (R63). -/
theorem pushHistory_length (w : Nat) {history : List Nat} (h : history.length ≤ 30) : (pushHistory w history).length ≤ 30 := by
  unfold pushHistory Config.historyDepth
  split <;> simp <;> omega

theorem completeSubBlock_steady (s : State) : Steady s (completeSubBlock s) := by
  unfold completeSubBlock
  split
  · refine .ite (Steady.trans ?_ (completionTail_steady ..)) (.refl s)
    exact ⟨rfl, rfl, Nat.le_refl _, pushHistory_length _, id⟩
  · exact .refl s

theorem observerTick_steady (s : State) : Steady s (observerTick s) := by
  unfold observerTick
  refine .ite (.ite ?_ .same) (.refl s)
  exact Steady.trans (Steady.trans .same (abandon_steady _)) .same

/-! ### Ticks and edges -/

theorem setOwed_steady (o : TickSet) (s : State) : Steady s (setOwed o s) :=
  .same (htb := fun h => ⟨h.prescale, h.divisor, h.residue, h.cueQ, h.cueRun, h.earlyWindow⟩)

theorem takeObserverTick_steady (s : State) : Steady s (takeObserverTick s) :=
  .ite ((setOwed_steady _ s).trans (observerTick_steady _)) (.refl s)

theorem takeActivityTick_steady (s : State) : Steady s (takeActivityTick s) :=
  .ite ((setOwed_steady _ s).trans (activityTick_steady _)) (.refl s)

theorem takeCaptionTick_steady (s : State) : Steady s (takeCaptionTick s) :=
  .ite ((setOwed_steady _ s).trans (captionTick_steady _)) (.refl s)

theorem takeScheduleTick_steady (s : State) : Steady s (takeScheduleTick s) :=
  .ite ((setOwed_steady _ s).trans .same) (.refl s)

theorem takeReportTick_steady (s : State) : Steady s (takeReportTick s) :=
  .ite ((setOwed_steady _ s).trans .same) (.refl s)

theorem takeOwedTicks_steady (s : State) : Steady s (takeOwedTicks s) :=
  (takeObserverTick_steady s).trans ((takeActivityTick_steady _).trans ((takeCaptionTick_steady _).trans
    ((takeScheduleTick_steady _).trans (takeReportTick_steady _))))

theorem takeOffers_steady (s : State) : Steady s (takeOffers s) :=
  (takeOwedTicks_steady s).trans ((takeFiring_steady _).trans (takeCues_steady ..))

theorem forceScans_steady (expired : Option ClosingSlot → Bool) (s : State) : Steady s (forceScans expired s) := by
  have a : Steady s (if expired s.su.slotA then completeScan .a s else s) := .ite (completeScan_steady ..) (.refl s)
  exact .ite (a.trans (completeScan_steady ..)) a

/-- Station time moves on and CUE is sampled with every count in its range (R37, R44, R45). -/
theorem advanceTime_counts (mode : Mode) (cueHigh : Bool) {tb : TimeBase} (h : CountsOk tb) :
    CountsOk (advanceTime mode cueHigh tb) := by
  have compare {tb : TimeBase} (h : CountsOk tb) : CountsOk (testCompare tb) := by
    unfold testCompare
    (repeat' split) <;> exact ⟨h.prescale, h.divisor, h.residue, h.cueQ, h.cueRun, h.earlyWindow⟩
  have sample {tb : TimeBase} (h : CountsOk tb) : CountsOk (sampleCue cueHigh tb) := by
    have hq : 0 < tb.cueQ := h.cueQ.1
    unfold sampleCue
    dsimp only
    split
    · exact ⟨h.prescale, h.divisor, h.residue, h.cueQ, hq, h.earlyWindow⟩
    · split
      · exact ⟨h.prescale, h.divisor, h.residue, h.cueQ, hq, h.earlyWindow⟩
      · split
        · exact ⟨h.prescale, h.divisor, h.residue, h.cueQ, hq, h.earlyWindow⟩
        · exact ⟨h.prescale, h.divisor, h.residue, h.cueQ, by dsimp only; omega, h.earlyWindow⟩
  have next : CountsOk { tb with time := tb.time + 1 } :=
    ⟨h.prescale, h.divisor, h.residue, h.cueQ, h.cueRun, h.earlyWindow⟩
  cases mode with
  | off => exact next
  | live => exact compare (sample next)
  | replay => exact compare next

theorem offerTick_steady (later : TickSet) (s : State) : Steady s (offerTick later s) :=
  (setOwed_steady _ s).trans ((takeOwedTicks_steady _).trans (setOwed_steady _ _))

theorem tickEvent_steady (cueHigh : Bool) (later : TickSet) (s : State) : Steady s (tickEvent cueHigh later s) := by
  have before := (takeOffers_steady s).trans (forceScans_steady tickExpired _)
  exact before.trans (Steady.trans (.same (htb := advanceTime_counts _ cueHigh)) (offerTick_steady later _))

theorem passEdges_steady (n : Nat) (s : State) : Steady s (passEdges n s) := by
  have b : Steady s (if boundsBFirst s.su && edgeExpired n s.su.slotB then completeScan .b s else s) :=
    .ite (completeScan_steady ..) (.refl s)
  exact (b.trans (forceScans_steady ..)).trans .same

/-- A count of edges that stays below the divisor. -/
theorem setPrescale_steady {n : Nat} {s : State} (h : s.tb.prescale < s.tb.divisor → n < s.tb.divisor) :
    Steady s { s with tb := { s.tb with prescale := n } } :=
  .same (htb := fun c => ⟨h c.prescale, c.divisor, c.residue, c.cueQ, c.cueRun, c.earlyWindow⟩)

/-- The tick that the prescaler makes begins its count again (R38). -/
theorem prescaledTick_steady (cueHigh : Bool) (later : TickSet) (s : State) :
    Steady s (tickEvent cueHigh later { s with tb := { s.tb with prescale := 0 } }) :=
  (setPrescale_steady fun h => Nat.zero_lt_of_lt h).trans (tickEvent_steady ..)

theorem edgeEvent_steady (cueHigh : Bool) (later : TickSet) (s : State) : Steady s (edgeEvent cueHigh later s) := by
  refine (passEdges_steady 1 s).trans ?_
  unfold edgeEvent
  dsimp only
  split
  · exact .refl _
  · split
    · exact setPrescale_steady fun _ => by assumption
    · exact prescaledTick_steady ..

theorem takeFrameTick_steady (later : TickSet) (s : State) : Steady s (takeFrameTick later s) := by
  refine .ite (Steady.trans (.same (htb := ?_)) (tickEvent_steady ..)) (.refl s)
  exact fun h => ⟨h.prescale, h.divisor, h.residue, h.cueQ, h.cueRun, h.earlyWindow⟩

theorem tickRow_steady (cueHigh : Bool) (later : TickSet) (s : State) : Steady s (tickRow cueHigh later s) := by
  have edges := passEdges_steady (s.tb.divisor - s.tb.prescale) s
  exact .ite (takeFrameTick_steady later s) (edges.trans (prescaledTick_steady cueHigh later _))

theorem settleWord_steady (s : State) : Steady s (settleWord s) :=
  (completeSubBlock_steady s).trans (takeFrameTick_steady ..)

theorem takeAudio_steady (s : State) : Steady s (takeAudio s) := by
  refine (settleWord_steady s).trans ?_
  unfold takeAudio
  dsimp only
  split
  · exact .refl _
  · exact Steady.trans .same (audioItemEvent_steady ..)

theorem drainOffers_steady (s : State) : Steady s (drainOffers s) :=
  (Steady.repeatStep takeAudio_steady _ s).trans ((settleWord_steady _).trans
    ((Steady.repeatStep takeCaption_steady _ _).trans (takeOffers_steady _)))

/-! ### Changes of mode, entries and requests -/

theorem enterMode_steady (m : Mode) (s : State) : Steady s (enterMode m s) := by
  refine .same (htb := fun h => ⟨?_, h.divisor, by simp [retime], h.cueQ, ?_, h.earlyWindow⟩)
  · have := h.prescale
    simp only [enterMode_tb, retime, unseedCue, clearRun]
    split <;> omega
  · exact h.cueQ.1

theorem startMode_steady (m : Mode) (s : State) : Steady s (startMode m s) :=
  (enterMode_steady m s).trans (Steady.trans .same (openDefault_steady _))

theorem idleObservers_steady (shadow : Vector Beat 8) {caption : Caption → Caption}
    (hc : ∀ ca, (caption ca).windowPresent = ca.windowPresent) (s : State) :
    Steady s (idleObservers shadow caption s) :=
  (abandon_steady s).trans (.same (hca := hc _))

theorem stopMode_steady (s : State) : Steady s (stopMode s) :=
  (enterMode_steady .off s).trans ((closeEntry_steady ..).trans
    ((idleObservers_steady _ (caption := captionForOff) (fun _ => rfl) _).trans (loadCompare_steady ..)))

theorem restartPart_steady (s : State) : Steady s (restartPart s) := by
  have leave (s : State) : Steady s (leaveForOff s) := .ite (.refl s) (enterMode_steady ..)
  refine (closeEntry_steady s.tb.time true s).trans (Steady.trans ?_ ((leave _).trans (loadCompare_steady ..)))
  have clear (s : State) : Steady s { s with su := { s.su with queue := [] } } := ⟨rfl, rfl, Nat.zero_le _, id, id⟩
  refine (clear _).trans ((idleObservers_steady zeroShadow (caption := captionForStart) (fun _ => rfl) _).trans ?_)
  exact ⟨rfl, rfl, Nat.le_refl _, id, id⟩

/-- The entry that a commit queues: LATE_COMMIT when its start has been reached (R116, R118). -/
def queuedEntry (e : Entry) (s : State) : Entry := { e with lateCommit := observing s && reached s.tb.time e.start }

/-- A commit queues its entry, and what follows is steady (R116, R118). -/
theorem commitEntry_steady (e : Entry) (s : State) :
    Steady { s with su := { s.su with queue := s.su.queue ++ [queuedEntry e s] } } (commitEntry e s) := by
  unfold commitEntry
  exact .ite (.ite ((loadCompare_steady ..).trans (openHead_steady ..)) (loadCompare_steady ..)) (.refl _)

theorem takeRequest_steady (r : Request) (s : State) : Steady s (takeRequest r s) := by
  unfold takeRequest
  split
  · refine .same (by simp) ?_ (by simp) ?_ (by simp)
    · simp only [forwardRequest, addTxn_frame, handOver, handControl, handObserver]
      (repeat' split) <;> rfl
    · simp only [forwardRequest, addTxn_frame, handOver, handControl, handObserver]
      (repeat' split) <;> rfl
  · exact .same (by simp) (by simp) (by simp) (by simp) (by simp)
  · unfold presentWrite
    refine .ite ?_ (Steady.trans (.ite (capture_steady ..) (.refl s)) .same)
    exact (Steady.trans (t := chargeBlock _ s) .same (blockRecordWrite_steady r _ _)).trans .same

end Sys2Proof.Machine
end

section
set_option Elab.async false

namespace Sys2Proof.Machine

/-! ### What a row can do to the ports, the windows and the unit in progress -/

/-- What offers and ticks leave of the report unit's place: its ring and its unit in progress (R158, R170). -/
theorem Heard.place {a b : Reports} (h : Heard a b) : b.geometry = a.geometry ∧ b.current = a.current := by
  refine h.keeps (P := fun b => b.geometry = a.geometry ∧ b.current = a.current) ?_ ?_ ⟨rfl, rfl⟩
  · intro r now b hb
    simpa using hb
  · intro b hb
    unfold reportTick
    split <;> exact hb

/-- `t` comes from `s` with the waiting rows, the RESET_N line, the memory path, the ring's place and the unit in progress as
they were, and with what the owners of windows know of them. -/
structure Quiet (s t : State) : Prop where
  pending : t.pending = s.pending
  line : t.resetAsserted = s.resetAsserted
  mp : t.mp = s.mp
  geometry : t.ru.geometry = s.ru.geometry
  current : t.ru.current = s.ru.current
  segments : t.rc.table.length = s.rc.table.length
  caption : t.ca.windowPresent = s.ca.windowPresent

theorem Quiet.refl (s : State) : Quiet s s := ⟨rfl, rfl, rfl, rfl, rfl, rfl, rfl⟩

theorem Quiet.trans {s t u : State} (h : Quiet s t) (h' : Quiet t u) : Quiet s u :=
  ⟨h'.pending.trans h.pending, h'.line.trans h.line, h'.mp.trans h.mp, h'.geometry.trans h.geometry,
    h'.current.trans h.current, h'.segments.trans h.segments, h'.caption.trans h.caption⟩

/-- An event that is steady, makes only offers and ticks, and leaves the memory path alone is quiet. -/
theorem Steady.quiet {s t : State} (h : Steady s t) (heard : Heard s.ru t.ru) (pending : t.pending = s.pending)
    (line : t.resetAsserted = s.resetAsserted) (mp : t.mp = s.mp) : Quiet s t :=
  ⟨pending, line, mp, heard.place.1, heard.place.2, h.segments, h.caption⟩

theorem offer_quiet (r : Report) (s : State) : Quiet s (offer r s) :=
  Steady.quiet .same (offer_heard r .refl) rfl rfl rfl

theorem popItem_quiet (s : State) : Quiet s (popItem s) := ⟨rfl, rfl, rfl, rfl, rfl, rfl, rfl⟩

theorem settleWord_quiet (s : State) : Quiet s (settleWord s) :=
  (settleWord_steady s).quiet (settleWord_heard .refl) (by simp) (by simp) (by simp)

theorem drainOffers_quiet (s : State) : Quiet s (drainOffers s) :=
  (drainOffers_steady s).quiet (drainOffers_heard .refl) (by simp) (by simp) (by simp)

/-- A row whose event is quiet is quiet. -/
theorem running_quiet {event : State → State} {s t : State} (h : running s event = .next t)
    (he : ∀ u, Quiet u (event u)) : Quiet s t :=
  running_keeps h (.refl s) fun _ => (settleWord_quiet s).trans (he _)

/-- A command row is quiet when its owner, if it does not refuse, is. -/
theorem command_quiet {mine : CmdItem → Bool} {owner : Owner} {s t : State} (h : running s (carryOut mine owner) = .next t)
    (ho : ∀ it u v n, owner it u = .ok (v, n) → Quiet u v) : Quiet s t :=
  running_quiet h fun u => carryOut_keeps (.refl u) (popItem_quiet u) (fun r _ h => h.trans (offer_quiet r _))
    fun it _ n _ hu => (popItem_quiet u).trans (ho it _ _ n hu)

/-! ### Owners of commands -/

theorem ownSetMode_quiet {it : CmdItem} {s t : State} {n : Nat} (h : ownSetMode it s = .ok (t, n)) : Quiet s t := by
  obtain ⟨-, m, -, ⟨-, -, rfl⟩ | ⟨-, -, -, rfl⟩⟩ := ownSetMode_ok h
  · exact (drainOffers_quiet s).trans
      ((stopMode_steady _).quiet (stopMode_heard .refl) (by simp) (by simp) (by simp))
  · exact (drainOffers_quiet s).trans
      ((startMode_steady m _).quiet (startMode_heard m .refl) (by simp) (by simp) (by simp))

theorem ownRestart_quiet {it : CmdItem} {s t : State} {n : Nat} (h : ownRestart it s = .ok (t, n)) : Quiet s t := by
  obtain ⟨rfl, -⟩ := ownRestart_ok h
  exact (drainOffers_quiet s).trans
    ((restartPart_steady _).quiet (restartPart_heard .refl) (by simp) (by simp) (by simp))

theorem ownEntry_quiet {it : CmdItem} {s t : State} {n : Nat} (h : ownEntry it s = .ok (t, n)) : Quiet s t := by
  obtain ⟨-, e, -, -, -, -, rfl⟩ := ownEntry_ok h
  have heard : Heard s.ru (commitEntry e s).ru := commitEntry_heard e .refl
  exact ⟨by simp, by simp, by simp, heard.place.1, heard.place.2, (commitEntry_steady e s).segments,
    (commitEntry_steady e s).caption⟩

theorem ownCancelFrom_quiet {it : CmdItem} {s t : State} {n : Nat} (h : ownCancelFrom it s = .ok (t, n)) : Quiet s t := by
  obtain ⟨-, -, rfl⟩ := ownCancelFrom_ok h
  split <;> exact ⟨rfl, rfl, rfl, rfl, rfl, rfl, rfl⟩

theorem ownReplayCue_quiet {it : CmdItem} {s t : State} {n : Nat} (h : ownReplayCue it s = .ok (t, n)) : Quiet s t := by
  obtain ⟨-, -, rfl⟩ := ownReplayCue_ok h
  exact (judgeCue_steady _ s).quiet (judgeCue_heard _ .refl) (by simp) (by simp) (by simp)

/-- An archive command is quiet when what it does to its segment is. -/
theorem archiveCommand_quiet {own : Segment → Owner} (ho : ∀ g it u v n, own g it u = .ok (v, n) → Quiet u v) :
    ∀ it u v n, archiveCommand own it u = .ok (v, n) → Quiet u v := by
  intro it u v n h
  obtain ⟨-, g, -, h⟩ := archiveCommand_ok h
  exact ho g it u v n h

theorem holdOn_quiet (g : Segment) (it : CmdItem) (s t : State) (n : Nat) (h : holdOn g it s = .ok (t, n)) : Quiet s t := by
  obtain ⟨-, ⟨-, -, rfl⟩ | ⟨-, -, rfl⟩⟩ := holdOn_ok h
  · exact (joinReason_steady ..).quiet (joinReason_heard _ _ _ _ .refl) (by simp) (by simp) (by simp)
  · exact (holdClosed_steady ..).quiet (holdClosed_heard _ _ _ _ .refl) (by simp) (by simp) (by simp)

theorem putSegment_quiet (g : Segment) (s : State) : Quiet s (putSegment g s) :=
  (putSegment_steady g s).quiet .refl rfl rfl rfl

theorem releaseOn_quiet (g : Segment) (it : CmdItem) (s t : State) (n : Nat) (h : releaseOn g it s = .ok (t, n)) :
    Quiet s t := by
  obtain ⟨-, -, ⟨-, rfl⟩ | ⟨-, rfl⟩⟩ := releaseOn_ok h
  · exact .refl _
  · exact putSegment_quiet _ s

theorem exportOn_quiet (g : Segment) (it : CmdItem) (s t : State) (n : Nat) (h : exportOn g it s = .ok (t, n)) :
    Quiet s t := by
  obtain ⟨-, ⟨-, rfl⟩ | ⟨-, -, rfl⟩⟩ := exportOn_ok h
  · exact (putSegment_quiet _ s).trans (offer_quiet _ _)
  · exact ⟨rfl, rfl, rfl, rfl, rfl, rfl, rfl⟩

theorem exportDoneOn_quiet (g : Segment) (it : CmdItem) (s t : State) (n : Nat) (h : exportDoneOn g it s = .ok (t, n)) :
    Quiet s t := by
  obtain ⟨-, -, rfl⟩ := exportDoneOn_ok h
  exact putSegment_quiet _ s

/-! ### Rows -/

/-- What a completed row has done, as far as the ports, the windows and the unit in progress see it: one of the rows of the
memory path, the report unit and RESET_N has had its effect on the part with the last word's event settled, or the row was
quiet. -/
inductive RowDone (s : State) : Instr → State → Prop where
  | quiet {c : Instr} {t : State} (h : Quiet s t) : RowDone s c t
  | lineReset : RowDone s .lineReset { State.reset with pending := s.pending, resetAsserted := true }
  | released (straps : BitVec 8) (h : s.resetAsserted = true) : RowDone s (.resetNRelease straps)
      { s with resetAsserted := false, mp := { s.mp with ctlBase := straps.toNat * 67108864 } }
  | request (r : Request) (run : s.resetAsserted = false) (hw : r.wf = true) :
      RowDone s (.passThroughRequest r) (takeRequest r (settleWord s))
  | answer (m : Master) (run : s.resetAsserted = false) : RowDone s (.answerReturn m) (answerReturn m (settleWord s))
  | issue (run : s.resetAsserted = false) :
      RowDone s .memoryPortIssue { settleWord s with mp := arbitrate (settleWord s).mp }
  | completion (id : Nat) (data : List Beat) (t : Txn) (run : s.resetAsserted = false) (ht : issuedTxn id s.mp = some t)
      (hf : completionFits t.req data = true) :
      RowDone s (.memoryPortCompletion id data) (completePass t data (settleWord s))
  | ownOffer (run : s.resetAsserted = false) : RowDone s .ownWriteOffer (offerOwnWrite (settleWord s))
  | ownCompletion (run : s.resetAsserted = false) : RowDone s .ownWriteCompletion (ownWriteCompletion (settleWord s))
  | window (it : CmdItem) (v : State) (run : s.resetAsserted = false)
      (hw : ownWindow it (popItem (settleWord s)) = .ok (v, 0)) : RowDone s .window (offer (doneReport it 0) v)
  | lay (run : s.resetAsserted = false) : RowDone s .layRecord (layRecord (settleWord s))
  | compose (run : s.resetAsserted = false) : RowDone s .statusImageCompose (composeImage (settleWord s))

/-- The row of an event: nothing has happened while RESET_N is asserted, and otherwise the event has. -/
theorem running_rowDone {c : Instr} {event : State → State} {s t : State} (h : running s event = .next t)
    (he : s.resetAsserted = false → RowDone s c (event (settleWord s))) : RowDone s c t :=
  running_keeps h (.quiet (.refl s)) he

theorem window_rowDone {s t : State} (h : execWindow s = .next t) : RowDone s .window t := by
  refine running_rowDone h fun run => ?_
  obtain e | ⟨it, rest, reason, -, -, -, e⟩ | ⟨it, rest, v, n, -, -, ho, e⟩ :=
    carryOut_cases (isKind .window) ownWindow (settleWord s)
  · rw [e]
    exact .quiet (settleWord_quiet s)
  · rw [e]
    exact .quiet ((settleWord_quiet s).trans ((popItem_quiet _).trans (offer_quiet _ _)))
  · rw [e]
    cases (ownWindow_ok ho).1
    exact .window it v run ho

/-- Every completed row is a row of the memory path, the report unit or RESET_N, or quiet. -/
theorem exec_rowDone {c : Instr} {s t : State} (h : exec c s = .next t) : RowDone s c t := by
  cases c with
  | lineReset =>
    cases h
    exact .lineReset
  | resetNRelease straps =>
    cases h
    split
    · exact .released straps ‹_›
    · exact .quiet (.refl s)
  | passThroughRequest r =>
    simp only [exec, execPassThroughRequest] at h
    split at h
    · exact running_rowDone h fun run => .request r run ‹_›
    · cases h
  | answerReturn m => exact running_rowDone (event := answerReturn m) h (.answer m)
  | memoryPortIssue => exact running_rowDone (event := fun s => { s with mp := arbitrate s.mp }) h .issue
  | memoryPortCompletion id data =>
    simp only [exec, execMemoryPortCompletion] at h
    split at h
    · exact .quiet (running_quiet h .refl)
    · split at h
      · exact running_rowDone h fun run => .completion id data _ run ‹_› ‹_›
      · cases h
  | ownWriteOffer => exact running_rowDone h .ownOffer
  | ownWriteCompletion => exact running_rowDone h .ownCompletion
  | controlPageBeat =>
    refine .quiet (running_quiet h fun u => Steady.quiet ?_ (takeControlBeat_heard .refl) (by simp) (by simp) (by simp))
    exact .same (by simp) (by simp) (by simp) (by simp) (by simp)
  | setMode => exact .quiet (command_quiet h fun _ _ _ _ => ownSetMode_quiet)
  | setTime =>
    refine .quiet (command_quiet h fun it u v n ho => ?_)
    obtain ⟨-, -, rfl⟩ := ownSetTime_ok ho
    exact ⟨rfl, rfl, rfl, rfl, rfl, rfl, rfl⟩
  | setPrescale =>
    refine .quiet (command_quiet h fun it u v n ho => ?_)
    obtain ⟨-, -, -, -, rfl⟩ := ownSetPrescale_ok ho
    exact ⟨rfl, rfl, rfl, rfl, rfl, rfl, rfl⟩
  | controlMask =>
    refine .quiet (command_quiet h fun it u v n ho => ?_)
    obtain ⟨-, -, -, rfl⟩ := ownControlMask_ok ho
    exact ⟨rfl, rfl, rfl, rfl, rfl, rfl, rfl⟩
  | readIndex =>
    refine .quiet (command_quiet h fun it u v n ho => ?_)
    obtain ⟨-, g, -, -, -, rfl⟩ := ownReadIndex_ok ho
    exact ⟨rfl, rfl, rfl, rfl, rfl, rfl, rfl⟩
  | flagEnableSet =>
    refine .quiet (command_quiet h fun it u v n ho => ?_)
    obtain ⟨-, rfl⟩ := ownFlagEnableSet_ok ho
    exact ⟨rfl, rfl, rfl, rfl, rfl, rfl, rfl⟩
  | flagEnableClear =>
    refine .quiet (command_quiet h fun it u v n ho => ?_)
    obtain ⟨-, rfl⟩ := ownFlagEnableClear_ok ho
    exact ⟨rfl, rfl, rfl, rfl, rfl, rfl, rfl⟩
  | ackFlags =>
    refine .quiet (command_quiet h fun it u v n ho => ?_)
    obtain ⟨-, rfl⟩ := ownAckFlags_ok ho
    exact ⟨rfl, rfl, rfl, rfl, rfl, rfl, rfl⟩
  | cancelFrom => exact .quiet (command_quiet h fun _ _ _ _ => ownCancelFrom_quiet)
  | replayCue => exact .quiet (command_quiet h fun _ _ _ _ => ownReplayCue_quiet)
  | holdPolicy =>
    refine .quiet (command_quiet h fun it u v n ho => ?_)
    obtain ⟨-, c, -, rfl⟩ := ownHoldPolicy_ok ho
    exact ⟨rfl, rfl, rfl, rfl, rfl, rfl, rfl⟩
  | layoutOverrideSet | layoutOverrideClear =>
    refine .quiet (command_quiet h fun it u v n ho => ?_)
    obtain ⟨-, o, rfl⟩ := ownLayoutOverride_ok ho
    exact ⟨rfl, rfl, rfl, rfl, rfl, rfl, rfl⟩
  | activitySet =>
    refine .quiet (command_quiet h fun it u v n ho => ?_)
    obtain ⟨-, a, b, c, d, rfl⟩ := ownActivitySet_ok ho
    exact ⟨rfl, rfl, rfl, rfl, rfl, rfl, rfl⟩
  | defaultEntryLoudness | defaultEntryCaption | defaultEntryDeadAir =>
    refine .quiet (command_quiet h fun it u v n ho => ?_)
    obtain ⟨-, d, rfl⟩ := ownDefaultEntry_ok ho
    exact ⟨rfl, rfl, rfl, rfl, rfl, rfl, rfl⟩
  | lineForce =>
    refine .quiet (command_quiet h fun it u v n ho => ?_)
    obtain ⟨-, f, -, rfl⟩ := ownLineForce_ok ho
    exact ⟨rfl, rfl, rfl, rfl, rfl, rfl, rfl⟩
  | restart => exact .quiet (command_quiet h fun _ _ _ _ => ownRestart_quiet)
  | hold => exact .quiet (command_quiet h (archiveCommand_quiet holdOn_quiet))
  | releaseHold => exact .quiet (command_quiet h (archiveCommand_quiet releaseOn_quiet))
  | exportRequest => exact .quiet (command_quiet h (archiveCommand_quiet exportOn_quiet))
  | exportDone => exact .quiet (command_quiet h (archiveCommand_quiet exportDoneOn_quiet))
  | cueSet =>
    refine .quiet (command_quiet h fun it u v n ho => ?_)
    obtain ⟨-, -, -, -, rfl⟩ := ownCueSet_ok ho
    exact ⟨rfl, rfl, rfl, rfl, rfl, rfl, rfl⟩
  | window => exact window_rowDone h
  | entry => exact .quiet (command_quiet h fun _ _ _ _ => ownEntry_quiet)
  | filter =>
    refine .quiet (command_quiet h fun it u v n ho => ?_)
    obtain ⟨-, -, -, -, rfl⟩ := ownFilter_ok ho
    exact ⟨rfl, rfl, rfl, rfl, rfl, rfl, rfl⟩
  | tick cueHigh later =>
    cases h
    split
    · exact .quiet (.refl s)
    · refine .quiet (((completeSubBlock_steady s).trans (tickRow_steady ..)).quiet ?_ (by simp) (by simp) (by simp))
      exact tickRow_heard _ _ (completeSubBlock_heard .refl)
  | cue => exact .quiet (running_quiet h fun u => (takeCue_steady u).quiet (takeCue_heard .refl) (by simp) (by simp) (by simp))
  | startCompare =>
    exact .quiet (running_quiet h fun u => (takeFiring_steady u).quiet (takeFiring_heard .refl) (by simp) (by simp) (by simp))
  | stall =>
    exact .quiet (running_quiet h fun u =>
      (takeObserverTick_steady u).quiet (takeObserverTick_heard .refl) (by simp) (by simp) (by simp))
  | deadAir =>
    exact .quiet (running_quiet h fun u =>
      (takeActivityTick_steady u).quiet (takeActivityTick_heard .refl) (by simp) (by simp) (by simp))
  | captionGap =>
    exact .quiet (running_quiet h fun u =>
      (takeCaptionTick_steady u).quiet (takeCaptionTick_heard .refl) (by simp) (by simp) (by simp))
  | imageDue =>
    exact .quiet (running_quiet h fun u =>
      (takeReportTick_steady u).quiet (takeReportTick_heard .refl) (by simp) (by simp) (by simp))
  | descriptorBeat | sampleWord =>
    exact .quiet (running_quiet h fun u => (takeItem_steady _ u).quiet (takeItem_heard _ .refl) (by simp) (by simp) (by simp))
  | subBlockCompletion =>
    cases h
    split
    · exact .quiet (.refl s)
    · exact .quiet ((completeSubBlock_steady s).quiet (completeSubBlock_heard .refl) (by simp) (by simp) (by simp))
  | captionBeat =>
    exact .quiet (running_quiet h fun u => (takeCaption_steady u).quiet (takeCaption_heard .refl) (by simp) (by simp) (by simp))
  | scanCompletion bank =>
    exact .quiet (running_quiet h fun u =>
      (completeScan_steady bank u).quiet (completeScan_heard bank .refl) (by simp) (by simp) (by simp))
  | layRecord => exact running_rowDone h .lay
  | statusImageCompose => exact running_rowDone h .compose
  | refClkEdge cueHigh later =>
    exact .quiet (running_quiet h fun u =>
      (edgeEvent_steady cueHigh later u).quiet (edgeEvent_heard _ _ .refl) (by simp) (by simp) (by simp))

end Sys2Proof.Machine
end

section
set_option Elab.async false

namespace Sys2Proof.Machine

/-! ### The requests in flight (R1, R14 to R16) -/

/-- The invariant of the requests in flight, as the memory path alone shows it. -/
structure PortsFine (mp : MemPath) : Prop where
  rising : (mp.txns.map (·.id)).Pairwise (· < ·)
  fresh : ∀ t ∈ mp.txns, t.id < mp.nextTxn
  ownRising : (mp.ownQueue.map (·.id)).Pairwise (· < ·)
  ownFresh : ∀ w ∈ mp.ownQueue, w.id < mp.nextOwn
  waits : ∀ t ∈ mp.txns, waitsFor mp t = true
  oneHeld : ∀ t ∈ mp.txns, ∀ u ∈ mp.txns, isHeld t = true → isHeld u = true → t.req.master = u.req.master → t = u
  released : ∀ id ∈ mp.released, ∃ t ∈ mp.txns, t.id = id ∧ t.progress = .waiting
  ownThere : mp.ownIssued = true → mp.ownQueue ≠ []

theorem portsOk_iff (s : State) : PortsOk s ↔ PortsFine s.mp :=
  ⟨fun ⟨a, b, c, d, e, f, g, h⟩ => ⟨a, b, c, d, e, f, g, h⟩,
    fun h => ⟨h.rising, h.fresh, h.ownRising, h.ownFresh, h.waits, h.oneHeld, h.released, h.ownThere⟩⟩

/-- The counts, the windows and what the ports show are not part of the invariant. -/
theorem PortsFine.same {a b : MemPath} (h : PortsFine a) (txns : b.txns = a.txns := by rfl)
    (nextTxn : b.nextTxn = a.nextTxn := by rfl) (ownQueue : b.ownQueue = a.ownQueue := by rfl)
    (nextOwn : b.nextOwn = a.nextOwn := by rfl) (released : b.released = a.released := by rfl)
    (ownIssued : b.ownIssued = true → b.ownQueue ≠ []) : PortsFine b where
  rising := txns ▸ h.rising
  fresh := by rw [txns, nextTxn]; exact h.fresh
  ownRising := ownQueue ▸ h.ownRising
  ownFresh := by rw [ownQueue, nextOwn]; exact h.ownFresh
  waits := by rw [txns]; unfold waitsFor; rw [ownQueue]; exact h.waits
  oneHeld := by rw [txns]; exact h.oneHeld
  released := by rw [txns, released]; exact h.released
  ownThere := ownIssued

/-- A number names one request. -/
theorem eq_of_rising {txns : List Txn} (h : (txns.map (·.id)).Pairwise (· < ·)) {t u : Txn} (ht : t ∈ txns) (hu : u ∈ txns)
    (e : t.id = u.id) : t = u :=
  List.inj_on_of_nodup_map (h.imp Nat.ne_of_lt) ht hu e

/-! ### A request is taken -/

/-- A blocked request changes the counts, the report times and the requests in flight alone (R11, R13). -/
theorem blockRequest_mp (index : Option Nat) (reason : BlockReason) (r : Request) (s : State) : ∃ blocked lastReport,
    (blockRequest index reason r s).mp = { s.mp with
      blocked := blocked, lastReport := lastReport
      txns := s.mp.txns ++ [⟨s.mp.nextTxn, r, .answered (blockedAnswer r)⟩], nextTxn := s.mp.nextTxn + 1 } := by
  unfold blockRequest
  cases index with
  | none => exact ⟨_, _, rfl⟩
  | some k =>
    dsimp only
    split <;> exact ⟨_, _, rfl⟩

/-- The progress of a request that joins the requests in flight: forwarded by its judgement, a write that the recorder passes,
or answered already (R1, R10, R11). -/
theorem takeRequest_mp (r : Request) (s : State) : ∃ blocked lastReport p,
    (takeRequest r s).mp = { s.mp with
        blocked := blocked, lastReport := lastReport
        txns := s.mp.txns ++ [⟨s.mp.nextTxn, r, p⟩], nextTxn := s.mp.nextTxn + 1 }
      ∧ (p = forwardProgress s.mp r ∨ (p = .waiting ∧ r.access.isWrite = true) ∨ ∃ a, p = .answered a) := by
  unfold takeRequest
  split
  · exact ⟨s.mp.blocked, s.mp.lastReport, _, by simp [forwardRequest], .inl rfl⟩
  · obtain ⟨blocked, lastReport, e⟩ := blockRequest_mp _ _ r s
    exact ⟨blocked, lastReport, _, e, .inr (.inr ⟨_, rfl⟩)⟩
  · rename_i slot w hj
    have hw : r.access.isWrite = true := by
      unfold judge judgeWindow at hj
      (repeat' split at hj) <;> simp_all
    unfold presentWrite
    dsimp only
    split
    · exact ⟨_, _, _, by rw [addTxn_mp, (blockRecordWrite_frame _ _ _).2.2.1]; rfl, .inr (.inr ⟨_, rfl⟩)⟩
    · exact ⟨s.mp.blocked, s.mp.lastReport, _, by split <;> simp, .inr (.inl ⟨rfl, hw⟩)⟩

/-- A request that waits for queued own writes alone, and is held only where no other read of its master waits, joins the
requests in flight. -/
theorem PortsFine.join {mp : MemPath} (h : PortsFine mp) (r : Request) (p : Progress)
    (waits : waitsFor mp ⟨mp.nextTxn, r, p⟩ = true)
    (held : isHeld ⟨mp.nextTxn, r, p⟩ = true → ∀ u ∈ mp.txns, isHeld u = true → u.req.master ≠ r.master) :
    PortsFine { mp with txns := mp.txns ++ [⟨mp.nextTxn, r, p⟩], nextTxn := mp.nextTxn + 1 } where
  rising := by
    simp only [List.map_append, List.pairwise_append, List.map_cons, List.map_nil, List.mem_singleton, List.mem_map]
    refine ⟨h.rising, List.pairwise_singleton .., ?_⟩
    rintro _ ⟨t, ht, rfl⟩ _ rfl
    exact h.fresh t ht
  fresh := by
    simp only [List.mem_append, List.mem_singleton]
    rintro t (ht | rfl)
    · exact Nat.lt_succ_of_lt (h.fresh t ht)
    · exact Nat.lt_succ_self _
  ownRising := h.ownRising
  ownFresh := h.ownFresh
  waits := by
    simp only [List.mem_append, List.mem_singleton]
    rintro t (ht | rfl)
    · exact h.waits t ht
    · exact waits
  oneHeld := by
    simp only [List.mem_append, List.mem_singleton]
    rintro t (ht | rfl) u (hu | rfl) htH huH e
    · exact h.oneHeld t ht u hu htH huH e
    · exact absurd e (held huH t ht htH)
    · exact absurd e.symm (held htH u hu huH)
    · rfl
  released := by
    intro id hid
    obtain ⟨t, ht, e⟩ := h.released id hid
    exact ⟨t, List.mem_append_left _ ht, e⟩
  ownThere := h.ownThere

/-- A forwarded read waits for queued own writes (R16). -/
theorem forwardProgress_waitsFor (mp : MemPath) (r : Request) (id : Nat) :
    waitsFor mp ⟨id, r, forwardProgress mp r⟩ = true := by
  have queued (on : List Nat) (hne : on ≠ []) (hon : on = (mp.ownQueue.filter (overlapsOwn r)).map (·.id)) :
      (!on.isEmpty && on.all fun id => mp.ownQueue.any (·.id == id)) = true := by
    subst hon
    simp only [Bool.and_eq_true, Bool.not_eq_true', List.isEmpty_eq_false_iff, List.all_eq_true, List.any_eq_true,
      beq_iff_eq, List.mem_map, List.mem_filter]
    refine ⟨hne, ?_⟩
    rintro _ ⟨w, ⟨hw, -⟩, rfl⟩
    exact ⟨w, hw, rfl⟩
  obtain e | ⟨-, on, hne, hon, ⟨e, -⟩ | ⟨e, -⟩⟩ := forwardProgress_cases mp r
  · simp [waitsFor, e]
  · simpa only [waitsFor, e] using queued on hne hon
  · simpa only [waitsFor, e] using queued on hne hon

theorem takeRequest_portsFine (r : Request) {s : State} (h : PortsFine s.mp) : PortsFine (takeRequest r s).mp := by
  obtain ⟨blocked, lastReport, p, e, hp⟩ := takeRequest_mp r s
  have joined : PortsFine { s.mp with txns := s.mp.txns ++ [⟨s.mp.nextTxn, r, p⟩], nextTxn := s.mp.nextTxn + 1 } := by
    rcases hp with rfl | ⟨rfl, -⟩ | ⟨a, rfl⟩
    · refine h.join r _ (forwardProgress_waitsFor ..) fun hh u hu huH => ?_
      obtain e | ⟨-, on, -, -, ⟨-, free⟩ | ⟨e, -⟩⟩ := forwardProgress_cases s.mp r
      · simp [isHeld, e] at hh
      · exact free u hu (awaitsOwn_of_isHeld huH)
      · simp [isHeld, e] at hh
    · exact h.join r _ rfl (by simp [isHeld])
    · exact h.join r _ rfl (by simp [isHeld])
  rw [e]
  exact joined.same (ownIssued := h.ownThere)

/-! ### A request is issued, completed or answered -/

/-- A request after a change of progress: as it was, or with the new progress. -/
theorem mem_setProgress {id : Nat} {p : Progress} {txns : List Txn} {u : Txn} (h : u ∈ setProgress id p txns) :
    (u ∈ txns ∧ u.id ≠ id) ∨ ∃ t ∈ txns, t.id = id ∧ u = { t with progress := p } := by
  simp only [setProgress, List.mem_map] at h
  obtain ⟨t, ht, rfl⟩ := h
  split
  · exact .inr ⟨t, ht, ‹_›, rfl⟩
  · exact .inl ⟨ht, ‹_›⟩

theorem setProgress_ids (id : Nat) (p : Progress) (txns : List Txn) :
    (setProgress id p txns).map (·.id) = txns.map (·.id) := by
  simp only [setProgress, List.map_map]
  refine List.map_congr_left fun t _ => ?_
  simp only [Function.comp]
  split <;> rfl

/-- A request goes on to be issued or answered, and is not among the released reads any more. -/
theorem PortsFine.progress {mp : MemPath} (h : PortsFine mp) {id : Nat} {p : Progress} {released : List Nat}
    (hp : p = .issued ∨ ∃ a, p = .answered a) (hr : ∀ i ∈ released, i ∈ mp.released ∧ i ≠ id) :
    PortsFine { mp with txns := setProgress id p mp.txns, released := released } := by
  have free (t : Txn) : isHeld { t with progress := p } = false ∧ waitsFor mp { t with progress := p } = true := by
    rcases hp with rfl | ⟨a, rfl⟩ <;> exact ⟨rfl, rfl⟩
  refine ⟨by rw [setProgress_ids]; exact h.rising, ?_, h.ownRising, h.ownFresh, ?_, ?_, ?_, h.ownThere⟩
  · intro u hu
    obtain ⟨hu, -⟩ | ⟨t, ht, -, rfl⟩ := mem_setProgress hu
    · exact h.fresh u hu
    · exact h.fresh t ht
  · intro u hu
    obtain ⟨hu, -⟩ | ⟨t, ht, -, rfl⟩ := mem_setProgress hu
    · exact h.waits u hu
    · exact (free t).2
  · intro u hu v hv huH hvH e
    obtain ⟨hu, -⟩ | ⟨t, -, -, rfl⟩ := mem_setProgress hu
    · obtain ⟨hv, -⟩ | ⟨t, -, -, rfl⟩ := mem_setProgress hv
      · exact h.oneHeld u hu v hv huH hvH e
      · exact absurd hvH (by simp [(free t).1])
    · exact absurd huH (by simp [(free t).1])
  · intro i hi
    obtain ⟨hi, ne⟩ := hr i hi
    obtain ⟨t, ht, rfl, e⟩ := h.released i hi
    exact ⟨t, List.mem_map.mpr ⟨t, ht, if_neg ne⟩, rfl, e⟩

theorem arbitrate_portsFine {mp : MemPath} (h : PortsFine mp) : PortsFine (arbitrate mp) := by
  have own {w : OwnWrite} (hw : ownCandidate mp = some w) : PortsFine (issueOwn w mp) := by
    refine h.same (ownIssued := fun _ e => ?_)
    unfold ownCandidate at hw
    split at hw
    · cases hw
    · simp_all [issueOwn]
  have pass (t : Txn) : PortsFine (issuePass t mp) := by
    have := h.progress (id := t.id) (.inl rfl) (released := mp.released.filter (· != t.id)) (by simp)
    exact this.same (ownIssued := h.ownThere)
  unfold arbitrate
  split
  · exact h
  · exact own ‹_›
  · exact pass _
  · split
    · exact pass _
    · exact own ‹_›

theorem issuedTxn_some {id : Nat} {mp : MemPath} {t : Txn} (h : issuedTxn id mp = some t) :
    t ∈ mp.txns ∧ t.id = id ∧ t.progress = .issued := by
  have := List.find?_some h
  simp only [Bool.and_eq_true, beq_iff_eq] at this
  exact ⟨List.mem_of_find?_eq_some h, this.1, this.2⟩

theorem completePass_portsFine {id : Nat} {t : Txn} (data : List Beat) {s : State} (h : PortsFine s.mp)
    (ht : issuedTxn id s.mp = some t) : PortsFine (completePass t data s).mp := by
  obtain ⟨hm, -, issued⟩ := issuedTxn_some ht
  refine h.progress (.inr ⟨_, rfl⟩) fun i hi => ⟨hi, ?_⟩
  rintro rfl
  obtain ⟨u, hu, e, waiting⟩ := h.released _ hi
  rw [eq_of_rising h.rising hu hm e, issued] at waiting
  cases waiting

/-- The answer to a request is returned: the other requests stay in flight (R1). -/
theorem answerReturn_cases (m : Master) (s : State) :
    answerReturn m s = s ∨ ∃ t a, t ∈ s.mp.txns ∧ t.progress = .answered a
      ∧ answerReturn m s = { s with mp := { s.mp with txns := s.mp.txns.filter (·.id != t.id), sysOut := some (m, a) } } := by
  unfold answerReturn
  split
  · exact .inl rfl
  · rename_i t ht
    split
    · exact .inr ⟨t, _, List.mem_of_find?_eq_some ht, ‹_›, rfl⟩
    all_goals exact .inl rfl

theorem answerReturn_portsFine (m : Master) {s : State} (h : PortsFine s.mp) : PortsFine (answerReturn m s).mp := by
  obtain e | ⟨t, a, ht, answered, e⟩ := answerReturn_cases m s
  · rw [e]
    exact h
  rw [e]
  have sub := List.filter_sublist (l := s.mp.txns) (p := (·.id != t.id))
  refine ⟨h.rising.sublist (sub.map _), fun u hu => h.fresh u (sub.subset hu), h.ownRising, h.ownFresh,
    fun u hu => h.waits u (sub.subset hu), fun u hu v hv => h.oneHeld u (sub.subset hu) v (sub.subset hv), ?_, h.ownThere⟩
  intro i hi
  obtain ⟨u, hu, rfl, waiting⟩ := h.released i hi
  refine ⟨u, List.mem_filter.mpr ⟨hu, ?_⟩, rfl, waiting⟩
  simp only [bne_iff_ne, ne_eq]
  intro e
  rw [eq_of_rising h.rising hu ht e, answered] at waiting
  cases waiting

/-! ### Own writes -/

theorem pushOwn_portsFine (b : Burst) {mp : MemPath} (h : PortsFine mp) : PortsFine (pushOwn b mp) where
  rising := h.rising
  fresh := h.fresh
  ownRising := by
    simp only [pushOwn, List.map_append, List.pairwise_append, List.map_cons, List.map_nil, List.mem_singleton, List.mem_map]
    refine ⟨h.ownRising, List.pairwise_singleton .., ?_⟩
    rintro _ ⟨w, hw, rfl⟩ _ rfl
    exact h.ownFresh w hw
  ownFresh := by
    simp only [pushOwn, List.mem_append, List.mem_singleton]
    rintro w (hw | rfl)
    · exact Nat.lt_succ_of_lt (h.ownFresh w hw)
    · exact Nat.lt_succ_self _
  waits := by
    intro t ht
    have := h.waits t ht
    unfold waitsFor at this ⊢
    split <;> simp_all [pushOwn]
  oneHeld := h.oneHeld
  released := h.released
  ownThere := by simp [pushOwn]

/-- The report unit's burst joins the own-write queue while that holds fewer than 8, and otherwise nothing happens (R14). -/
theorem offerOwnWrite_cases (s : State) :
    offerOwnWrite s = s ∨ ∃ u b rest, s.ru.current = some u ∧ u.bursts = b :: rest ∧ s.mp.ownQueue.length < 8
      ∧ offerOwnWrite s = { s with mp := pushOwn b s.mp, ru := burstTaken u rest s.ru } := by
  unfold offerOwnWrite
  split
  · exact .inl rfl
  · split
    · exact .inl rfl
    · split
      · exact .inr ⟨_, _, _, ‹_›, ‹_›, ‹_›, rfl⟩
      · exact .inl rfl

theorem offerOwnWrite_portsFine {s : State} (h : PortsFine s.mp) : PortsFine (offerOwnWrite s).mp := by
  obtain e | ⟨u, b, rest, -, -, -, e⟩ := offerOwnWrite_cases s
  · rw [e]
    exact h
  · rw [e]
    exact pushOwn_portsFine b h

/-- The issued head of the own-write queue completes, if there is one (R14). -/
theorem ownWriteCompletion_cases (s : State) :
    ownWriteCompletion s = s ∨ ∃ w rest, s.mp.ownQueue = w :: rest ∧ s.mp.ownIssued = true
      ∧ ownWriteCompletion s = { s with mp := completeOwn w s.mp } := by
  unfold ownWriteCompletion
  split
  · exact .inl rfl
  · split
    · exact .inr ⟨_, _, ‹_›, ‹_›, rfl⟩
    · exact .inl rfl

/-- The own writes that a read still waits for after the completion of the head are queued behind it. -/
theorem dropHold_waitsFor {mp : MemPath} {w : OwnWrite} {rest : List OwnWrite} (hq : mp.ownQueue = w :: rest) {t : Txn}
    (h : waitsFor mp t = true) : waitsFor (completeOwn w mp) (dropHold w.id t) = true := by
  have queued (on : List Nat) (ne : on.filter (· != w.id) ≠ []) (hall : on.all fun id => mp.ownQueue.any (·.id == id)) :
      (!(on.filter (· != w.id)).isEmpty
        && (on.filter (· != w.id)).all fun id => (completeOwn w mp).ownQueue.any (·.id == id)) = true := by
    simp only [hq, List.any_cons, List.all_eq_true, Bool.or_eq_true, beq_iff_eq] at hall
    simp only [Bool.and_eq_true, Bool.not_eq_true', List.isEmpty_eq_false_iff, List.all_eq_true, List.mem_filter, bne_iff_ne]
    refine ⟨ne, fun id ⟨hid, hne⟩ => ?_⟩
    simpa [completeOwn, hq, Ne.symm hne] using hall id hid
  rcases dropHold_cases w.id t with ⟨free, e⟩ | ⟨on, hp, ⟨-, e⟩ | ⟨ne, -, e⟩ | ⟨ne, -, e⟩⟩
  · rw [e]
    unfold awaitsOwn at free
    unfold waitsFor
    split <;> simp_all
  · rw [e]
    rfl
  · rw [e]
    refine queued on ne ?_
    rcases hp with hp | hp <;> simp_all [waitsFor]
  · rw [e]
    refine queued on ne ?_
    rcases hp with hp | hp <;> simp_all [waitsFor]

theorem completeOwn_portsFine {mp : MemPath} {w : OwnWrite} {rest : List OwnWrite} (hq : mp.ownQueue = w :: rest)
    (h : PortsFine mp) : PortsFine (completeOwn w mp) where
  rising := by
    have e : ((·.id) ∘ dropHold w.id : Txn → Nat) = (·.id) := funext fun t => (dropHold_same w.id t).2.1
    simpa only [completeOwn, List.map_map, e] using h.rising
  fresh := by
    simp only [completeOwn, List.mem_map]
    rintro _ ⟨t, ht, rfl⟩
    rw [(dropHold_same w.id t).2.1]
    exact h.fresh t ht
  ownRising := h.ownRising.sublist ((List.tail_sublist _).map _)
  ownFresh := fun v hv => h.ownFresh v (List.mem_of_mem_tail hv)
  waits := by
    intro u hu
    obtain ⟨t, ht, rfl⟩ := List.mem_map.mp hu
    exact dropHold_waitsFor hq (h.waits t ht)
  oneHeld := by
    intro u hu v hv
    obtain ⟨t, ht, rfl⟩ := List.mem_map.mp hu
    obtain ⟨t', ht', rfl⟩ := List.mem_map.mp hv
    obtain ⟨req, -, -, held, -⟩ := dropHold_same w.id t
    obtain ⟨req', -, -, held', -⟩ := dropHold_same w.id t'
    rw [req, req']
    exact fun a b e => congrArg _ (h.oneHeld t ht t' ht' (held a) (held' b) e)
  released := by
    simp only [completeOwn, List.mem_append, List.mem_map, List.mem_filter]
    rintro i (hi | ⟨t, ⟨ht, hr⟩, rfl⟩)
    · obtain ⟨t, ht, rfl, waiting⟩ := h.released i hi
      exact ⟨t, ⟨t, ht, (dropHold_same w.id t).2.2.2.2 waiting⟩, rfl, waiting⟩
    · exact ⟨_, ⟨t, ht, rfl⟩, (dropHold_same w.id t).2.1, releasedBy_waiting hr⟩
  ownThere := by simp [completeOwn]

theorem ownWriteCompletion_portsFine {s : State} (h : PortsFine s.mp) : PortsFine (ownWriteCompletion s).mp := by
  obtain e | ⟨w, rest, hq, -, e⟩ := ownWriteCompletion_cases s
  · rw [e]
    exact h
  · rw [e]
    exact completeOwn_portsFine hq h

/-! ### Every row -/

/-- A commit of WINDOW leaves the requests in flight (R6). -/
theorem ownWindow_mp {it : CmdItem} {s v : State} (h : ownWindow it s = .ok (v, 0)) : ∃ slots blocked lastReport,
    v.mp = { s.mp with slots := slots, blocked := blocked, lastReport := lastReport } := by
  obtain ⟨-, -, -, -, ⟨-, rfl⟩ | ⟨k, -, -, -, rfl⟩⟩ := ownWindow_ok h
  · exact ⟨_, _, _, by simp only [commitWindow, tellOwners_frame]; rfl⟩
  · exact ⟨_, _, _, by simp only [commitWindow, tellOwners_frame]; rfl⟩

theorem rowDone_portsFine {c : Instr} {s t : State} (h : RowDone s c t) (hs : PortsFine s.mp) : PortsFine t.mp := by
  have settled : PortsFine (settleWord s).mp := by rw [(settleWord_quiet s).mp]; exact hs
  cases h with
  | quiet h => rw [h.mp]; exact hs
  | lineReset => exact ⟨.nil, by simp [State.reset, MemPath.reset], .nil, by simp [State.reset, MemPath.reset],
      by simp [State.reset, MemPath.reset], by simp [State.reset, MemPath.reset], by simp [State.reset, MemPath.reset],
      by simp [State.reset, MemPath.reset]⟩
  | released straps _ => exact hs.same (ownIssued := hs.ownThere)
  | request r _ _ => exact takeRequest_portsFine r settled
  | answer m _ => exact answerReturn_portsFine m settled
  | issue _ => exact arbitrate_portsFine settled
  | completion id data u _ hu _ => exact completePass_portsFine data settled (id := id) (by rw [(settleWord_quiet s).mp]; exact hu)
  | ownOffer _ => exact offerOwnWrite_portsFine settled
  | ownCompletion _ => exact ownWriteCompletion_portsFine settled
  | window it v _ hw =>
    obtain ⟨_, _, _, e⟩ := ownWindow_mp hw
    rw [show (offer (doneReport it 0) v).mp = v.mp from rfl, e]
    exact settled.same (ownIssued := settled.ownThere)
  | lay _ => rw [(layRecord_frame _).2.2.1]; exact settled
  | compose _ => rw [(composeImage_frame _).2.2.1]; exact settled

/-- What completed rows keep, steps keep. -/
theorem step_of_rows {P : State → Prop} {s t : State} (h : step s = .next t) (hs : P s)
    (hp : ∀ rest, P { s with pending := rest })
    (hrow : ∀ c rest, s.pending = c :: rest → P { s with pending := rest } → RowDone { s with pending := rest } c t → P t) :
    P t := by
  unfold step at h
  split at h
  · cases h
    exact hs
  · exact hrow _ _ ‹_› (hp _) (exec_rowDone h)

theorem step_portsOk {s t : State} (hs : PortsOk s) (h : step s = .next t) : PortsOk t :=
  step_of_rows h hs (fun _ => hs) fun _ _ _ h' hr =>
    (portsOk_iff t).mpr (rowDone_portsFine hr ((portsOk_iff _).mp h'))

end Sys2Proof.Machine
end

section
set_option Elab.async false

namespace Sys2Proof.Machine

/-! ### What a WINDOW commit tells each owner (R6) -/

@[simp] theorem commitWindow_mp (slot : Nat) (new : Option Window) (s : State) :
    (commitWindow slot new s).mp = { s.mp with
      slots := s.mp.slots.setIfInBounds slot new
      blocked := s.mp.blocked.setIfInBounds slot 0
      lastReport := s.mp.lastReport.setIfInBounds slot none } := by
  simp only [commitWindow, tellOwners_frame]

/-- The report unit is told of a REPORT window that comes or goes (R160). -/
theorem commitWindow_ru (slot : Nat) (new : Option Window) (s : State) :
    (commitWindow slot new s).ru = if kindChanges .report (windowAt s.mp slot) new then
      reportWindowChanged (newOfKind .report new) s.ru else s.ru := by
  simp only [commitWindow, tellOwners, apply_ite State.ru, audioWindowChanged_frame, ite_self]

/-- The recorder is told of a RECORD window that comes or goes (R136). -/
theorem commitWindow_rc (slot : Nat) (new : Option Window) (s : State) :
    (commitWindow slot new s).rc = if kindChanges .record (windowAt s.mp slot) new then
      recordWindowChanged (newOfKind .record new) else s.rc := by
  simp only [commitWindow, tellOwners, apply_ite State.rc, audioWindowChanged_frame, ite_self]

/-- The caption unit is told of a CAPTION window that comes or goes (R99). -/
theorem commitWindow_ca (slot : Nat) (new : Option Window) (s : State) :
    (commitWindow slot new s).ca = if kindChanges .caption (windowAt s.mp slot) new then
      captionWindowChanged (newOfKind .caption new).isSome s.ca else s.ca := by
  simp only [commitWindow, tellOwners, apply_ite State.ca, audioWindowChanged_frame, ite_self]

/-- The audio observer is told of an AUDIO window that comes or goes (R51). -/
theorem commitWindow_ao (slot : Nat) (new : Option Window) (s : State) :
    (commitWindow slot new s).ao = if kindChanges .audio (windowAt s.mp slot) new then
      (audioWindowChanged s).ao else s.ao := by
  simp only [commitWindow, tellOwners, apply_ite State.ao, ite_self]
  rfl

theorem commitWindow_lu (slot : Nat) (new : Option Window) (s : State) :
    (commitWindow slot new s).lu = if kindChanges .audio (windowAt s.mp slot) new then
      (audioWindowChanged s).lu else s.lu := by
  simp only [commitWindow, tellOwners, apply_ite State.lu, ite_self]
  rfl

theorem commitWindow_ag (slot : Nat) (new : Option Window) (s : State) :
    (commitWindow slot new s).ag = if kindChanges .audio (windowAt s.mp slot) new then
      (audioWindowChanged s).ag else s.ag := by
  simp only [commitWindow, tellOwners, apply_ite State.ag, ite_self]
  rfl

end Sys2Proof.Machine
end

section
set_option Elab.async false

namespace Sys2Proof.Machine

/-! ### The room of the unit in progress, as the report unit alone shows it (R160 to R163) -/

/-- `RingOk` of a report unit. -/
def RingFits (ru : Reports) : Prop :=
  match ru.geometry with
  | none => ru.writeIndex = 0 ∧ ru.readIndex = 0 ∧ ru.current = none
  | some g => ru.writeIndex < g.capacity ∧ ru.readIndex < g.capacity ∧ ∀ u, ru.current = some u → UnitFits g ru u

theorem ringOk_iff (s : State) : RingOk s ↔ RingFits s.ru := Iff.rfl

theorem ringFits_none {ru : Reports} (h : ru.geometry = none) :
    RingFits ru ↔ ru.writeIndex = 0 ∧ ru.readIndex = 0 ∧ ru.current = none := by simp only [RingFits, h]

theorem ringFits_some {ru : Reports} {g : Geometry} (h : ru.geometry = some g) :
    RingFits ru ↔ ru.writeIndex < g.capacity ∧ ru.readIndex < g.capacity ∧ ∀ u, ru.current = some u → UnitFits g ru u := by
  simp only [RingFits, h]

/-- A report unit with the ring, the head record and the unit in progress of another fits as that one does. -/
theorem RingFits.of_head {a b : Reports} (h : RingFits a) (hg : b.geometry = a.geometry) (hw : b.writeIndex = a.writeIndex)
    (hr : b.readIndex = a.readIndex) (hc : b.current = a.current)
    (hq : ∀ q rest, a.queue = q :: rest → ∃ rest', b.queue = q :: rest') : RingFits b := by
  cases hgeo : a.geometry with
  | none =>
    rw [ringFits_none hgeo] at h
    rw [ringFits_none (hg.trans hgeo), hw, hr, hc]
    exact h
  | some g =>
    obtain ⟨h1, h2, h3⟩ := (ringFits_some hgeo).mp h
    rw [ringFits_some (hg.trans hgeo), hw, hr, hc]
    exact ⟨h1, h2, fun u hu => (h3 u hu).of_head hw hr hq⟩

/-- An offer keeps the head record and the ring, and so the room of the unit in progress (R159). -/
theorem takeOffer_ringFits (r : Report) (now : Time) {b : Reports} (h : RingFits b) : RingFits (takeOffer r now b) := by
  refine h.of_head (by simp) (by simp) (by simp) (by simp) fun q rest hq => ?_
  by_cases hl : b.queue.length < 16
  · exact ⟨rest ++ [⟨r, now⟩], by rw [takeOffer_queued r now b hl]; simp [hq]⟩
  · exact ⟨rest, by rw [takeOffer_full r now b (by omega)]; simpa using hq⟩

theorem reportTick_ringFits {b : Reports} (h : RingFits b) : RingFits (reportTick b) := by
  unfold reportTick
  split <;> exact h.of_head rfl rfl rfl rfl fun q rest hq => ⟨rest, hq⟩

theorem Heard.ringFits {a b : Reports} (h : Heard a b) (ha : RingFits a) : RingFits b :=
  h.keeps (P := RingFits) (fun r now _ => takeOffer_ringFits r now) (fun _ => reportTick_ringFits) ha

/-! ### Reads of the whole status image (R171) -/

/-- A read of the whole image that is not yet issued stands as `ImagesMetWhole` has it while no image goes on, no request
joins unissued and no own write joins. -/
theorem ImagesMetWhole.of_fewer {s t : State} (h : ImagesMetWhole s) (hg : t.ru.geometry = s.ru.geometry)
    (hb : imageBegun s.ru = false → imageBegun t.ru = false) (hq : ∀ w ∈ t.mp.ownQueue, w ∈ s.mp.ownQueue)
    (ht : ∀ u ∈ t.mp.txns, unissued u = true → u ∈ s.mp.txns) : ImagesMetWhole t := by
  intro u hu hr hun
  rw [readsImage, hg] at hr
  obtain ⟨begun, waits⟩ := h u (ht u hu hun) hr hun
  exact ⟨hb begun, fun w hw => waits w (hq w hw)⟩

theorem ImagesMetWhole.of_same {s t : State} (h : ImagesMetWhole s) (hg : t.ru.geometry = s.ru.geometry)
    (hc : t.ru.current = s.ru.current) (hm : t.mp = s.mp) : ImagesMetWhole t :=
  h.of_fewer hg (by simp [imageBegun, hc]) (by simp [hm]) (by simp +contextual [hm])

/-- A read of the whole image is a read of 32 beats from the base of the REPORT window. -/
theorem readsImage_iff (ru : Reports) (r : Request) :
    readsImage ru r = true ↔ (∃ g, ru.geometry = some g ∧ g.base = r.addr) ∧ r.access = .read 32 := by
  simp [readsImage, Option.map_eq_some_iff]

/-- A request that is taken while no image goes on meets images whole (R16, R171). -/
theorem takeRequest_imagesMetWhole {r : Request} {s : State} (h : ImagesMetWhole s)
    (order : readsImage s.ru r = true → imageBegun s.ru = false) : ImagesMetWhole (takeRequest r s) := by
  obtain ⟨blocked, lastReport, p, e, hp⟩ := takeRequest_mp r s
  have place := (takeRequest_heard r (.refl (a := s.ru))).place
  have begun : imageBegun (takeRequest r s).ru = imageBegun s.ru := by simp [imageBegun, place.2]
  intro u hu hr hun
  rw [readsImage, place.1] at hr
  rw [begun]
  simp only [e, List.mem_append, List.mem_singleton] at hu ⊢
  obtain hu | rfl := hu
  · exact h u hu hr hun
  refine ⟨order hr, fun w hw meets => ?_⟩
  obtain ⟨-, access⟩ := (readsImage_iff s.ru r).mp hr
  rcases hp with rfl | ⟨-, write⟩ | ⟨a, rfl⟩
  · obtain e | ⟨-, on, -, hon, pos⟩ := forwardProgress_cases s.mp r
    · exfalso
      unfold forwardProgress at e
      have : ((s.mp.ownQueue.filter (overlapsOwn r)).map (·.id)).isEmpty = false := by
        simp only [List.isEmpty_eq_false_iff, ne_eq, List.map_eq_nil_iff, List.filter_eq_nil_iff, not_forall]
        exact ⟨w, hw, fun hn => hn meets⟩
      simp only [access, Access.isWrite, this, Bool.or_self, Bool.false_eq_true, if_false] at e
      split at e <;> cases e
    · refine ⟨on, ?_, ?_⟩
      · rcases pos with ⟨e, -⟩ | ⟨e, -⟩
        · exact .inl e
        · exact .inr e
      · rw [hon]
        exact List.mem_map.mpr ⟨w, List.mem_filter.mpr ⟨hw, meets⟩, rfl⟩
  · rw [access] at write
    cases write
  · cases hun

/-- The arbiter and completions leave no request unissued that was issued or answered. -/
theorem setProgress_imagesMetWhole {s t : State} {id : Nat} {p : Progress} (h : ImagesMetWhole s)
    (hp : p = .issued ∨ ∃ a, p = .answered a) (hru : t.ru = s.ru) (hq : t.mp.ownQueue = s.mp.ownQueue)
    (ht : t.mp.txns = setProgress id p s.mp.txns) : ImagesMetWhole t := by
  refine h.of_fewer (by rw [hru]) (by simp [hru]) (by simp [hq]) fun u hu hun => ?_
  rw [ht] at hu
  obtain ⟨hu, -⟩ | ⟨v, -, -, rfl⟩ := mem_setProgress hu
  · exact hu
  · rcases hp with rfl | ⟨a, rfl⟩ <;> cases hun

/-- The memory port issues an own write, a pass-through request or nothing (R15). -/
theorem arbitrate_cases (mp : MemPath) :
    arbitrate mp = mp ∨ (∃ w, arbitrate mp = issueOwn w mp) ∨ ∃ t, arbitrate mp = issuePass t mp := by
  unfold arbitrate
  split
  · exact .inl rfl
  · exact .inr (.inl ⟨_, rfl⟩)
  · exact .inr (.inr ⟨_, rfl⟩)
  · split
    · exact .inr (.inr ⟨_, rfl⟩)
    · exact .inr (.inl ⟨_, rfl⟩)

theorem issue_imagesMetWhole {s : State} (h : ImagesMetWhole s) : ImagesMetWhole { s with mp := arbitrate s.mp } := by
  obtain e | ⟨w, e⟩ | ⟨t, e⟩ := arbitrate_cases s.mp
  · rw [e]
    exact h
  · rw [e]
    exact h.of_fewer rfl id (fun _ hw => hw) fun _ hu _ => hu
  · rw [e]
    exact setProgress_imagesMetWhole h (.inl rfl) rfl rfl (id := t.id) rfl

/-- A burst of a record lies behind the status image, so a read of the image does not meet it (R160, R161, R171). -/
theorem record_burst_misses_image {s : State} {u : UnitInProgress} {b : Burst} {rest : List Burst} {r : Request} {id : Nat}
    (fits : RingFits s.ru) (hu : s.ru.current = some u) (hb : u.bursts = b :: rest) (him : u.image = false)
    (hr : readsImage s.ru r = true) : overlapsOwn r ⟨id, b.addr, b.beats⟩ = false := by
  obtain ⟨⟨g, hg, base⟩, access⟩ := (readsImage_iff s.ru r).mp hr
  obtain ⟨-, -, hfit⟩ := (ringFits_some hg).mp fits
  obtain ⟨-, -, hrec⟩ := hfit u hu
  obtain ⟨q, more, -, -, -, -, addr⟩ := hrec him
  have := addr 0 b (by simp [hb])
  simp only [overlapsOwn, Bool.and_eq_false_iff, decide_eq_false_iff_not, access, Access.length]
  right
  omega

/-- An own write that is offered in order meets no read of the whole image that is still to be issued (R16, R171). -/
theorem offerOwnWrite_imagesMetWhole {s : State} (fits : RingFits s.ru) (h : ImagesMetWhole s)
    (order : leadingNext s.ru = true → ∀ t ∈ s.mp.txns, readsImage s.ru t.req = true → unissued t = false) :
    ImagesMetWhole (offerOwnWrite s) := by
  obtain e | ⟨u, b, rest, hu, hb, -, e⟩ := offerOwnWrite_cases s
  · rw [e]
    exact h
  rw [e]
  intro t ht hr hun
  rw [readsImage, burstTaken_geometry] at hr
  obtain ⟨begun, waits⟩ := h t ht hr hun
  have him : u.image = false := by
    by_contra image
    rw [Bool.not_eq_false] at image
    rcases Nat.lt_or_ge u.bursts.length 6 with few | six
    · simp [imageBegun, hu, image, hb] at begun
      simp [hb] at few
      omega
    · have := order (by simp [leadingNext, hu, image, six]) t ht hr
      rw [this] at hun
      cases hun
  refine ⟨?_, fun w hw meets => ?_⟩
  · unfold burstTaken
    (repeat' split) <;> simp_all [imageBegun, moveWrite]
  · simp only [pushOwn, List.mem_append, List.mem_singleton] at hw
    obtain hw | rfl := hw
    · exact waits w hw meets
    · rw [record_burst_misses_image fits hu hb him hr] at meets
      cases meets

/-- The completion of an own write takes from what a read waits for that write alone (R16). -/
theorem ownWriteCompletion_imagesMetWhole {s : State} (ports : PortsFine s.mp) (h : ImagesMetWhole s) :
    ImagesMetWhole (ownWriteCompletion s) := by
  obtain e | ⟨w, rest, hq, -, e⟩ := ownWriteCompletion_cases s
  · rw [e]
    exact h
  rw [e]
  intro u hu hr hun
  obtain ⟨t, ht, rfl⟩ := List.mem_map.mp hu
  obtain ⟨req, -, un, -⟩ := dropHold_same w.id t
  rw [un] at hun
  rw [req] at hr ⊢
  obtain ⟨begun, waits⟩ := h t ht hr hun
  refine ⟨begun, fun v hv meets => ?_⟩
  simp only [completeOwn, hq, List.tail_cons] at hv
  obtain ⟨on, pos, mem⟩ := waits v (by rw [hq]; exact List.mem_cons_of_mem _ hv) meets
  have later : w.id < v.id := by
    have := ports.ownRising
    rw [hq, List.map_cons, List.pairwise_cons] at this
    exact this.1 _ (List.mem_map.mpr ⟨v, hv, rfl⟩)
  have left : v.id ∈ on.filter (· != w.id) := List.mem_filter.mpr ⟨mem, by simpa using by omega⟩
  have some_left : (on.filter (· != w.id)).isEmpty = false := List.isEmpty_eq_false_iff.mpr (List.ne_nil_of_mem left)
  refine ⟨_, ?_, left⟩
  rcases pos with pos | pos
  · exact .inl (by simp [dropHold, pos, some_left])
  · exact .inr (by simp [dropHold, pos, some_left])

/-- A WINDOW commit abandons the unit in progress or leaves the report unit alone (R172). -/
theorem ownWindow_imageBegun {it : CmdItem} {s v : State} (h : ownWindow it s = .ok (v, 0)) (none_begun : imageBegun s.ru = false) :
    imageBegun v.ru = false := by
  have commit (slot : Nat) (new : Option Window) : imageBegun (commitWindow slot new s).ru = false := by
    rw [commitWindow_ru]
    split
    · unfold reportWindowChanged abandonUnit
      (repeat' split) <;> simp_all [imageBegun]
    · exact none_begun
  obtain ⟨-, -, -, -, ⟨-, rfl⟩ | ⟨k, -, -, -, rfl⟩⟩ := ownWindow_ok h <;> exact commit _ _

/-- A row that does not break the order of R171, and leaves the REPORT window as it is, keeps reads of the image clear of a
half-offered one. -/
theorem rowDone_imagesMetWhole {c : Instr} {s t : State} (h : RowDone s c t) (ports : PortsFine s.mp) (fits : RingFits s.ru)
    (hs : ImagesMetWhole s) (order : ¬ breaksImageOrder s c) (window : t.ru.geometry = s.ru.geometry) :
    ImagesMetWhole t := by
  have quiet := settleWord_quiet s
  have settled : ImagesMetWhole (settleWord s) := hs.of_same quiet.geometry quiet.current quiet.mp
  have reads (r : Request) : readsImage (settleWord s).ru r = readsImage s.ru r := by simp [readsImage, quiet.geometry]
  have begun : imageBegun (settleWord s).ru = imageBegun s.ru := by simp [imageBegun, quiet.current]
  cases h with
  | quiet h => exact hs.of_same h.geometry h.current h.mp
  | lineReset =>
    intro u hu
    cases hu
  | released straps _ => exact hs.of_fewer rfl id (fun _ hw => hw) fun _ hu _ => hu
  | request r _ _ =>
    refine takeRequest_imagesMetWhole settled fun hr => ?_
    rw [reads] at hr
    rw [begun, ← Bool.not_eq_true]
    exact fun hb => order (.inr ⟨hb, r, rfl, hr⟩)
  | answer m _ =>
    obtain e | ⟨u, a, -, -, e⟩ := answerReturn_cases m (settleWord s)
    · rw [e]
      exact settled
    · rw [e]
      exact settled.of_fewer rfl id (fun _ hw => hw) fun v hv _ => (List.mem_filter.mp hv).1
  | issue _ => exact issue_imagesMetWhole settled
  | completion id data u _ _ _ => exact setProgress_imagesMetWhole settled (.inr ⟨_, rfl⟩) rfl rfl (id := u.id) rfl
  | ownOffer _ =>
    refine offerOwnWrite_imagesMetWhole ((settleWord_heard .refl).ringFits fits) settled fun leading u hu hr => ?_
    rw [reads] at hr
    rw [quiet.mp] at hu
    rw [leadingNext, quiet.current] at leading
    rw [← Bool.not_eq_true]
    exact fun hun => order (.inl ⟨rfl, leading, u, hu, hr, hun⟩)
  | ownCompletion _ => exact ownWriteCompletion_imagesMetWhole (by rw [quiet.mp]; exact ports) settled
  | window it v _ hw =>
    obtain ⟨_, _, _, e⟩ := ownWindow_mp hw
    refine hs.of_fewer window (fun hb => ?_) ?_ ?_
    · have := ownWindow_imageBegun hw (by rw [(popItem_frame _).2.2.2.2.2.2.2.2.2.2, begun]; exact hb)
      rw [imageBegun, (offer_quiet _ v).current]
      exact this
    · rw [(offer_quiet _ v).mp, e, (popItem_quiet _).mp, quiet.mp]
      exact fun _ hw => hw
    · rw [(offer_quiet _ v).mp, e, (popItem_quiet _).mp, quiet.mp]
      exact fun _ hu _ => hu
  | lay _ =>
    refine settled.of_fewer (window.trans quiet.geometry.symm) (fun hb => ?_) (by simp) (by simp +contextual)
    unfold layRecord
    (repeat' split) <;> simp_all [imageBegun, layHead]
  | compose _ =>
    refine settled.of_fewer (window.trans quiet.geometry.symm) (fun hb => ?_) (by simp) (by simp +contextual)
    unfold composeImage
    (repeat' split) <;> simp_all [imageBegun, imageBursts]

/-- An issue leaves the report unit and the own-write queue alone. -/
theorem issue_frame {s t : State} (hr : ready s = true) (h : exec .memoryPortIssue s = .next t) :
    t.ru = s.ru ∧ t.mp.ownQueue = s.mp.ownQueue := by
  have e := running_of_ready (fun s => { s with mp := arbitrate s.mp }) hr
  obtain rfl := Host.Outcome.next.inj (e.symm.trans h)
  obtain e | ⟨w, e⟩ | ⟨t, e⟩ := arbitrate_cases s.mp <;> simp [e, issueOwn, issuePass]

end Sys2Proof.Machine

open Sys2Proof Sys2Proof.Machine in
/-- Settles O57: rows of the memory path keep the requests in flight case by case, and every other row is quiet. -/
theorem stepKeepsPorts : Obligations.StepKeepsPorts := by
  refine ⟨fun s t hs h => step_portsOk hs h, ?_, ?_⟩
  · intro s t ports ring met order h window
    unfold step at h
    split at h
    · cases h
      exact met
    · rename_i c rest hp
      refine rowDone_imagesMetWhole (exec_rowDone h) ((portsOk_iff s).mp ports) ((ringOk_iff s).mp ring) met ?_ window
      exact order c rest hp
  · intro s t i u hr met h hu image waiting _
    obtain ⟨ru, queue⟩ := issue_frame hr h
    obtain ⟨begun, waits⟩ := met u (List.mem_of_getElem? hu) image (by simp [unissued, waiting])
    refine ⟨begun, ru, queue, fun w hw => ?_⟩
    rw [← Bool.not_eq_true]
    intro meets
    obtain ⟨on, pos, -⟩ := waits w hw meets
    simp [waiting] at pos
end

section
set_option Elab.async false

namespace Sys2Proof.Machine

/-! ### The alert latch (R168) -/

/-- `AlertOk` of a report unit. -/
def AlertFits (ru : Reports) : Prop := ru.latch = true → alertCause ru = true

/-- Some flag is set and enabled exactly when one bit of both sets is. -/
theorem alertCause_iff (ru : Reports) :
    alertCause ru = true ↔ ∃ i, ru.flags.getLsbD i = true ∧ ru.enables.getLsbD i = true := by
  simp only [alertCause, bne_iff_ne, ne_eq]
  constructor
  · intro ne
    by_contra none
    refine ne (BitVec.eq_of_getLsbD_eq fun i _ => ?_)
    simp only [not_exists, not_and, Bool.not_eq_true] at none
    simpa [-BitVec.getLsbD_eq_getElem] using none i
  · rintro ⟨i, hf, he⟩ zero
    have := congrArg (·.getLsbD i) zero
    simp [hf, he] at this

theorem Flag.set_getLsbD (f : Flag) : f.set.getLsbD f.code = true := by cases f <;> rfl

/-- A flag that is set keeps the latch to its cause (R168). -/
theorem setFlag_alertFits (f : Flag) {ru : Reports} (h : AlertFits ru) : AlertFits (setFlag f ru) := by
  intro latch
  rw [alertCause_iff]
  simp only [setFlag, Bool.or_eq_true] at latch ⊢
  rcases latch with latch | enabled
  · obtain ⟨i, hf, he⟩ := (alertCause_iff ru).mp (h latch)
    exact ⟨i, by simp [hf], he⟩
  · exact ⟨f.code, by simp [f.set_getLsbD], enabled⟩

theorem settleLatch_alertFits (ru : Reports) : AlertFits (settleLatch ru) := fun latch =>
  (Bool.and_eq_true_iff.mp latch).2

theorem enableFlags_alertFits (set : BitVec 13) {ru : Reports} (h : AlertFits ru) : AlertFits (enableFlags set ru) := by
  intro latch
  obtain ⟨i, hf, he⟩ := (alertCause_iff ru).mp (h latch)
  exact (alertCause_iff _).mpr ⟨i, hf, by simp [enableFlags, he]⟩

theorem dropReport_alertFits (r : Report) {ru : Reports} (h : AlertFits ru) : AlertFits (dropReport r ru) :=
  setFlag_alertFits .reportsLost h

theorem takeOffer_alertFits (r : Report) (now : Time) {ru : Reports} (h : AlertFits ru) : AlertFits (takeOffer r now ru) := by
  have noted : AlertFits (noteOffer r ru) := by
    unfold noteOffer
    split
    · exact setFlag_alertFits _ h
    · exact h
  unfold takeOffer
  dsimp only
  split
  · exact noted
  · exact dropReport_alertFits r noted

/-! ### The report unit's own bounds (R159 to R163, R168, R170) -/

/-- The queue, the tick count, the ring and the latch of a report unit are within their bounds. -/
structure ReportsFine (ru : Reports) : Prop where
  queue : ru.queue.length ≤ 16
  ticks : ru.imageTicks < 100
  ring : RingFits ru
  alert : AlertFits ru

theorem takeOffer_reportsFine (r : Report) (now : Time) {ru : Reports} (h : ReportsFine ru) :
    ReportsFine (takeOffer r now ru) :=
  ⟨takeOffer_length r now ru h.queue, by simpa using h.ticks, takeOffer_ringFits r now h.ring,
    takeOffer_alertFits r now h.alert⟩

theorem reportTick_reportsFine {ru : Reports} (h : ReportsFine ru) : ReportsFine (reportTick ru) := by
  refine ⟨?_, ?_, reportTick_ringFits h.ring, ?_⟩
  · unfold reportTick
    split <;> exact h.queue
  · have := h.ticks
    unfold reportTick imageReaches
    split
    · exact Nat.zero_lt_succ _
    · simp_all
      omega
  · unfold reportTick
    split <;> exact h.alert

theorem Heard.reportsFine {a b : Reports} (h : Heard a b) (ha : ReportsFine a) : ReportsFine b :=
  h.keeps (P := ReportsFine) (fun r now _ => takeOffer_reportsFine r now) (fun _ => reportTick_reportsFine) ha

/-- The read index moves on within the unread positions, so a unit in progress has more room than before (R164). -/
theorem readIndex_reportsFine {ru : Reports} {g : Geometry} {r : Nat} (h : ReportsFine ru) (hg : ru.geometry = some g)
    (hr : r < g.capacity) (behind : unread g.capacity r ru.readIndex ≤ unread g.capacity ru.writeIndex ru.readIndex) :
    ReportsFine { ru with readIndex := r } := by
  refine ⟨h.queue, h.ticks, ?_, h.alert⟩
  obtain ⟨hw, hold, fits⟩ := (ringFits_some hg).mp h.ring
  refine (ringFits_some (ru := { ru with readIndex := r }) hg).mpr ⟨hw, hr, fun u hu => ?_⟩
  obtain ⟨ne, image, record⟩ := fits u hu
  refine ⟨ne, image, fun him => ?_⟩
  obtain ⟨q, rest, hq, room, more⟩ := record him
  refine ⟨q, rest, hq, Nat.lt_of_le_of_lt (Nat.add_le_add_right ?_ _) room, more⟩
  simp only [unread] at behind
  rw [unread_eq hr hold, unread_eq hw hold] at behind
  rw [unread_eq hw hr, unread_eq hw hold]
  split at behind <;> split at behind <;> split <;> omega

/-- The record's own end: its positions are written, and the unit in progress is over (R161, R165). -/
theorem finishRecord_reportsFine {ru : Reports} {g : Geometry} (h : ReportsFine ru) (hg : ru.geometry = some g) :
    ReportsFine (finishRecord ru) := by
  obtain ⟨hw, hr, -⟩ := (ringFits_some hg).mp h.ring
  unfold finishRecord
  split
  · exact ⟨h.queue, h.ticks, (ringFits_some (ru := { ru with current := none }) hg).mpr ⟨hw, hr, by simp⟩, h.alert⟩
  · rename_i q rest hq
    have moved : ReportsFine (moveWrite (positions q.report)
        { ru with queue := rest, current := none, imageDue := ru.imageDue || isOutcome q.report }) := by
      refine ⟨?_, h.ticks, ?_, h.alert⟩
      · have := h.queue
        simp only [hq, List.length_cons] at this
        simp only [moveWrite]
        omega
      · refine (ringFits_some (g := g) (by exact hg)).mpr ⟨?_, hr, by simp [moveWrite]⟩
        simp only [moveWrite, capacityOf, hg, Option.map_some, Option.getD_some]
        exact Nat.mod_lt _ (Nat.zero_lt_of_lt hw)
    dsimp only
    split
    · exact ⟨moved.queue, moved.ticks, moved.ring.of_head rfl rfl rfl rfl fun q rest hq => ⟨rest, hq⟩,
        setFlag_alertFits .ringHigh moved.alert⟩
    · exact moved

/-- A burst taken leaves the write index in the ring, and what is left of the unit with its room (R161, log 20). -/
theorem burstTaken_reportsFine {ru : Reports} {u : UnitInProgress} {b : Burst} {rest : List Burst} (h : ReportsFine ru)
    (hu : ru.current = some u) (hb : u.bursts = b :: rest) : ReportsFine (burstTaken u rest ru) := by
  cases hg : ru.geometry with
  | none => exact absurd hu (by simp [((ringFits_none hg).mp h.ring).2.2])
  | some g =>
    obtain ⟨hw, hr, fits⟩ := (ringFits_some hg).mp h.ring
    have left := burstTaken_unitFits hg hw hr hb (fits u hu)
    have geometry := (burstTaken_geometry u rest ru).trans hg
    unfold burstTaken at left geometry ⊢
    split
    · rename_i lost
      simp only [lost, if_true] at left geometry
      refine ⟨h.queue, h.ticks, (ringFits_some geometry).mpr ⟨?_, hr, left⟩, h.alert⟩
      simp only [moveWrite, capacityOf, hg, Option.map_some, Option.getD_some]
      exact Nat.mod_lt _ (Nat.zero_lt_of_lt hw)
    · rename_i lost
      simp only [lost] at left geometry
      split
      · split
        · exact ⟨h.queue, h.ticks, (ringFits_some (ru := { ru with current := none }) hg).mpr ⟨hw, hr, by simp⟩, h.alert⟩
        · exact finishRecord_reportsFine h hg
      · rename_i more
        simp only [more] at left geometry
        exact ⟨h.queue, h.ticks, (ringFits_some geometry).mpr ⟨hw, hr, left⟩, h.alert⟩

/-- The head of the report queue is dropped for want of room, while no unit is in progress (R162). -/
theorem dropHead_reportsFine {ru : Reports} {q : QueuedReport} {rest : List QueuedReport} (h : ReportsFine ru)
    (idle : ru.current = none) (hq : ru.queue = q :: rest) : ReportsFine (dropReport q.report { ru with queue := rest }) := by
  refine ⟨?_, h.ticks, ?_, dropReport_alertFits _ h.alert⟩
  · have := h.queue
    simp only [hq, List.length_cons] at this
    simp only [dropReport_frame]
    omega
  · have ring := h.ring
    cases hg : ru.geometry with
    | none =>
      rw [ringFits_none hg] at ring
      exact (ringFits_none (by simp)).mpr (by simpa using ring)
    | some g =>
      rw [ringFits_some hg] at ring
      exact (ringFits_some (g := g) (by simp)).mpr ⟨ring.1, ring.2.1, by simp [idle]⟩

theorem layRecord_reportsFine {s : State} (h : ReportsFine s.ru) : ReportsFine (layRecord s).ru := by
  unfold layRecord
  split
  · exact h
  · rename_i free
    have idle : s.ru.current = none := by simp_all
    split
    · exact h
    · rename_i q rest hq
      split
      · rename_i g hg
        split
        · rename_i room
          obtain ⟨hw, hr, -⟩ := (ringFits_some hg).mp h.ring
          exact ⟨h.queue, h.ticks, (ringFits_some (g := g) (by exact hg)).mpr ⟨hw, hr, layHead_unitFits hg hq room⟩, h.alert⟩
        · exact dropHead_reportsFine h idle hq
      · exact dropHead_reportsFine h idle hq

theorem composeImage_reportsFine {s : State} (h : ReportsFine s.ru) : ReportsFine (composeImage s).ru := by
  unfold composeImage
  split
  · rename_i g idle hg
    split
    · obtain ⟨hw, hr, -⟩ := (ringFits_some hg).mp h.ring
      refine ⟨h.queue, Nat.zero_lt_succ _, (ringFits_some (g := g) (by exact hg)).mpr ⟨hw, hr, fun u hu => ?_⟩, h.alert⟩
      obtain rfl := Option.some.inj hu
      exact ⟨by simp [imageBursts], fun _ => rfl, by simp⟩
    · exact h
  · exact h

/-- A REPORT window of at least one page has a ring with positions (R4, R160). -/
theorem geometryOf_capacity {w : Window} (h : 1 ≤ w.pages) : 0 < (geometryOf w).capacity := by
  simp only [geometryOf]
  omega

theorem abandonUnit_reportsFine {ru : Reports} (h : ReportsFine ru) :
    (abandonUnit ru).queue.length ≤ 16 ∧ (abandonUnit ru).imageTicks < 100 ∧ AlertFits (abandonUnit ru)
      ∧ (abandonUnit ru).current = none := by
  unfold abandonUnit
  split
  · exact ⟨h.queue, h.ticks, h.alert, ‹_›⟩
  · split
    · exact ⟨h.queue, h.ticks, h.alert, rfl⟩
    · split
      · exact ⟨h.queue, h.ticks, h.alert, rfl⟩
      · rename_i q rest hq
        have := h.queue
        simp only [hq, List.length_cons] at this
        exact ⟨by simpa using by omega, h.ticks, dropReport_alertFits _ h.alert, rfl⟩

/-- A REPORT window that changes begins an empty ring, without a unit in progress (R160, R172). -/
theorem reportWindowChanged_reportsFine {ru : Reports} (h : ReportsFine ru) {new : Option Window}
    (pages : ∀ w, new = some w → 1 ≤ w.pages) : ReportsFine (reportWindowChanged new ru) := by
  obtain ⟨queue, ticks, alert, idle⟩ := abandonUnit_reportsFine h
  refine ⟨queue, ticks, ?_, alert⟩
  cases new with
  | none => exact (ringFits_none rfl).mpr ⟨rfl, rfl, idle⟩
  | some w =>
    have positive := geometryOf_capacity (pages w rfl)
    refine (ringFits_some (g := geometryOf w) rfl).mpr ⟨positive, positive, fun u hu => ?_⟩
    rw [show (reportWindowChanged (some w) ru).current = none from idle] at hu
    cases hu

/-! ### Every bound of the part -/

/-- The bounds of O59, block by block. -/
structure Bounded (s : State) : Prop where
  commands : s.cu.queue.length ≤ 4
  own : s.mp.ownQueue.length ≤ 8
  entries : s.su.queue.length ≤ 32
  history : s.ao.history.length ≤ 30
  counts : CountsOk s.tb
  reports : ReportsFine s.ru

theorem bounded_iff (s : State) : Bounded s ↔ QueuesOk s ∧ TimeOk s ∧ RingOk s ∧ AlertOk s := by
  constructor
  · intro ⟨commands, own, entries, history, counts, reports⟩
    exact ⟨⟨commands, own, reports.queue, entries, history⟩,
      ⟨counts.prescale, counts.divisor, counts.residue, counts.cueQ.1, counts.cueQ.2, counts.cueRun, counts.earlyWindow,
        reports.ticks⟩, reports.ring, reports.alert⟩
  · rintro ⟨⟨commands, own, queue, entries, history⟩, ⟨prescale, divisor, residue, q1, q2, run, early, ticks⟩, ring, alert⟩
    exact ⟨commands, own, entries, history, ⟨prescale, divisor, residue, ⟨q1, q2⟩, run, early⟩, ⟨queue, ticks, ring, alert⟩⟩

/-- A steady event that makes only offers and ticks keeps every bound. -/
theorem Bounded.steady {s t : State} (h : Bounded s) (st : Steady s t) (heard : Heard s.ru t.ru)
    (commands : t.cu.queue = s.cu.queue) (own : t.mp.ownQueue = s.mp.ownQueue) : Bounded t :=
  ⟨commands ▸ h.commands, own ▸ h.own, st.queue.trans h.entries, st.history h.history, st.counts h.counts,
    heard.reportsFine h.reports⟩

/-- A change of the report unit alone. -/
theorem Bounded.withReports {s : State} (h : Bounded s) {ru : Reports} (hr : ReportsFine ru) : Bounded { s with ru := ru } :=
  ⟨h.commands, h.own, h.entries, h.history, h.counts, hr⟩

theorem reset_bounded (l : List Instr) (b : Bool) : Bounded { State.reset with pending := l, resetAsserted := b } :=
  ⟨Nat.zero_le _, Nat.zero_le _, Nat.zero_le _, Nat.zero_le _, by constructor <;> simp [State.reset, TimeBase.reset],
    ⟨Nat.zero_le _, Nat.zero_lt_succ _, ⟨rfl, rfl, rfl⟩, by intro h; cases h⟩⟩

theorem drainOffers_bounded {s : State} (h : Bounded s) : Bounded (drainOffers s) :=
  h.steady (drainOffers_steady s) (drainOffers_heard .refl) (by simp) (by simp)

theorem takeControlBeat_bounded {s : State} (h : Bounded s) : Bounded (takeControlBeat s) := by
  have form (it : CmdItem) {s : State} (h : s.cu.queue.length ≤ 4) : (formItem it s).cu.queue.length ≤ 4 := by
    unfold formItem Config.commandQueueDepth
    split
    · simpa using by omega
    · exact h
  have shadow (area : CmdKind) (word : Nat) (data : Beat) (cu : CmdUnit) :
      (writeShadow area word data cu).queue = cu.queue := by
    unfold writeShadow
    split <;> rfl
  have event (b : CtlBeat) {s : State} (h : s.cu.queue.length ≤ 4) : (controlBeatEvent b s).cu.queue.length ≤ 4 := by
    unfold controlBeatEvent
    split
    · exact h
    · split
      · exact h
      · split
        · exact form _ h
        · exact h
      · split
        · dsimp only
          split
          · exact form _ (by rw [shadow]; exact h)
          · rw [shadow]
            exact h
        · exact h
  refine ⟨?_, by simpa using h.own, by simpa using h.entries, by simpa using h.history, by simpa using h.counts,
    (takeControlBeat_heard .refl).reportsFine h.reports⟩
  unfold takeControlBeat
  split
  · exact h.commands
  · exact event _ h.commands

theorem takeRequest_bounded {r : Request} {s : State} (h : Bounded s) : Bounded (takeRequest r s) := by
  obtain ⟨_, _, _, mp, -⟩ := takeRequest_mp r s
  refine h.steady (takeRequest_steady r s) (takeRequest_heard r .refl) ?_ (by rw [mp])
  unfold takeRequest
  split
  · simp only [forwardRequest, addTxn_frame, handOver]
    (repeat' split) <;> simp [handControl]
  · simp
  · simp

theorem arbitrate_ownQueue (mp : MemPath) : (arbitrate mp).ownQueue = mp.ownQueue := by
  obtain e | ⟨w, e⟩ | ⟨t, e⟩ := arbitrate_cases mp <;> rw [e] <;> rfl

theorem offerOwnWrite_bounded {s : State} (h : Bounded s) : Bounded (offerOwnWrite s) := by
  obtain e | ⟨u, b, rest, hu, hb, room, e⟩ := offerOwnWrite_cases s
  · rw [e]
    exact h
  · rw [e]
    refine ⟨h.commands, ?_, h.entries, h.history, h.counts, burstTaken_reportsFine h.reports hu hb⟩
    simpa [pushOwn] using by omega

theorem ownWriteCompletion_bounded {s : State} (h : Bounded s) : Bounded (ownWriteCompletion s) := by
  obtain e | ⟨w, rest, hq, -, e⟩ := ownWriteCompletion_cases s
  · rw [e]
    exact h
  · rw [e]
    have := h.own
    refine ⟨h.commands, ?_, h.entries, h.history, h.counts, h.reports⟩
    simp [completeOwn, hq] at this ⊢
    omega

theorem answerReturn_bounded (m : Master) {s : State} (h : Bounded s) : Bounded (answerReturn m s) := by
  obtain e | ⟨t, a, -, -, e⟩ := answerReturn_cases m s <;> rw [e]
  · exact h
  · exact ⟨h.commands, h.own, h.entries, h.history, h.counts, h.reports⟩

theorem commitEntry_bounded {e : Entry} {s : State} (room : s.su.queue.length < 32) (h : Bounded s) :
    Bounded (commitEntry e s) := by
  have queued : Bounded { s with su := { s.su with queue := s.su.queue ++ [queuedEntry e s] } } :=
    ⟨h.commands, h.own, by simpa using by omega, h.history, h.counts, h.reports⟩
  exact queued.steady (commitEntry_steady e s) (commitEntry_heard e .refl) (by simp) (by simp)

/-- A WINDOW commit that passes the checks keeps every bound (R4 to R6, R51, R160). -/
theorem ownWindow_bounded {it : CmdItem} {s v : State} (h : ownWindow it s = .ok (v, 0)) (hs : Bounded s) : Bounded v := by
  have commit (slot : Nat) (new : Option Window) (pages : ∀ w, new = some w → 1 ≤ w.pages) :
      Bounded (commitWindow slot new s) := by
    refine ⟨by simpa using hs.commands, by simpa using hs.own, by simpa using hs.entries, ?_, by simpa using hs.counts, ?_⟩
    · rw [commitWindow_ao]
      split
      · exact Nat.zero_le _
      · exact hs.history
    · rw [commitWindow_ru]
      split
      · refine reportWindowChanged_reportsFine hs.reports fun w hw => pages w ?_
        exact (Option.filter_eq_some_iff.mp hw).1
      · exact hs.reports
  obtain ⟨-, -, -, -, ⟨-, rfl⟩ | ⟨k, -, ok, -, rfl⟩⟩ := ownWindow_ok h
  · exact commit _ _ (by simp)
  · refine commit _ _ fun w hw => ?_
    obtain rfl := Option.some.inj hw
    simp only [descriptorOk, sizeOk, Bool.and_eq_true, decide_eq_true_eq] at ok
    exact ok.1.1.1.1.1.1

theorem keeps_bounded : Keeps Bounded where
  pending _ _ h := ⟨h.commands, h.own, h.entries, h.history, h.counts, h.reports⟩
  lineReset l := reset_bounded l true
  release _ _ _ h := ⟨h.commands, h.own, h.entries, h.history, h.counts, h.reports⟩
  complete s h := h.steady (completeSubBlock_steady s) (completeSubBlock_heard .refl) (by simp) (by simp)
  frameTick s _ h := h.steady (takeFrameTick_steady _ s) (takeFrameTick_heard _ .refl) (by simp) (by simp)
  request _ _ _ h := takeRequest_bounded h
  answer _ m h := answerReturn_bounded m h
  issue s h := ⟨h.commands, by rw [arbitrate_ownQueue]; exact h.own, h.entries, h.history, h.counts, h.reports⟩
  completion _ _ _ _ _ _ h := ⟨h.commands, h.own, h.entries, h.history, h.counts, h.reports⟩
  ownOffer _ h := offerOwnWrite_bounded h
  ownCompletion _ h := ownWriteCompletion_bounded h
  beat _ h := takeControlBeat_bounded h
  pop s h := ⟨by have := h.commands; simp; omega, h.own, h.entries, h.history, h.counts, h.reports⟩
  offer s r h := h.steady .same (offer_heard r .refl) rfl rfl
  drain _ h := drainOffers_bounded h
  stop s _ h := (drainOffers_bounded h).steady (stopMode_steady _) (stopMode_heard .refl) (by simp [stopMode]) (by simp)
  start s m _ _ _ h :=
    (drainOffers_bounded h).steady (startMode_steady m _) (startMode_heard m .refl) (by simp [startMode]) (by simp)
  restart s h := by
    refine (drainOffers_bounded h).steady (restartPart_steady _) (restartPart_heard .refl) ?_ (by simp)
    simp only [restartPart, leaveForOff]
    split <;> simp
  controlMask _ _ h := ⟨h.commands, h.own, h.entries, h.history, h.counts, h.reports⟩
  setTime _ _ _ h := ⟨h.commands, h.own, h.entries, h.history,
    { h.counts with prescale := Nat.zero_lt_of_lt h.counts.prescale }, h.reports⟩
  setPrescale _ _ _ h1 h2 h := ⟨h.commands, h.own, h.entries, h.history,
    { h.counts with prescale := h1, divisor := h2 }, h.reports⟩
  cueSet _ _ _ h1 h2 h3 h := ⟨h.commands, h.own, h.entries, h.history,
    { h.counts with cueQ := ⟨h1, h2⟩, cueRun := h1, earlyWindow := h3 }, h.reports⟩
  lineForce _ _ h := ⟨h.commands, h.own, h.entries, h.history, { h.counts with }, h.reports⟩
  readIndex _ _ _ hg hr hu h := h.withReports (readIndex_reportsFine h.reports hg hr hu)
  enable _ set h := h.withReports ⟨h.reports.queue, h.reports.ticks,
    h.reports.ring.of_head rfl rfl rfl rfl fun _ rest hq => ⟨rest, hq⟩, enableFlags_alertFits set h.reports.alert⟩
  disable _ _ h := h.withReports ⟨h.reports.queue, h.reports.ticks,
    h.reports.ring.of_head rfl rfl rfl rfl fun _ rest hq => ⟨rest, hq⟩, settleLatch_alertFits _⟩
  acknowledge _ _ h := h.withReports ⟨h.reports.queue, h.reports.ticks,
    h.reports.ring.of_head rfl rfl rfl rfl fun _ rest hq => ⟨rest, hq⟩, settleLatch_alertFits _⟩
  entry _ _ _ _ _ room _ h := commitEntry_bounded room h
  cancel s id h := by
    have shorter : (aheadOf id s.su.queue).length ≤ s.su.queue.length := (List.takeWhile_sublist _).length_le
    have cut : Bounded { s with su := { s.su with queue := aheadOf id s.su.queue } } :=
      ⟨h.commands, h.own, shorter.trans h.entries, h.history, h.counts, h.reports⟩
    split
    · exact cut.steady (loadCompare_steady none _) .refl rfl rfl
    · exact cut
  judgeCue s t _ h := h.steady (judgeCue_steady t s) (judgeCue_heard t .refl) (by simp) (by simp)
  policy _ _ h := ⟨h.commands, h.own, h.entries, h.history, h.counts, h.reports⟩
  defaults _ _ h := ⟨h.commands, h.own, h.entries, h.history, h.counts, h.reports⟩
  overrides _ _ h := ⟨h.commands, h.own, h.entries, h.history, h.counts, h.reports⟩
  filter _ _ _ _ _ _ _ h := ⟨h.commands, h.own, h.entries, h.history, h.counts, h.reports⟩
  activitySet _ _ _ _ _ h := ⟨h.commands, h.own, h.entries, h.history, h.counts, h.reports⟩
  hold s g _ it s' _ ho h := by
    obtain ⟨-, ⟨-, -, rfl⟩ | ⟨-, -, rfl⟩⟩ := holdOn_ok ho
    · exact h.steady (joinReason_steady ..) (joinReason_heard _ _ _ _ .refl) (by simp) (by simp)
    · exact h.steady (holdClosed_steady ..) (holdClosed_heard _ _ _ _ .refl) (by simp) (by simp)
  release_ s g _ it s' _ ho h := by
    obtain ⟨-, -, ⟨-, rfl⟩ | ⟨-, rfl⟩⟩ := releaseOn_ok ho
    · exact h
    · exact h.steady (putSegment_steady _ s) .refl rfl rfl
  export_ s g _ it s' _ ho h := by
    obtain ⟨-, ⟨-, rfl⟩ | ⟨-, -, rfl⟩⟩ := exportOn_ok ho
    · exact h.steady ((putSegment_steady _ s).trans .same) (grantExport_heard g it .refl) rfl rfl
    · exact ⟨h.commands, h.own, h.entries, h.history, h.counts, h.reports⟩
  exportDone s g _ it s' _ ho h := by
    obtain ⟨-, -, rfl⟩ := exportDoneOn_ok ho
    exact h.steady (putSegment_steady _ s) .refl rfl rfl
  window _ _ _ ho h := ownWindow_bounded ho h
  tick s _ _ h := h.steady (tickRow_steady _ _ s) (tickRow_heard _ _ .refl) (by simp) (by simp)
  edge s _ _ h := h.steady (edgeEvent_steady _ _ s) (edgeEvent_heard _ _ .refl) (by simp) (by simp)
  cue s h := h.steady (takeCue_steady s) (takeCue_heard .refl) (by simp) (by simp)
  firing s h := h.steady (takeFiring_steady s) (takeFiring_heard .refl) (by simp) (by simp)
  observerTick s h := h.steady (takeObserverTick_steady s) (takeObserverTick_heard .refl) (by simp) (by simp)
  activityTick s h := h.steady (takeActivityTick_steady s) (takeActivityTick_heard .refl) (by simp) (by simp)
  captionTick s h := h.steady (takeCaptionTick_steady s) (takeCaptionTick_heard .refl) (by simp) (by simp)
  reportTick s h := h.steady (takeReportTick_steady s) (takeReportTick_heard .refl) (by simp) (by simp)
  item s mine h := h.steady (takeItem_steady mine s) (takeItem_heard mine .refl) (by simp) (by simp)
  captionBeat s h := h.steady (takeCaption_steady s) (takeCaption_heard .refl) (by simp) (by simp)
  scan s bank h := h.steady (completeScan_steady bank s) (completeScan_heard bank .refl) (by simp) (by simp)
  lay s h := ⟨by simpa using h.commands, by simpa using h.own, by simpa using h.entries, by simpa using h.history,
    by simpa using h.counts, layRecord_reportsFine h.reports⟩
  compose s h := ⟨by simpa using h.commands, by simpa using h.own, by simpa using h.entries, by simpa using h.history,
    by simpa using h.counts, composeImage_reportsFine h.reports⟩

end Sys2Proof.Machine

open Sys2Proof Sys2Proof.Machine in
/-- Settles O59: every event keeps the bounds, block by block. -/
theorem stepKeepsBounds : Obligations.StepKeepsBounds := fun s t queues time ring alert h =>
  (bounded_iff t).mp (keeps_bounded.step h ((bounded_iff s).mpr ⟨queues, time, ring, alert⟩))
end

section
set_option Elab.async false

namespace Sys2Proof.Machine

/-! ### The slots and their windows (R3) -/

/-- A window stands in one of the eight slots. -/
theorem windowAt_lt {mp : MemPath} {k : Nat} {w : Window} (h : windowAt mp k = some w) : k < 8 := by
  by_contra far
  simp [windowAt, Vector.getElem?_eq_none (Nat.le_of_not_lt far)] at h

/-- What the slots hold after one is replaced (R6). -/
theorem windowAt_commit (mp : MemPath) {slot : Nat} (new : Option Window) (h : slot < 8) (k : Nat) :
    (((mp.slots.setIfInBounds slot new)[k]?).getD none) = if k = slot then new else windowAt mp k := by
  unfold windowAt
  rw [Vector.getElem?_setIfInBounds]
  split
  · rename_i e
    subst e
    simp
  · rename_i e
    rw [if_neg (Ne.symm e)]

theorem commitWindow_windowAt (s : State) {slot : Nat} (new : Option Window) (h : slot < 8) (k : Nat) :
    windowAt (commitWindow slot new s).mp k = if k = slot then new else windowAt s.mp k := by
  rw [commitWindow_mp]
  exact windowAt_commit s.mp new h k

theorem mem_otherWindows {mp : MemPath} {slot : Nat} {o : Window} :
    o ∈ otherWindows mp slot ↔ ∃ j, j < 8 ∧ j ≠ slot ∧ windowAt mp j = some o := by
  simp [otherWindows, and_assoc]

/-- The window of a kind stands in a slot. -/
theorem windowOf_some {k : WindowKind} {mp : MemPath} {w : Window} (h : windowOf k mp = some w) :
    ∃ j, windowAt mp j = some w ∧ w.kind = k := by
  obtain ⟨x, hx, e⟩ := List.exists_of_findSome?_eq_some h
  obtain ⟨v, rfl, hv⟩ := Option.bind_eq_some_iff.mp e
  split at hv
  · obtain rfl := Option.some.inj hv
    obtain ⟨j, hj⟩ := List.mem_iff_getElem?.mp hx
    rw [Vector.getElem?_toList] at hj
    exact ⟨j, by simp [windowAt, hj], ‹_›⟩
  · cases hv

theorem windowOf_none {k : WindowKind} {mp : MemPath} :
    windowOf k mp = none ↔ ∀ j v, windowAt mp j = some v → v.kind ≠ k := by
  constructor
  · intro h j v hv hk
    have hj := windowAt_lt hv
    rw [windowAt, Vector.getElem?_eq_getElem hj, Option.getD_some] at hv
    have := List.findSome?_eq_none_iff.mp h mp.slots[j] (by simp)
    simp [hv, hk] at this
  · intro h
    cases e : windowOf k mp with
    | none => rfl
    | some w =>
      obtain ⟨j, hj, hk⟩ := windowOf_some e
      exact absurd hk (h j w hj)

/-- The window of a kind that one slot alone holds. -/
theorem windowOf_unique {k : WindowKind} {mp : MemPath} {j : Nat} {w : Window} (hw : windowAt mp j = some w) (hk : w.kind = k)
    (only : ∀ i v, windowAt mp i = some v → v.kind = k → v = w) : windowOf k mp = some w := by
  cases e : windowOf k mp with
  | none => exact absurd hk (windowOf_none.mp e j w hw)
  | some v =>
    obtain ⟨i, hi, hk⟩ := windowOf_some e
    rw [only i v hi hk]

/-- A kind changes in a commit exactly when the old or the new window is of it (R6). -/
theorem kindChanges_iff {k : WindowKind} {old new : Option Window} :
    kindChanges k old new = true ↔ (∃ v, old = some v ∧ v.kind = k) ∨ ∃ v, new = some v ∧ v.kind = k := by
  simp only [kindChanges, List.any_eq_true, List.mem_append, Option.mem_toList, beq_iff_eq, or_and_right, exists_or]

/-- The slots of a state in which only GUARD windows share a kind. -/
def KindsApart (mp : MemPath) : Prop :=
  ∀ i j v w, windowAt mp i = some v → windowAt mp j = some w → v.kind = w.kind → v.kind ≠ .guard → i = j

/-- The window of a kind after a commit (R4, R6). -/
theorem commitWindow_windowOf {s : State} {slot : Nat} {new : Option Window} (h : slot < 8) {k : WindowKind}
    (hk : k ≠ .guard) (apart : KindsApart s.mp)
    (free : ∀ w, new = some w → w.kind = k → ∀ j v, j ≠ slot → windowAt s.mp j = some v → v.kind ≠ k) :
    windowOf k (commitWindow slot new s).mp
      = if kindChanges k (windowAt s.mp slot) new then newOfKind k new else windowOf k s.mp := by
  have holds := commitWindow_windowAt s new h
  split
  · rename_i change
    by_cases hn : ∃ w, new = some w ∧ w.kind = k
    · obtain ⟨w, rfl, kind⟩ := hn
      rw [newOfKind, Option.filter_some_pos (by simpa using kind)]
      refine windowOf_unique (j := slot) (by rw [holds, if_pos rfl]) kind fun i v hv hvk => ?_
      rw [holds] at hv
      split at hv
      · exact (Option.some.inj hv).symm
      · exact absurd hvk (free w rfl kind i v ‹_› hv)
    · have none_new : newOfKind k new = none := Option.filter_eq_none_iff.mpr fun w hw => by
        simpa using fun kind => hn ⟨w, hw, kind⟩
      rw [none_new, windowOf_none]
      intro j v hv hvk
      rw [holds] at hv
      split at hv
      · exact hn ⟨v, hv, hvk⟩
      · rcases kindChanges_iff.mp change with ⟨o, ho, hok⟩ | ⟨w, hw⟩
        · exact absurd (apart j slot v o hv ho (hvk.trans hok.symm) (hvk ▸ hk)) ‹_›
        · exact hn ⟨w, hw⟩
  · rename_i same
    rw [kindChanges_iff, not_or] at same
    obtain ⟨no_old, no_new⟩ := same
    have held (j : Nat) (v : Window) (hvk : v.kind = k) :
        windowAt (commitWindow slot new s).mp j = some v ↔ windowAt s.mp j = some v := by
      rw [holds]
      split
      · rename_i e
        subst e
        exact ⟨fun hv => absurd ⟨v, hv, hvk⟩ no_new, fun hv => absurd ⟨v, hv, hvk⟩ no_old⟩
      · rfl
    cases e : windowOf k s.mp with
    | none => exact windowOf_none.mpr fun j v hv hvk => windowOf_none.mp e j v ((held j v hvk).mp hv) hvk
    | some w =>
      obtain ⟨j, hj, kind⟩ := windowOf_some e
      refine windowOf_unique ((held j w kind).mpr hj) kind fun i v hv hvk => ?_
      have hv := (held i v hvk).mp hv
      have := apart i j v w hv hj (hvk.trans kind.symm) (hvk ▸ hk)
      subst this
      exact Option.some.inj (hv.symm.trans hj)

/-! ### A well-formed descriptor, installed (R4, R5) -/

/-- A staged descriptor that is well formed is installed well formed (R4). -/
theorem installed_ok {k : WindowKind} {w : StagedWindow} {mp : MemPath} (h : descriptorOk k w mp = true) :
    (installed k w).ok = true := by
  simp only [descriptorOk, sizeOk, masksOk, Bool.and_eq_true, decide_eq_true_eq, Bool.not_eq_true'] at h
  obtain ⟨⟨⟨⟨⟨⟨pages, most⟩, fits⟩, feeding⟩, ⟨⟨write, read⟩, archive⟩⟩, size⟩, -⟩ := h
  have zero : namesMaster15 0 = false := rfl
  have fits : (w.basePage + w.pages) * 4096 ≤ 68719476736 := fits
  cases k <;> simp_all [Window.ok, installed, Window.stop, feedingOk, kindSizeOk]

/-- An installed descriptor that meets no other window and not the control page is apart from them (R4, R5). -/
theorem installed_apart {k : WindowKind} {w : StagedWindow} {mp : MemPath} (h : descriptorOk k w mp = true)
    (overlap : overlapsOther w mp = false) :
    (installed k w).offPage mp = true
      ∧ ∀ o ∈ otherWindows mp w.slot, (installed k w).apart o = true ∧ o.apart (installed k w) = true := by
  simp only [overlapsOther, Bool.or_eq_false_iff, List.any_eq_false, Bool.not_eq_true] at overlap
  obtain ⟨page, others⟩ := overlap
  simp only [descriptorOk, kindFree, Bool.and_eq_true, Bool.or_eq_true, List.all_eq_true] at h
  refine ⟨by simpa [Window.offPage, Window.base, Window.stop, installed] using page, fun o ho => ?_⟩
  have meet := others o ho
  have kinds : k ≠ o.kind ∨ k = .guard := by
    rcases h.2 with guard | free
    · exact .inr (by simpa using guard)
    · exact .inl (Ne.symm (by simpa using free o ho))
  have back : rangesMeet o.base o.stop (installed k w).base (installed k w).stop = false := by
    rw [rangesMeet, Bool.and_comm]
    exact meet
  constructor
  · simp only [Window.apart, Bool.and_eq_true, Bool.or_eq_true, bne_iff_ne, beq_iff_eq]
    exact ⟨by simpa [Window.base, Window.stop, installed] using meet, kinds⟩
  · simp only [Window.apart, back, Bool.and_eq_true, Bool.or_eq_true, bne_iff_ne, beq_iff_eq]
    refine ⟨rfl, ?_⟩
    rcases kinds with ne | guard
    · exact .inl (Ne.symm ne)
    · by_cases e : o.kind = k
      · exact .inr (e.trans guard)
      · exact .inl e

/-! ### The window table and its owners, kept -/

/-- `t` shows the window table and its owners' knowledge of it as `s` does. -/
structure SameWindows (s t : State) : Prop where
  line : t.resetAsserted = s.resetAsserted
  slots : t.mp.slots = s.mp.slots
  page : t.mp.ctlBase = s.mp.ctlBase
  geometry : t.ru.geometry = s.ru.geometry
  segments : t.rc.table.length = s.rc.table.length
  caption : t.ca.windowPresent = s.ca.windowPresent

theorem SameWindows.windowsOk {s t : State} (h : SameWindows s t) (hs : WindowsOk s) : WindowsOk t := by
  have same : windowAt t.mp = windowAt s.mp := by
    funext k
    simp [windowAt, h.slots]
  unfold WindowsOk Window.offPage
  rw [same, h.page, h.line]
  exact hs

theorem SameWindows.ownersAgree {s t : State} (h : SameWindows s t) (hs : OwnersAgree s) : OwnersAgree t := by
  have same (k : WindowKind) : windowOf k t.mp = windowOf k s.mp := by simp [windowOf, h.slots]
  unfold OwnersAgree
  rw [same, same, same, h.segments, h.geometry, h.caption]
  exact hs

theorem Quiet.sameWindows {s t : State} (h : Quiet s t) : SameWindows s t :=
  ⟨h.line, by rw [h.mp], by rw [h.mp], h.geometry, h.segments, h.caption⟩

theorem WindowsOk.kindsApart {s : State} (h : WindowsOk s) : KindsApart s.mp := by
  intro i j v w hv hw kind guard
  by_contra ne
  have := h.2.1 i j v w ne hv hw
  simp_all [Window.apart]

/-- A commit that passes the checks leaves the windows well formed and apart (R4 to R6). -/
theorem commitWindow_windowsOk {s : State} {slot : Nat} {new : Option Window} (hs : WindowsOk s)
    (line : s.resetAsserted = false) (h : slot < 8) (ok : ∀ w, new = some w → w.ok = true ∧ w.offPage s.mp = true
      ∧ ∀ o ∈ otherWindows s.mp slot, w.apart o = true ∧ o.apart w = true) : WindowsOk (commitWindow slot new s) := by
  obtain ⟨wf, apart, -⟩ := hs
  have holds := commitWindow_windowAt s new h
  have off (w : Window) : w.offPage (commitWindow slot new s).mp = w.offPage s.mp := by rw [commitWindow_mp]; rfl
  have other {j : Nat} {v : Window} (ne : j ≠ slot) (hv : windowAt s.mp j = some v) : v ∈ otherWindows s.mp slot :=
    mem_otherWindows.mpr ⟨j, windowAt_lt hv, ne, hv⟩
  refine ⟨fun k w hw => ?_, fun j k v w ne hv hw => ?_, fun asserted => ?_⟩
  · rw [off]
    rw [holds] at hw
    split at hw
    · exact ⟨(ok w hw).1, (ok w hw).2.1⟩
    · exact wf k w hw
  · rw [holds] at hv hw
    split at hv
    · rename_i e
      subst e
      rw [if_neg (Ne.symm ne)] at hw
      exact ((ok v hv).2.2 w (other (Ne.symm ne) hw)).1
    · split at hw
      · rename_i e
        subst e
        exact ((ok w hw).2.2 v (other ne hv)).2
      · exact apart j k v w ne hv hw
  · rw [(commitWindow_frame slot new s).2.1, line] at asserted
    cases asserted

/-- A commit tells the owners what the slots hold then (R6, R99, R136, R160). -/
theorem commitWindow_ownersAgree {s : State} {slot : Nat} {new : Option Window} (apart : KindsApart s.mp) (hs : OwnersAgree s)
    (h : slot < 8) (free : ∀ w, new = some w → w.kind ≠ .guard → ∀ o ∈ otherWindows s.mp slot, o.kind ≠ w.kind) :
    OwnersAgree (commitWindow slot new s) := by
  obtain ⟨segments, geometry, caption⟩ := hs
  have window {k : WindowKind} (hk : k ≠ .guard) := commitWindow_windowOf (new := new) h hk apart fun w hw kind j v ne hv =>
    kind ▸ free w hw (kind ▸ hk) v (mem_otherWindows.mpr ⟨j, windowAt_lt hv, ne, hv⟩)
  refine ⟨?_, ?_, ?_⟩
  · rw [window (k := .record) (by simp), commitWindow_rc]
    split
    · cases newOfKind .record new <;> simp [recordWindowChanged, newTable]
    · exact segments
  · rw [window (k := .report) (by simp), commitWindow_ru]
    split
    · rfl
    · exact geometry
  · rw [window (k := .caption) (by simp), commitWindow_ca]
    split
    · rfl
    · exact caption

theorem ownWindow_windows {it : CmdItem} {s v : State} (h : ownWindow it s = .ok (v, 0)) (line : s.resetAsserted = false)
    (hw : WindowsOk s) (ho : OwnersAgree s) : WindowsOk v ∧ OwnersAgree v := by
  obtain ⟨-, slot, -, -, ⟨-, rfl⟩ | ⟨k, -, ok, overlap, rfl⟩⟩ := ownWindow_ok h
  · exact ⟨commitWindow_windowsOk hw line (by omega) (by simp), commitWindow_ownersAgree hw.kindsApart ho (by omega) (by simp)⟩
  · obtain ⟨off, others⟩ := installed_apart ok overlap
    constructor
    · refine commitWindow_windowsOk hw line (by omega) fun w hw => ?_
      obtain rfl := Option.some.inj hw
      exact ⟨installed_ok ok, off, others⟩
    · refine commitWindow_ownersAgree hw.kindsApart ho (by omega) fun w hw guard o hm => ?_
      obtain rfl := Option.some.inj hw
      have := (others o hm).2
      simp only [Window.apart, Bool.and_eq_true, Bool.or_eq_true, bne_iff_ne, beq_iff_eq] at this
      exact this.2.elim id fun e => e ▸ Ne.symm guard

theorem takeRequest_sameWindows (r : Request) (s : State) : SameWindows s (takeRequest r s) := by
  obtain ⟨_, _, _, mp, -⟩ := takeRequest_mp r s
  have steady := takeRequest_steady r s
  exact ⟨by simp, by rw [mp], by rw [mp], (takeRequest_heard r (.refl (a := s.ru))).place.1, steady.segments, steady.caption⟩

theorem SameWindows.trans {s t u : State} (h : SameWindows s t) (h' : SameWindows t u) : SameWindows s u :=
  ⟨h'.line.trans h.line, h'.slots.trans h.slots, h'.page.trans h.page, h'.geometry.trans h.geometry,
    h'.segments.trans h.segments, h'.caption.trans h.caption⟩

theorem arbitrate_slots (mp : MemPath) : (arbitrate mp).slots = mp.slots ∧ (arbitrate mp).ctlBase = mp.ctlBase := by
  obtain e | ⟨w, e⟩ | ⟨t, e⟩ := arbitrate_cases mp <;> rw [e] <;> exact ⟨rfl, rfl⟩

/-- Every row but LINE_RESET, RESET_N_RELEASE and WINDOW leaves the window table and what its owners know of it. -/
theorem rowDone_windows {c : Instr} {s t : State} (h : RowDone s c t) (hw : WindowsOk s) (ho : OwnersAgree s) :
    WindowsOk t ∧ OwnersAgree t := by
  have same {t : State} (h : SameWindows s t) : WindowsOk t ∧ OwnersAgree t := ⟨h.windowsOk hw, h.ownersAgree ho⟩
  have settled := (settleWord_quiet s).sameWindows
  cases h with
  | quiet h => exact same h.sameWindows
  | lineReset =>
    have empty (k : Nat) : windowAt State.reset.mp k = none := by
      simp only [windowAt, State.reset, MemPath.reset, Vector.getElem?_replicate]
      split <;> rfl
    have gone (k : WindowKind) : windowOf k State.reset.mp = none := windowOf_none.mpr fun j v hv => by simp [empty] at hv
    refine ⟨⟨fun k w h => ?_, fun j k v w _ h => ?_, fun _ => empty⟩, ?_⟩
    · rw [empty] at h
      cases h
    · rw [empty] at h
      cases h
    · simp only [OwnersAgree, gone]
      exact ⟨rfl, rfl, rfl⟩
  | released straps asserted =>
    have empty := hw.2.2 asserted
    have absent {k : Nat} {w : Window} (h : windowAt s.mp k = some w) : False := by
      rw [empty] at h
      cases h
    exact ⟨⟨fun k w h => (absent h).elim, fun j k v w _ h => (absent h).elim, fun _ => empty⟩, ho⟩
  | request r _ _ => exact same (settled.trans (takeRequest_sameWindows r _))
  | answer m _ =>
    obtain e | ⟨u, a, -, -, e⟩ := answerReturn_cases m (settleWord s) <;> rw [e]
    · exact same settled
    · exact same (settled.trans ⟨rfl, rfl, rfl, rfl, rfl, rfl⟩)
  | issue _ => exact same (settled.trans ⟨rfl, (arbitrate_slots _).1, (arbitrate_slots _).2, rfl, rfl, rfl⟩)
  | completion id data u _ _ _ => exact same (settled.trans ⟨rfl, rfl, rfl, rfl, rfl, rfl⟩)
  | ownOffer _ =>
    obtain e | ⟨u, b, rest, -, -, -, e⟩ := offerOwnWrite_cases (settleWord s) <;> rw [e]
    · exact same settled
    · exact same (settled.trans ⟨rfl, rfl, rfl, burstTaken_geometry .., rfl, rfl⟩)
  | ownCompletion _ =>
    obtain e | ⟨w, rest, -, -, e⟩ := ownWriteCompletion_cases (settleWord s) <;> rw [e]
    · exact same settled
    · exact same (settled.trans ⟨rfl, rfl, rfl, rfl, rfl, rfl⟩)
  | window it v run ok =>
    have before := settled.trans (popItem_quiet _).sameWindows
    obtain ⟨hwv, hov⟩ := ownWindow_windows ok (before.line.trans run) (before.windowsOk hw) (before.ownersAgree ho)
    have told := (offer_quiet (doneReport it 0) v).sameWindows
    exact ⟨told.windowsOk hwv, told.ownersAgree hov⟩
  | lay _ =>
    refine same (settled.trans ⟨by simp, by simp, by simp, ?_, by simp, by simp⟩)
    unfold layRecord
    (repeat' split) <;> rfl
  | compose _ =>
    refine same (settled.trans ⟨by simp, by simp, by simp, ?_, by simp, by simp⟩)
    unfold composeImage
    (repeat' split) <;> rfl

end Sys2Proof.Machine

open Sys2Proof Sys2Proof.Machine in
/-- Settles O56: only LINE_RESET, RESET_N_RELEASE and WINDOW touch the window table, and the five checks of a WINDOW commit
are what the invariant needs. -/
theorem stepKeepsWindows : Obligations.StepKeepsWindows := fun _ _ windows owners h =>
  step_of_rows (P := fun s => WindowsOk s ∧ OwnersAgree s) h ⟨windows, owners⟩ (fun _ => ⟨windows, owners⟩)
    fun _ _ _ hs hr => rowDone_windows hr hs.1 hs.2
end

section
set_option Elab.async false

namespace Sys2Proof.Machine

/-! ### Rows that complete (R1, R2, logs 1, 13, 14) -/

/-- A completed row leaves the rows that wait as they are. -/
theorem rowDone_pending {c : Instr} {s t : State} (h : RowDone s c t) : t.pending = s.pending := by
  have settled := (settleWord_quiet s).pending
  cases h with
  | quiet h => exact h.pending
  | lineReset => rfl
  | released straps _ => rfl
  | request r _ _ => simp
  | answer m _ => simp
  | issue _ => exact settled
  | completion id data u _ _ _ => exact settled
  | ownOffer _ => simp
  | ownCompletion _ => simp
  | window it v _ hw =>
    obtain ⟨-, -, -, -, ⟨-, rfl⟩ | ⟨k, -, -, -, rfl⟩⟩ := ownWindow_ok hw <;> simp
  | lay _ => simp
  | compose _ => simp

/-- What a bus master can make: 1 to 32 aligned beats in the 36-bit space (section 1.1). -/
theorem wf_iff (r : Request) :
    r.wf = true ↔ 1 ≤ r.access.length ∧ r.access.length ≤ 32 ∧ 8 ∣ r.addr ∧ r.addr < 2 ^ 36 := by
  simp only [Request.wf, Request.lengthOk, Request.aligned, Request.inSpace, Bool.and_eq_true, decide_eq_true_eq, beq_iff_eq,
    Nat.dvd_iff_mod_eq_zero]
  tauto

/-- A completion fits when it carries the beats that a read asked for, and none for a write (R2). -/
theorem completionFits_read {r : Request} {n : Nat} (h : r.access = .read n) (data : List Beat) :
    completionFits r data = true ↔ data.length = n := by simp [completionFits, h]

theorem completionFits_write {r : Request} {bs : List WBeat} (h : r.access = .write bs) (data : List Beat) :
    completionFits r data = true ↔ data.length = 0 := by simp [completionFits, h]

/-- A row has a next state, or it is one of the two refusals of ill-formed operands (logs 13 and 14). -/
theorem exec_next_or_refused (c : Instr) (s : State) :
    (∃ t, exec c s = .next t)
      ∨ (∃ r, c = .passThroughRequest r ∧ r.wf = false ∧ exec c s = .refused .illFormedRequest)
      ∨ ∃ id data t, c = .memoryPortCompletion id data ∧ issuedTxn id s.mp = some t ∧ completionFits t.req data = false
          ∧ exec c s = .refused .illFormedCompletion := by
  cases c with
  | passThroughRequest r =>
    cases hw : r.wf with
    | true => exact .inl ⟨_, if_pos hw⟩
    | false => exact .inr (.inl ⟨r, rfl, hw, if_neg (by simp [hw])⟩)
  | memoryPortCompletion id data =>
    cases ht : issuedTxn id s.mp with
    | none => exact .inl ⟨_, by simp only [exec, execMemoryPortCompletion, ht]; rfl⟩
    | some t =>
      cases hf : completionFits t.req data with
      | true => exact .inl ⟨_, by simp only [exec, execMemoryPortCompletion, ht, hf]; rfl⟩
      | false => exact .inr (.inr ⟨id, data, t, rfl, ht, hf, by simp [exec, execMemoryPortCompletion, ht, hf]⟩)
  | _ => exact .inl ⟨_, rfl⟩

/-- While RESET_N is asserted, and with no request in flight, a row of a form that the ports can carry changes nothing
(log 11). -/
theorem exec_of_asserted {c : Instr} {s : State} (asserted : s.resetAsserted = true) (idle : s.mp.txns = []) (wf : c.wf = true)
    (reset : c ≠ .lineReset) (release : ∀ straps, c ≠ .resetNRelease straps) : exec c s = .next s := by
  cases c with
  | lineReset => exact absurd rfl reset
  | resetNRelease straps => exact absurd rfl (release straps)
  | passThroughRequest r => exact (if_pos wf).trans (running_of_asserted _ asserted)
  | memoryPortCompletion id data =>
    have none_issued : issuedTxn id s.mp = none := by simp [issuedTxn, idle]
    simp only [exec, execMemoryPortCompletion, none_issued]
    exact running_of_asserted _ asserted
  | tick cueHigh later => exact congrArg _ (if_pos asserted)
  | subBlockCompletion => exact congrArg _ (if_pos asserted)
  | memoryPortIssue => exact running_of_asserted (fun s => { s with mp := arbitrate s.mp }) asserted
  | _ => exact running_of_asserted _ asserted

/-! ### The part after reset (R3, R35, R177) -/

theorem windowAt_reset (k : Nat) : windowAt State.reset.mp k = none := by
  simp only [windowAt, State.reset, MemPath.reset, Vector.getElem?_replicate]
  split <;> rfl

theorem windowOf_reset (k : WindowKind) : windowOf k State.reset.mp = none :=
  windowOf_none.mpr fun j v hv => by simp [windowAt_reset] at hv

theorem reset_windowsOk : WindowsOk State.reset :=
  ⟨fun k w h => by simp [windowAt_reset] at h, fun j k v w _ h => by simp [windowAt_reset] at h, fun _ => windowAt_reset⟩

theorem reset_ownersAgree : OwnersAgree State.reset := by
  simp only [OwnersAgree, windowOf_reset]
  exact ⟨rfl, rfl, rfl⟩

theorem reset_portsOk : PortsOk State.reset :=
  (portsOk_iff _).mpr ⟨.nil, nofun, .nil, nofun, nofun, nofun, nofun, nofun⟩

theorem reset_banksOk : BanksOk State.reset := by
  refine ⟨fun bank => ?_, rfl, nofun, fun _ => rfl⟩
  cases bank <;> exact ⟨rfl, ⟨nofun, nofun⟩, nofun, nofun⟩

end Sys2Proof.Machine

open Sys2Proof Sys2Proof.Machine in
/-- Settles O2: the two refusals are the only outcomes that are no next state, and no completed row touches the queue. -/
theorem everyRowCompletes : Obligations.EveryRowCompletes := by
  intro c s
  obtain ⟨t, h⟩ | ⟨r, rfl, ill, h⟩ | ⟨id, data, t, rfl, ht, ill, h⟩ := exec_next_or_refused c s
  · exact .inl ⟨t, h, rowDone_pending (exec_rowDone h)⟩
  · refine .inr (.inl ⟨r, rfl, h, fun wf => ?_⟩)
    rw [(wf_iff r).mpr wf] at ill
    cases ill
  · obtain ⟨mem, number, issued⟩ := issuedTxn_some ht
    refine .inr (.inr ⟨id, data, t, rfl, h, mem, number, issued, ?_⟩)
    rw [← Bool.not_eq_true] at ill
    cases ha : t.req.access with
    | read n => exact fun e => ill ((completionFits_read ha data).mpr e)
    | write bs => exact fun e => ill ((completionFits_write ha data).mpr e)

open Sys2Proof Sys2Proof.Machine in
/-- Settles O3, row by row while RESET_N is asserted. -/
theorem resetAndRelease : Obligations.ResetAndRelease := by
  refine ⟨⟨fun _ => rfl, fun straps s asserted => congrArg _ (if_pos asserted), fun straps s released => ?_⟩, ?_⟩
  · exact congrArg _ (if_neg (by simp [released]))
  · exact fun c s asserted idle wf reset release => exec_of_asserted asserted idle wf reset release

open Sys2Proof Sys2Proof.Machine in
/-- Settles O4: each register is read off `State.reset`; the arrays hold one value throughout. -/
theorem resetValues : Obligations.ResetValues := by
  have blocked (k : Nat) : blockedCount State.reset.mp k = 0 := by
    simp only [blockedCount, State.reset, MemPath.reset, Vector.getElem?_replicate]
    split <;> rfl
  have due (k : Nat) : accessReportDue State.reset k = true := by
    have : (State.reset.mp.lastReport[k]?).getD none = none := by
      simp only [State.reset, MemPath.reset, Vector.getElem?_replicate]
      split <;> rfl
    simp only [accessReportDue, this]
  have filters (c : Nat) : filterOf State.reset.ao c = ⟨⟨0, 0, 0, 0⟩, ⟨0, 0, 0, 0⟩⟩ := by
    simp only [filterOf, State.reset, AudioObs.reset, Vector.getElem?_replicate]
    split <;> rfl
  have mask : ∀ m : Master, m ≠ 15 → inSet m State.reset.cu.controlMask = true := by decide
  have shadows : ∀ w ∈ State.reset.cu.windowShadow.toList ++ State.reset.cu.entryShadow.toList
      ++ State.reset.cu.filterShadow.toList, w = 0 := by
    simp [State.reset, CmdUnit.reset]
  have audio : ∀ w ∈ State.reset.ao.shadow.toList, w = 0 := by simp [State.reset, AudioObs.reset]
  have overrides : State.reset.lu.overrides.toList = List.replicate 8 none := by simp [State.reset, Loudness.reset]
  have running : runningValue State.reset = none := by simp [runningValue, State.reset, Activity.reset]
  refine ⟨windowAt_reset, blocked, due, rfl, rfl, rfl, rfl, rfl, rfl, rfl, rfl, mask, shadows, rfl, rfl, rfl, rfl, rfl, rfl,
    rfl, rfl, rfl, rfl, rfl, audio, rfl, rfl, rfl, rfl, rfl, filters, rfl, rfl, rfl, rfl, rfl, rfl, rfl, rfl, rfl, rfl, rfl,
    rfl, rfl, rfl, fun _ => rfl, rfl, rfl, rfl, rfl, rfl, ?_, rfl, rfl, rfl, rfl, rfl, rfl, rfl, rfl, ?_, rfl, rfl, rfl, rfl, rfl,
    rfl, rfl, rfl, rfl, ?_, rfl, rfl, rfl, rfl, rfl, rfl, rfl, rfl, rfl, rfl, rfl, rfl, rfl, rfl, rfl, rfl, rfl, rfl⟩
  · intro bank
    cases bank <;> exact ⟨rfl, fun _ => rfl⟩
  · intro bank
    cases bank <;> rfl
  · intro c r hr
    cases r with
    | manual => exact absurd rfl hr
    | _ => cases c <;> rfl

open Sys2Proof Sys2Proof.Machine in
/-- Settles O5: after reset no window is installed, nothing is in flight, and the queues are empty. -/
theorem invariantsHoldAtReset : Obligations.InvariantsHoldAtReset := by
  obtain ⟨queues, time, ring, alert⟩ := (bounded_iff _).mp (reset_bounded [] false)
  exact ⟨reset_windowsOk, reset_ownersAgree, reset_portsOk, nofun, ⟨nofun, fun h => absurd rfl h, Nat.zero_le _, nofun⟩, queues,
    time, ring, alert, ⟨fun _ => rfl, fun h => absurd rfl h, nofun⟩, reset_banksOk⟩
end

section
set_option Elab.async false

namespace Sys2Proof.Machine

/-! ### Answers (R1, R2) -/

/-- A change of progress passes over requests with other numbers. -/
theorem setProgress_others {id : Nat} (p : Progress) {l : List Txn} (h : ∀ u ∈ l, u.id ≠ id) : setProgress id p l = l :=
  (List.map_congr_left fun u hu => if_neg (h u hu)).trans (List.map_id _)

/-- A change of the progress of the one request with a number. -/
theorem setProgress_at {before after : List Txn} {t : Txn} (p : Progress) (unique : ∀ u ∈ before ++ after, u.id ≠ t.id) :
    setProgress t.id p (before ++ t :: after) = before ++ { t with progress := p } :: after := by
  have front := setProgress_others p fun u hu => unique u (List.mem_append_left _ hu)
  have back := setProgress_others p fun u hu => unique u (List.mem_append_right _ hu)
  simp only [setProgress, List.map_append, List.map_cons, if_true] at front back ⊢
  rw [front, back]

/-- The one request with a number, once it is answered, leaves the requests in flight. -/
theorem filter_at {before after : List Txn} {t : Txn} (unique : ∀ u ∈ before ++ after, u.id ≠ t.id) :
    (before ++ t :: after).filter (·.id != t.id) = before ++ after := by
  simp only [List.filter_append, List.filter_cons, bne_self_eq_false, Bool.false_eq_true, if_false]
  rw [← List.filter_append, List.filter_eq_self]
  exact fun u hu => bne_iff_ne.mpr (unique u hu)

/-- The issued request that a completion names (R2). -/
theorem issuedTxn_at {mp : MemPath} {before after : List Txn} {t : Txn} (split : mp.txns = before ++ t :: after)
    (unique : ∀ u ∈ before ++ after, u.id ≠ t.id) (issued : t.progress = .issued) : issuedTxn t.id mp = some t := by
  refine List.find?_eq_some_iff_append.mpr ⟨by simp [issued], before, after, split, fun u hu => ?_⟩
  simp [unique u (List.mem_append_left _ hu)]

/-- The first of a master's requests in flight is its oldest (R1). -/
theorem oldestOf_at {mp : MemPath} {before after : List Txn} {t : Txn} (split : mp.txns = before ++ t :: after)
    (first : ∀ u ∈ before, u.req.master ≠ t.req.master) : oldestOf mp t.req.master = some t := by
  refine List.find?_eq_some_iff_append.mpr ⟨by simp, before, after, split, fun u hu => ?_⟩
  simp [first u hu]

theorem completionFits_iff (r : Request) (data : List Beat) :
    completionFits r data = true ↔ data.length = match r.access with | .read n => n | .write _ => 0 := by
  cases h : r.access with
  | read n => exact completionFits_read h data
  | write bs => exact completionFits_write h data

/-! ### The arbiter (R15) -/

theorem arbitrate_both {mp : MemPath} {w : OwnWrite} {t : Txn} (hw : ownCandidate mp = some w)
    (ht : passCandidate mp = some t) : arbitrate mp = if mp.lastGrant = .own then issuePass t mp else issueOwn w mp := by
  simp only [arbitrate, hw, ht]

theorem arbitrate_own {mp : MemPath} {w : OwnWrite} (hw : ownCandidate mp = some w) (ht : passCandidate mp = none) :
    arbitrate mp = issueOwn w mp := by simp only [arbitrate, hw, ht]

theorem arbitrate_pass {mp : MemPath} {t : Txn} (hw : ownCandidate mp = none) (ht : passCandidate mp = some t) :
    arbitrate mp = issuePass t mp := by simp only [arbitrate, hw, ht]

theorem arbitrate_idle {mp : MemPath} (hw : ownCandidate mp = none) (ht : passCandidate mp = none) :
    arbitrate mp = mp := by simp only [arbitrate, hw, ht]

/-! ### Which request waits for the arbiter (R15, R16, log 16) -/

/-- A request stands behind an older read of its master that waits for own writes. -/
theorem behindHeld_iff (txns : List Txn) (u : Txn) : behindHeld txns u = true ↔
    ∃ h ∈ txns, (∃ on, h.progress = .held on ∨ h.progress = .behind on) ∧ h.req.master = u.req.master ∧ h.id < u.id := by
  simp only [behindHeld, List.any_eq_true, Bool.and_eq_true, awaitsOwn_iff, beq_iff_eq, decide_eq_true_eq, and_assoc]

theorem isReady_iff (txns : List Txn) (u : Txn) :
    isReady txns u = true ↔ u.progress = .waiting ∧ behindHeld txns u = false := by
  simp only [isReady, Bool.and_eq_true, beq_iff_eq, Bool.not_eq_true']

/-- A request that waits for nothing and is not ready stands behind a held read of its master. -/
theorem behindHeld_of_not_ready {txns : List Txn} {u : Txn} (waiting : u.progress = .waiting) (h : isReady txns u ≠ true) :
    behindHeld txns u = true := by
  rw [ne_eq, isReady_iff, not_and, Bool.not_eq_false] at h
  exact h waiting

theorem passCandidate_released {mp : MemPath} {id : Nat} {rest : List Nat} (h : mp.released = id :: rest) :
    passCandidate mp = mp.txns.find? (·.id == id) := by simp only [passCandidate, h]

theorem passCandidate_ready {mp : MemPath} (h : mp.released = []) :
    passCandidate mp = mp.txns.find? (isReady mp.txns) := by simp only [passCandidate, h]

/-- The first released read is in flight and waits for the arbiter. -/
theorem PortsFine.released_found {mp : MemPath} (h : PortsFine mp) {id : Nat} {rest : List Nat} (hr : mp.released = id :: rest) :
    ∃ t ∈ mp.txns, passCandidate mp = some t ∧ t.id = id ∧ t.progress = .waiting := by
  obtain ⟨t, ht, rfl, waiting⟩ := h.released id (by simp [hr])
  refine ⟨t, ht, ?_, rfl, waiting⟩
  rw [passCandidate_released hr]
  cases hf : mp.txns.find? (·.id == t.id) with
  | none => exact absurd (List.find?_eq_none.mp hf t ht) (by simp)
  | some u =>
    have e : u.id = t.id := by simpa using List.find?_some hf
    rw [eq_of_rising h.rising (List.mem_of_find?_eq_some hf) ht e]

/-- No older request waits ready when none is released and the oldest that is ready is taken. -/
theorem PortsFine.older_behind {mp : MemPath} (h : PortsFine mp) {t u : Txn} (ht : mp.txns.find? (isReady mp.txns) = some t)
    (hu : u ∈ mp.txns) (waiting : u.progress = .waiting) (older : u.id < t.id) : behindHeld mp.txns u = true := by
  obtain ⟨-, before, after, e, none_ready⟩ := List.find?_eq_some_iff_append.mp ht
  have rising := h.rising
  rw [e, List.map_append, List.map_cons, List.pairwise_append, List.pairwise_cons] at rising
  obtain ⟨-, ⟨later, -⟩, -⟩ := rising
  rw [e, List.mem_append, List.mem_cons] at hu
  obtain hu | rfl | hu := hu
  · exact behindHeld_of_not_ready waiting (by simpa using none_ready u hu)
  · exact absurd older (Nat.lt_irrefl _)
  · exact absurd (later _ (List.mem_map_of_mem hu)) (Nat.not_lt.mpr older.le)

/-! ### Own writes (R14 to R16) -/

theorem filter_own_eq_nil (own : Nat) (on : List Nat) : on.filter (· != own) = [] ↔ ∀ id ∈ on, id = own := by
  simp [List.filter_eq_nil_iff]

theorem dropHold_held {own : Nat} {t : Txn} {on : List Nat} (h : t.progress = .held on) :
    dropHold own t
      = { t with progress := if ∀ id ∈ on, id = own then .waiting else .held (on.filter (· != own)) } := by
  simp only [dropHold, h, List.isEmpty_iff, filter_own_eq_nil]

theorem dropHold_behind {own : Nat} {t : Txn} {on : List Nat} (h : t.progress = .behind on) :
    dropHold own t
      = { t with progress := if ∀ id ∈ on, id = own then .waiting else .behind (on.filter (· != own)) } := by
  simp only [dropHold, h, List.isEmpty_iff, filter_own_eq_nil]

theorem dropHold_free {own : Nat} {t : Txn} (h : ∀ on, t.progress ≠ .held on ∧ t.progress ≠ .behind on) :
    dropHold own t = t := by
  obtain ⟨-, e⟩ | ⟨on, hp, -⟩ := dropHold_cases own t
  · exact e
  · exact absurd hp (not_or.mpr (h on))

/-- A read leaves the read-hold list when it waited for the completed own write alone. -/
theorem releasedBy_eq (own : Nat) (t : Txn) :
    releasedBy own t = match t.progress with
      | .held on => on.all (· == own)
      | _ => false := by
  unfold releasedBy
  cases t.progress with
  | held on =>
    rw [Bool.eq_iff_iff]
    simp
  | _ => rfl

theorem offerOwnWrite_full {s : State} (h : 8 ≤ s.mp.ownQueue.length) : offerOwnWrite s = s := by
  obtain e | ⟨-, -, -, -, -, room, -⟩ := offerOwnWrite_cases s
  · exact e
  · exact absurd room (Nat.not_lt.mpr h)

theorem offerOwnWrite_room {s : State} {u : UnitInProgress} {b : Burst} {rest : List Burst} (hu : s.ru.current = some u)
    (hb : u.bursts = b :: rest) (room : s.mp.ownQueue.length < 8) :
    offerOwnWrite s = { s with mp := pushOwn b s.mp, ru := burstTaken u rest s.ru } := by
  simp only [offerOwnWrite, hu, hb]
  exact if_pos room

/-- A burst that is neither the unit's last nor a LOST record's leaves the rest of the unit in progress. -/
theorem burstTaken_more {u : UnitInProgress} {rest : List Burst} (ru : Reports) (lost : u.lost = none) (more : rest ≠ []) :
    burstTaken u rest ru = { ru with current := some { u with bursts := rest } } := by simp [burstTaken, lost, more]

theorem ownWriteCompletion_issued {s : State} {w : OwnWrite} {rest : List OwnWrite} (hq : s.mp.ownQueue = w :: rest)
    (issued : s.mp.ownIssued = true) : ownWriteCompletion s = { s with mp := completeOwn w s.mp } := by
  simp [ownWriteCompletion, hq, issued]

end Sys2Proof.Machine

open Sys2Proof Sys2Proof.Machine in
/-- Settles O10: a request is found by its number when it completes, and by its master when it is answered. -/
theorem requestsAnswered : Obligations.RequestsAnswered := by
  refine ⟨fun s before after t data hr split unique issued fits => ?_, fun s m before after t hr split hm first unique => ?_⟩
  · have named := issuedTxn_at split unique issued
    have row : exec (.memoryPortCompletion t.id data) s = running s (completePass t data) := by
      simp only [exec, execMemoryPortCompletion, named, (completionFits_iff t.req data).mpr fits, if_true]
    rw [row, running_of_ready _ hr, completePass, split, setProgress_at _ unique]
    rfl
  · subst hm
    have row : exec (.answerReturn t.req.master) s = .next (answerReturn t.req.master s) := running_of_ready _ hr
    have oldest := oldestOf_at split first
    rw [row]
    refine ⟨fun a answered => ?_, fun unanswered => ?_⟩
    · simp only [answerReturn, oldest, answered]
      rw [split, filter_at unique]
    · simp only [answerReturn, oldest]
      cases hp : t.progress with
      | answered a => exact absurd hp (unanswered a)
      | _ => rfl

open Sys2Proof Sys2Proof.Machine in
/-- Settles O11, by which kinds wait. -/
theorem arbiterAlternates : Obligations.ArbiterAlternates := by
  intro s hr own grantOwn grantPass
  have row : exec .memoryPortIssue s = .next { s with mp := arbitrate s.mp } :=
    running_of_ready (fun s => { s with mp := arbitrate s.mp }) hr
  rw [row]
  refine ⟨fun w t hw ht => ?_, fun w hw ht => ?_, fun t hw ht => ?_, fun hw ht => ?_⟩
  · rw [arbitrate_both hw ht]
    split <;> rfl
  · rw [arbitrate_own hw ht]
    rfl
  · rw [arbitrate_pass hw ht]
    rfl
  · rw [arbitrate_idle hw ht]

open Sys2Proof Sys2Proof.Machine in
/-- Settles O12: released reads are in flight and waiting, and the numbers rise with the order in which requests were taken. -/
theorem oldestReadyRequest : Obligations.OldestReadyRequest := by
  intro s ports awaits
  have fine := (portsOk_iff s).mp ports
  cases hr : s.mp.released with
  | cons id rest =>
    obtain ⟨t, ht, found, number, waiting⟩ := fine.released_found hr
    refine ⟨fun e => by simp [found] at e, fun u hu => ?_⟩
    obtain rfl : t = u := by simpa [found] using hu
    exact ⟨ht, waiting, fun id' rest' e => by simp_all, fun e => by simp at e⟩
  | nil =>
    rw [passCandidate_ready hr]
    refine ⟨fun none_ready => ⟨rfl, fun u hu waiting => ?_⟩, fun t found => ?_⟩
    · exact (behindHeld_iff _ u).mp (behindHeld_of_not_ready waiting (List.find?_eq_none.mp none_ready u hu))
    · have ht := List.mem_of_find?_eq_some found
      obtain ⟨waiting, free⟩ := (isReady_iff _ t).mp (List.find?_some found)
      refine ⟨ht, waiting, nofun, fun _ => ⟨fun h hh haw master => ?_, fun u hu hw older => ?_⟩⟩
      · by_contra not_older
        have ne : h.id ≠ t.id := fun e => by
          obtain ⟨on, hp⟩ := haw
          rw [eq_of_rising fine.rising hh ht e, waiting] at hp
          simp at hp
        have behind := (behindHeld_iff _ t).mpr ⟨h, hh, haw, master, by omega⟩
        simp [free] at behind
      · exact (behindHeld_iff _ u).mp (fine.older_behind found hu hw older)

open Sys2Proof Sys2Proof.Machine in
/-- Settles O13: each request in flight keeps its place, and `dropHold` says what becomes of it. -/
theorem ownWritesMoveOn : Obligations.OwnWritesMoveOn := by
  refine ⟨fun s u b rest hr hu hb => ?_, fun s w rest hr hq issued => ?_⟩
  · have row : exec .ownWriteOffer s = .next (offerOwnWrite s) := running_of_ready _ hr
    rw [row]
    refine ⟨fun full => by rw [offerOwnWrite_full full], fun room lost more => ?_⟩
    rw [offerOwnWrite_room hu hb room, burstTaken_more _ lost more]
    rfl
  · have row : exec .ownWriteCompletion s = .next (ownWriteCompletion s) := running_of_ready _ hr
    refine ⟨_, row, ?_⟩
    rw [ownWriteCompletion_issued hq issued]
    refine ⟨by simp [completeOwn, hq], by simp [completeOwn], fun i v hv => ?_, ?_⟩
    · have moved : (s.mp.txns.map (dropHold w.id))[i]? = some (dropHold w.id v) := by simp [hv]
      exact ⟨fun free => moved.trans (by rw [dropHold_free free]), fun on held => moved.trans (by rw [dropHold_held held]),
        fun on behind => moved.trans (by rw [dropHold_behind behind])⟩
    · exact congrArg (fun p => s.mp.released ++ (s.mp.txns.filter p).map (·.id)) (funext (releasedBy_eq w.id))
end

section
set_option Elab.async false

namespace Sys2Proof.Machine

/-! ### Regions (R3, R7) -/

/-- An address lies in a counted region: the control page, of index 8, or the window of a slot. -/
def LiesIn (mp : MemPath) (k a : Nat) : Prop :=
  (k = 8 ∧ mp.ctlBase ≤ a ∧ a < mp.ctlBase + 4096) ∨ (k < 8 ∧ ∃ w, windowAt mp k = some w ∧ w.base ≤ a ∧ a < w.stop)

theorem inControlPage_iff (mp : MemPath) (a : Nat) :
    inControlPage mp a = true ↔ mp.ctlBase ≤ a ∧ a < mp.ctlBase + 4096 := by
  simp only [inControlPage, Bool.and_eq_true, decide_eq_true_eq]

theorem inWindow_iff (w : Window) (a : Nat) : inWindow w a = true ↔ w.base ≤ a ∧ a < w.stop := by
  simp only [inWindow, Window.base, Window.stop, Bool.and_eq_true, decide_eq_true_eq]

/-- A slot's window holds an address. -/
theorem slotHolds_iff (mp : MemPath) (k a : Nat) : ((windowAt mp k).map (inWindow · a)).getD false = true ↔
    ∃ w, windowAt mp k = some w ∧ w.base ≤ a ∧ a < w.stop := by
  cases windowAt mp k with
  | none => simp
  | some w => simp [inWindow_iff]

/-- The region that the part finds holds the address. -/
theorem regionAt_lies {mp : MemPath} {k a : Nat} (h : regionAt mp a = some k) : LiesIn mp k a := by
  unfold regionAt at h
  split at h
  · cases h
    exact .inl ⟨rfl, (inControlPage_iff mp a).mp ‹_›⟩
  · exact .inr ⟨List.mem_range.mp (List.mem_of_find?_eq_some h), (slotHolds_iff mp k a).mp (List.find?_some (p := fun k => ((windowAt mp k).map (inWindow · a)).getD false) h)⟩

theorem regionAt_none {mp : MemPath} {a : Nat} (h : regionAt mp a = none) (k : Nat) : ¬ LiesIn mp k a := by
  unfold regionAt at h
  split at h
  · cases h
  · rename_i outside
    rintro (⟨-, page⟩ | ⟨hk, holds⟩)
    · exact outside ((inControlPage_iff mp a).mpr page)
    · exact List.find?_eq_none.mp h k (List.mem_range.mpr hk) ((slotHolds_iff mp k a).mpr holds)

/-- Installed windows share no byte with each other or with the control page, so an address lies in one region at most. -/
theorem LiesIn.unique {s : State} (ok : WindowsOk s) {j k a : Nat} (hj : LiesIn s.mp j a) (hk : LiesIn s.mp k a) : j = k := by
  obtain ⟨sound, apart, -⟩ := ok
  have off_page {n : Nat} {w : Window} (hw : windowAt s.mp n = some w) (ha : w.base ≤ a ∧ a < w.stop) :
      ¬ (s.mp.ctlBase ≤ a ∧ a < s.mp.ctlBase + 4096) := by
    have off := (sound n w hw).2
    simp only [Window.offPage, rangesMeet, Bool.not_eq_true', Bool.and_eq_false_iff, decide_eq_false_iff_not] at off
    omega
  obtain ⟨rfl, page⟩ | ⟨-, v, hv, va⟩ := hj <;> obtain ⟨rfl, page'⟩ | ⟨-, w, hw, wa⟩ := hk
  · rfl
  · exact absurd page (off_page hw wa)
  · exact absurd page' (off_page hv va)
  · by_contra ne
    have clear := apart j k v w ne hv hw
    simp only [Window.apart, rangesMeet, Bool.and_eq_true, Bool.not_eq_true', Bool.and_eq_false_iff,
      decide_eq_false_iff_not] at clear
    omega

theorem regionAt_eq_some {s : State} (ok : WindowsOk s) (k a : Nat) : regionAt s.mp a = some k ↔ LiesIn s.mp k a := by
  refine ⟨regionAt_lies, fun lies => ?_⟩
  cases h : regionAt s.mp a with
  | none => exact absurd lies (regionAt_none h k)
  | some j => rw [(regionAt_lies h).unique ok lies]

theorem regionAt_eq_none {mp : MemPath} (a : Nat) : regionAt mp a = none ↔ ∀ k, ¬ LiesIn mp k a := by
  refine ⟨regionAt_none, fun outside => ?_⟩
  cases h : regionAt mp a with
  | none => rfl
  | some j => exact absurd (regionAt_lies h) (outside j)

/-- Every beat lies where the first one does, and that is a given place. -/
theorem beats_alike (mp : MemPath) {r : Request} (len : 1 ≤ r.access.length) (place : Option Nat) :
    (beatRegions mp r).all (· == regionAt mp r.addr) = true ∧ regionAt mp r.addr = place
      ↔ ∀ i < r.access.length, regionAt mp (r.addr + 8 * i) = place := by
  simp only [beatRegions, List.all_map, List.all_eq_true, List.mem_range, Function.comp, beq_iff_eq]
  refine ⟨fun ⟨alike, first⟩ i hi => (alike i hi).trans first, fun h => ?_⟩
  have first : regionAt mp r.addr = place := h 0 len
  exact ⟨fun i hi => (h i hi).trans first.symm, first⟩

/-- The region of a request whose beats all lie in one place. -/
def placed : Option Nat → Region
  | none => .outside
  | some k => .inside k

theorem regionOf_placed (mp : MemPath) {r : Request} (len : 1 ≤ r.access.length) (place : Option Nat) :
    regionOf mp r = placed place
      ↔ r.addr + 8 * r.access.length ≤ 2 ^ 36 ∧ ∀ i < r.access.length, regionAt mp (r.addr + 8 * i) = place := by
  rw [← beats_alike mp len, ← Nat.not_lt]
  change _ ↔ ¬ Config.addressEnd < r.addr + 8 * r.access.length ∧ _
  by_cases past : Config.addressEnd < r.addr + 8 * r.access.length
  · cases place <;> simp [regionOf, past, placed]
  · by_cases alike : (beatRegions mp r).all (· == regionAt mp r.addr) = true
    · simp only [regionOf, past, alike, if_true, if_false]
      cases regionAt mp r.addr <;> cases place <;> simp [placed]
    · cases place <;> simp [regionOf, past, alike, placed]

theorem regionOf_crossing {mp : MemPath} {r : Request} {charged : Option Nat} (h : regionOf mp r = .crossing charged) :
    (beatRegions mp r).findSome? id = charged := by
  unfold regionOf at h
  dsimp only at h
  (repeat' split at h) <;> simp_all

/-- The first place where a search over an initial segment succeeds. -/
theorem findSome?_range {β : Type} {f : Nat → Option β} {b : β} :
    ∀ {n : Nat}, (List.range n).findSome? f = some b → ∃ i < n, f i = some b ∧ ∀ j < i, f j = none
  | 0, h => by simp at h
  | n + 1, h => by
    rw [List.range_succ, List.findSome?_append, Option.or_eq_some_iff] at h
    obtain h | ⟨none_before, h⟩ := h
    · obtain ⟨i, hi, found, before⟩ := findSome?_range h
      exact ⟨i, Nat.lt_succ_of_lt hi, found, before⟩
    · refine ⟨n, Nat.lt_succ_self n, by simpa using h, fun j hj => ?_⟩
      exact List.findSome?_eq_none_iff.mp none_before j (List.mem_range.mpr hj)

/-- A crossing burst is charged to the first region that its beats enter (R7). -/
theorem regionOf_charged {mp : MemPath} {r : Request} {k : Nat} (h : regionOf mp r = .crossing (some k)) :
    ∃ i < r.access.length, regionAt mp (r.addr + 8 * i) = some k ∧ ∀ j < i, regionAt mp (r.addr + 8 * j) = none := by
  have found := regionOf_crossing h
  rw [beatRegions, List.findSome?_map] at found
  exact findSome?_range found

theorem regionOf_uncharged {mp : MemPath} {r : Request} (h : regionOf mp r = .crossing none) (i : Nat)
    (hi : i < r.access.length) : regionAt mp (r.addr + 8 * i) = none := by
  have found := regionOf_crossing h
  rw [beatRegions, List.findSome?_map, List.findSome?_eq_none_iff] at found
  exact found i (List.mem_range.mpr hi)

/-! ### Judgement (R8 to R10) -/

theorem inSet_iff (m : Master) (set : MasterSet) : inSet m set = true ↔ m ≠ 15 ∧ set.getLsbD m.toNat = true := by
  simp [inSet]

theorem judge_crossing {s : State} {r : Request} {c : Option Nat} (h : regionOf s.mp r = .crossing c) :
    judge s r = .block c .crossing := by simp only [judge, h]

theorem judge_outside {s : State} {r : Request} (h : regionOf s.mp r = .outside) : judge s r = .forward := by
  simp only [judge, h]

theorem judge_control {s : State} {r : Request} (h : regionOf s.mp r = .inside 8) :
    judge s r = if inSet r.master s.cu.controlMask then .forward else .block (some 8) .controlMask := by
  simp only [judge, h, controlIndex, if_true]

theorem judge_slot {s : State} {r : Request} {k : Nat} {w : Window} (slot : k < 8) (h : regionOf s.mp r = .inside k)
    (hw : windowAt s.mp k = some w) : judge s r = judgeWindow k w r := by
  simp only [judge, h, hw, controlIndex, slot.ne, if_false]

theorem judgeWindow_read {k : Nat} {w : Window} {r : Request} (h : r.access.isWrite = false) :
    judgeWindow k w r = if inSet r.master w.readMask then .forward else .block (some k) .readMask := by simp [judgeWindow, h]

theorem judgeWindow_report {k : Nat} {w : Window} {r : Request} (h : r.access.isWrite = true) (kind : w.kind = .report) :
    judgeWindow k w r = .block (some k) .reportWrite := by simp [judgeWindow, h, kind]

theorem judgeWindow_unmasked {k : Nat} {w : Window} {r : Request} (h : r.access.isWrite = true) (kind : w.kind ≠ .report)
    (mask : ¬ inSet r.master w.writeMask = true) : judgeWindow k w r = .block (some k) .writeMask := by
  simp [judgeWindow, h, kind, mask]

theorem judgeWindow_masked {k : Nat} {w : Window} {r : Request} (h : r.access.isWrite = true) (kind : w.kind ≠ .report)
    (mask : inSet r.master w.writeMask = true) :
    judgeWindow k w r = if w.kind = .record then .checkSegments k w else .forward := by simp [judgeWindow, h, kind, mask]

end Sys2Proof.Machine

open Sys2Proof Sys2Proof.Machine in
/-- Settles O6: under `WindowsOk` an address lies in one region at most, so the region that the part finds is the one. -/
theorem regionOfRequest : Obligations.RegionOfRequest := by
  intro s r ok len beat inPage inSlot lies fits
  refine ⟨fun k => ?_, ?_, fun k crossing => ?_, fun crossing => ?_⟩
  · refine (regionOf_placed s.mp len (some k)).trans (and_congr_right' (forall₂_congr fun i _ => ?_))
    exact regionAt_eq_some ok k _
  · refine (regionOf_placed s.mp len none).trans (and_congr_right' (forall₂_congr fun i _ => ?_))
    exact regionAt_eq_none _
  · obtain ⟨i, hi, found, before⟩ := regionOf_charged crossing
    exact ⟨i, hi, regionAt_lies found, fun j hj => regionAt_none (before j hj)⟩
  · have outside := regionOf_uncharged crossing
    refine ⟨fun h => ?_, fun i hi => regionAt_none (outside i hi)⟩
    exact Region.noConfusion (((regionOf_placed s.mp len none).mpr ⟨h, outside⟩).symm.trans crossing)

open Sys2Proof Sys2Proof.Machine in
/-- Settles O7, by the region of the request and, in a slot, by what it does and the kind of the window. -/
theorem judgementOfRequest : Obligations.JudgementOfRequest := by
  refine fun s r => ⟨fun c => judge_crossing, judge_outside, fun h => ?_, fun k w slot h hw => ?_⟩
  · simp only [judge_control h, inSet_iff]
  · rw [judge_slot slot h hw]
    refine ⟨fun read => ?_, judgeWindow_report, fun write kind mask => ?_, fun write kind ne mask => ?_⟩
    · simp only [judgeWindow_read read, inSet_iff]
    · exact judgeWindow_unmasked write kind fun h => mask ((inSet_iff _ _).mp h)
    · exact judgeWindow_masked write kind ((inSet_iff _ _).mpr ⟨ne, mask⟩)
end

section
set_option Elab.async false

namespace Sys2Proof.Machine

/-! ### Blocked requests (R11, R13) -/

/-- A 32-bit count goes up by 1 and stays at its largest value. -/
theorem satAdd_one (n : BitVec 32) : satAdd n 1 = if n = BitVec.allOnes 32 then BitVec.allOnes 32 else n + 1 := by
  have top : n = BitVec.allOnes 32 ↔ ¬ n.toNat + 1 < 2 ^ 32 := by
    rw [← BitVec.toNat_inj, BitVec.toNat_allOnes]
    omega
  simp only [satAdd, top, ite_not]
  rfl

theorem accessReportDue_eq (s : State) (k : Nat) : accessReportDue s k = match s.mp.lastReport[k]? with
    | some (some t) => decide (100 ≤ (s.tb.time - t).toInt) || decide ((s.tb.time - t).toInt < 0)
    | _ => true := by
  unfold accessReportDue since
  rcases s.mp.lastReport[k]? with _ | _ | t <;> rfl

/-- A count after a blocked request has been added to it. -/
theorem blockedCount_chargeBlock {k : Nat} (h : k < 9) (s : State) :
    blockedCount (chargeBlock k s).mp k = satAdd (blockedCount s.mp k) 1 := by
  simp [blockedCount, chargeBlock, h]

theorem chargeBlock_eq {k : Nat} {s : State} {count : BitVec 32} (h : satAdd (blockedCount s.mp k) 1 = count) :
    chargeBlock k s = { s with mp := { s.mp with blocked := s.mp.blocked.setIfInBounds k count } } := by
  subst h
  rfl

theorem reportBlock_eq {k : Nat} {s : State} {count : BitVec 32} (reason : BlockReason) (r : Request)
    (h : blockedCount s.mp k = count) : reportBlock k reason r s
      = offer (.accessBlocked k reason r.master r.access.isWrite r.addr count)
          { s with mp := { s.mp with lastReport := s.mp.lastReport.setIfInBounds k (some s.tb.time) } } := by
  subst h
  rfl

theorem exec_request {r : Request} {s : State} (hr : ready s = true) (wf : r.wf = true) :
    exec (.passThroughRequest r) s = .next (takeRequest r s) := (if_pos wf).trans (running_of_ready _ hr)

theorem blockRequest_due {k : Nat} {s : State} (reason : BlockReason) (r : Request) (due : accessReportDue s k = true) :
    blockRequest (some k) reason r s = addTxn r (.answered (blockedAnswer r)) (reportBlock k reason r (chargeBlock k s)) := by
  simp only [blockRequest]
  exact congrArg _ (if_pos due)

theorem blockRequest_not_due {k : Nat} {s : State} (reason : BlockReason) (r : Request) (due : accessReportDue s k = false) :
    blockRequest (some k) reason r s = addTxn r (.answered (blockedAnswer r)) (chargeBlock k s) := by
  simp only [blockRequest]
  exact congrArg _ (if_neg (by rw [Bool.not_eq_true]; exact due))

/-! ### Forwarded requests (R2, R8, R12, R16) -/

theorem forwardProgress_write {mp : MemPath} {r : Request} (h : r.access.isWrite = true) :
    forwardProgress mp r = .waiting := by simp [forwardProgress, h]

theorem forwardProgress_clear {mp : MemPath} {r : Request} (h : mp.ownQueue.filter (overlapsOwn r) = []) :
    forwardProgress mp r = .waiting := by simp [forwardProgress, h]

/-- A read that overlaps queued own writes waits for exactly those. -/
theorem forwardProgress_read {mp : MemPath} {r : Request} (read : r.access.isWrite = false)
    (met : mp.ownQueue.filter (overlapsOwn r) ≠ []) :
    forwardProgress mp r = if mp.txns.any fun h => awaitsOwn h && h.req.master == r.master
      then .behind ((mp.ownQueue.filter (overlapsOwn r)).map (·.id))
      else .held ((mp.ownQueue.filter (overlapsOwn r)).map (·.id)) := by
  have some_id : ((mp.ownQueue.filter (overlapsOwn r)).map (·.id)).isEmpty = false := by
    rw [List.isEmpty_eq_false_iff, ne_eq, List.map_eq_nil_iff]
    exact met
  simp only [forwardProgress, read, some_id, Bool.or_self, Bool.false_eq_true, if_false]

/-- A master has a read that waits for own writes. -/
theorem master_awaits_iff (txns : List Txn) (m : Master) :
    (txns.any fun h => awaitsOwn h && h.req.master == m) = true
      ↔ ∃ h ∈ txns, h.req.master = m ∧ ∃ on, h.progress = .held on ∨ h.progress = .behind on := by
  simp only [List.any_eq_true, Bool.and_eq_true, awaitsOwn_iff, beq_iff_eq]
  exact exists_congr fun h => and_congr_right' and_comm

theorem handOver_control {r : Request} {s : State} (h : regionOf s.mp r = .inside 8) : handOver r s = handControl r s := by
  simp only [handOver, h, controlIndex, if_true]

theorem handOver_slot {r : Request} {s : State} {k : Nat} {w : Window} (slot : k < 8) (h : regionOf s.mp r = .inside k)
    (hw : windowAt s.mp k = some w) : handOver r s = handObserver w r s := by
  simp only [handOver, h, hw, controlIndex, slot.ne, if_false]

theorem handOver_outside {r : Request} {s : State} (h : regionOf s.mp r = .outside) : handOver r s = s := by
  simp only [handOver, h]

theorem handObserver_unwatched {w : Window} {r : Request} {s : State} (h : ¬ (s.cu.mode ≠ .off ∧ r.master = w.feeding)) :
    handObserver w r s = s := by
  have : ¬ (observing s && r.master == w.feeding) = true := by simpa [observing] using h
  exact if_neg this

theorem handObserver_caption {w : Window} {r : Request} {s : State} (watched : s.cu.mode ≠ .off ∧ r.master = w.feeding)
    (kind : w.kind = .caption) : handObserver w r s
      = { s with ca := { s.ca with inbox := s.ca.inbox ++ (offsetBeats w.base r).map fun p => ⟨p.1, p.2⟩ } } := by
  simp only [handObserver, observing, watched.2, kind, bne_iff_ne, beq_self_eq_true, Bool.and_true]
  exact if_pos watched.1

theorem handObserver_audio {w : Window} {r : Request} {s : State} (watched : s.cu.mode ≠ .off ∧ r.master = w.feeding)
    (kind : w.kind = .audio) : handObserver w r s
      = { s with ao := { s.ao with inbox := s.ao.inbox ++ (offsetBeats w.base r).flatMap audioItems } } := by
  simp only [handObserver, observing, watched.2, kind, bne_iff_ne, beq_self_eq_true, Bool.and_true]
  exact if_pos watched.1

/-- A window of another kind has no observer. -/
theorem handObserver_other {w : Window} {r : Request} {s : State} (audio : w.kind ≠ .audio) (caption : w.kind ≠ .caption) :
    handObserver w r s = s := by
  unfold handObserver
  split
  · cases h : w.kind with
    | audio => exact absurd h audio
    | caption => exact absurd h caption
    | _ => rfl
  · rfl

/-- The window of a slot is watched by the caption unit, by the audio observer, or by neither. -/
theorem handObserver_cases (w : Window) (r : Request) (s : State) :
    handObserver w r s = s
      ∨ (w.kind = .caption ∧ (s.cu.mode ≠ .off ∧ r.master = w.feeding) ∧ handObserver w r s
          = { s with ca := { s.ca with inbox := s.ca.inbox ++ (offsetBeats w.base r).map fun p => ⟨p.1, p.2⟩ } })
      ∨ (w.kind = .audio ∧ (s.cu.mode ≠ .off ∧ r.master = w.feeding) ∧ handObserver w r s
          = { s with ao := { s.ao with inbox := s.ao.inbox ++ (offsetBeats w.base r).flatMap audioItems } }) := by
  by_cases watched : s.cu.mode ≠ .off ∧ r.master = w.feeding
  · by_cases caption : w.kind = .caption
    · exact .inr (.inl ⟨caption, watched, handObserver_caption watched caption⟩)
    · by_cases audio : w.kind = .audio
      · exact .inr (.inr ⟨audio, watched, handObserver_audio watched audio⟩)
      · exact .inl (handObserver_other audio caption)
  · exact .inl (handObserver_unwatched watched)

/-- A forwarded request is handed to the command unit, to the observer of a slot's window, or to nobody. -/
theorem handOver_cases (r : Request) (s : State) :
    (regionOf s.mp r = .inside 8 ∧ handOver r s = handControl r s)
      ∨ (regionOf s.mp r ≠ .inside 8 ∧ (handOver r s = s ∨ ∃ w, handOver r s = handObserver w r s)) := by
  by_cases control : regionOf s.mp r = .inside 8
  · exact .inl ⟨control, handOver_control control⟩
  · refine .inr ⟨control, ?_⟩
    unfold handOver
    split
    · rename_i k hk
      have not_control : k ≠ controlIndex := fun e => control (hk.trans (congrArg _ e))
      simp only [not_control, if_false]
      cases windowAt s.mp k with
      | none => exact .inl rfl
      | some w => exact .inr ⟨w, rfl⟩
    · exact .inl rfl
    · exact .inl rfl

/-- Reads have no beats to hand over. -/
theorem offsetBeats_read {r : Request} (base : Nat) (h : r.access.isWrite = false) : offsetBeats base r = [] := by
  unfold offsetBeats
  cases hr : r.access with
  | read n => rfl
  | write beats => simp [hr, Access.isWrite] at h

theorem offsetBeats_write {r : Request} {beats : List WBeat} (base : Nat) (h : r.access = .write beats) :
    offsetBeats base r = beats.zipIdx.map fun b => (r.addr + 8 * b.2 - base, b.1) := by simp only [offsetBeats, h]

/-- Handing over touches the beats of the command unit and the inboxes of the observers alone. -/
theorem handOver_parts (r : Request) (s : State) : ∃ beats audio caption, handOver r s = { s with
    cu := { s.cu with beats := beats }, ao := { s.ao with inbox := audio }, ca := { s.ca with inbox := caption } } := by
  obtain ⟨-, e⟩ | ⟨-, e | ⟨w, e⟩⟩ := handOver_cases r s
  · exact ⟨_, s.ao.inbox, s.ca.inbox, e⟩
  · exact ⟨s.cu.beats, s.ao.inbox, s.ca.inbox, e⟩
  · obtain e' | ⟨-, -, e'⟩ | ⟨-, -, e'⟩ := handObserver_cases w r s
    · exact ⟨s.cu.beats, s.ao.inbox, s.ca.inbox, e.trans e'⟩
    · exact ⟨s.cu.beats, s.ao.inbox, _, e.trans e'⟩
    · exact ⟨s.cu.beats, _, s.ca.inbox, e.trans e'⟩

/-- A read is handed to nobody. -/
theorem handOver_read {r : Request} {s : State} (h : r.access.isWrite = false) : handOver r s = s := by
  obtain ⟨-, e⟩ | ⟨-, e | ⟨w, e⟩⟩ := handOver_cases r s
  · simp [e, handControl, offsetBeats_read _ h]
  · exact e
  · obtain e' | ⟨-, -, e'⟩ | ⟨-, -, e'⟩ := handObserver_cases w r s <;> simp [e, e', offsetBeats_read _ h]

/-- Only a control-page request reaches the command unit. -/
theorem handOver_cu {r : Request} {s : State} (h : regionOf s.mp r ≠ .inside 8) : (handOver r s).cu = s.cu := by
  obtain ⟨control, -⟩ | ⟨-, e | ⟨w, e⟩⟩ := handOver_cases r s
  · exact absurd control h
  · rw [e]
  · obtain e' | ⟨-, -, e'⟩ | ⟨-, -, e'⟩ := handObserver_cases w r s <;> rw [e, e']

/-- A control-page request reaches no observer. -/
theorem handOver_control_observers {r : Request} {s : State} (h : regionOf s.mp r = .inside 8) :
    (handOver r s).ca = s.ca ∧ (handOver r s).ao = s.ao := by
  rw [handOver_control h]
  exact ⟨rfl, rfl⟩

end Sys2Proof.Machine

open Sys2Proof Sys2Proof.Machine in
/-- Settles O8: the count and the report are fixed before the request joins the ones in flight. -/
theorem blockedRequest : Obligations.BlockedRequest := by
  intro s r k reason hr wf judged hk count due answer s'
  have hdue : accessReportDue s k = due := accessReportDue_eq s k
  have hcount : satAdd (blockedCount s.mp k) 1 = count := satAdd_one _
  have hcounted : blockedCount (chargeBlock k s).mp k = count := (blockedCount_chargeBlock hk s).trans hcount
  have taken : takeRequest r s = blockRequest (some k) reason r s := by simp only [takeRequest, judged]
  rw [exec_request hr wf, taken]
  cases h : accessReportDue s k with
  | true =>
    have hd : due = true := hdue.symm.trans h
    rw [blockRequest_due _ _ h, reportBlock_eq _ _ hcounted, chargeBlock_eq hcount]
    simp only [s', hd, if_true]
    rfl
  | false =>
    have hd : due = false := hdue.symm.trans h
    rw [blockRequest_not_due _ _ h, chargeBlock_eq hcount]
    simp only [s', hd]
    rfl

open Sys2Proof Sys2Proof.Machine in
/-- Settles O9: handing over touches the inboxes and control beats alone, and the progress is decided by the own writes met. -/
theorem forwardedRequest : Obligations.ForwardedRequest := by
  intro s r hr wf judged met presented
  have taken : takeRequest r s = addTxn r (forwardProgress s.mp r) (handOver r s) := by
    simp only [takeRequest, judged, forwardRequest]
  obtain ⟨beats, audio, caption, parts⟩ := handOver_parts r s
  refine ⟨forwardProgress s.mp r, ?_, ?_, ?_, _, (exec_request hr wf).trans (congrArg _ taken), ?_, ?_, ?_, ?_, ?_, ?_, ?_, ?_, ?_⟩
  · rintro (write | clear)
    · exact forwardProgress_write write
    · exact forwardProgress_clear clear
  · intro read ne free
    refine (forwardProgress_read read ne).trans (if_neg fun h => ?_)
    obtain ⟨u, hu, master, on, hp⟩ := (master_awaits_iff _ _).mp h
    exact not_or.mpr (free u hu master on) hp
  · exact fun read ne waits => (forwardProgress_read read ne).trans (if_pos ((master_awaits_iff _ _).mpr waits))
  · rw [addTxn_mp, parts]
  · rw [parts]; rfl
  · rw [parts]; rfl
  · rw [parts]; rfl
  · rw [parts]; rfl
  · intro beats write control
    rw [handOver_control control]
    simp only [addTxn_frame, handControl, offsetBeats_write _ write, List.map_map]
    rfl
  · rintro (elsewhere | read)
    · simp only [addTxn_frame, handOver_cu elsewhere]
    · simp only [addTxn_frame, handOver_read read]
  · intro k w beats slot write inside hw watched
    simp only [addTxn_frame, handOver_slot slot inside hw]
    refine ⟨fun ⟨kind, seen⟩ => ?_, fun ⟨kind, seen⟩ => ?_, fun h => ?_, fun h => ?_⟩
    · simp only [handObserver_caption seen kind, offsetBeats_write _ write, List.map_map]
      rfl
    · simp only [handObserver_audio seen kind, offsetBeats_write _ write, List.flatMap_map]
      rfl
    · obtain e | ⟨kind, seen, -⟩ | ⟨-, -, e⟩ := handObserver_cases w r s
      · rw [e]
      · exact absurd seen (h.resolve_left (not_not.mpr kind))
      · rw [e]
    · obtain e | ⟨-, -, e⟩ | ⟨kind, seen, -⟩ := handObserver_cases w r s
      · rw [e]
      · rw [e]
      · exact absurd seen (h.resolve_left (not_not.mpr kind))
  · simp only [addTxn_frame]
    rintro (read | control | outside)
    · rw [handOver_read read]
      exact ⟨rfl, rfl⟩
    · exact handOver_control_observers control
    · rw [handOver_outside outside]
      exact ⟨rfl, rfl⟩
end

section
set_option Elab.async false

namespace Sys2Proof.Machine

/-! ### The touched segments (R10, R139) -/

/-- A RECORD-window request that goes on to the segment check is a write. -/
theorem judge_checkSegments_write {s : State} {r : Request} {slot : Nat} {w : Window} (h : judge s r = .checkSegments slot w) :
    ∃ beats, r.access = .write beats := by
  cases hr : r.access with
  | write beats => exact ⟨beats, rfl⟩
  | read n =>
    have read : r.access.isWrite = false := by rw [hr]; rfl
    unfold judge at h
    (repeat' split at h) <;> try cases h
    rw [judgeWindow_read read] at h
    split at h <;> cases h

/-- The beats of a write from an address lie in the segments of a size, counted from a base. -/
theorem beats_touch (addr base size : Nat) (beats : List WBeat) (i : Nat) :
    touchesSegment (beats.zipIdx.map fun p => ⟨(addr + 8 * p.2 - base) / size, enabledBytes p.1.enables⟩) i = true
      ↔ ∃ k < beats.length, (addr + 8 * k - base) / size = i := by
  simp only [touchesSegment, List.any_map, List.any_eq_true, Function.comp, beq_iff_eq, Prod.exists,
    List.mem_zipIdx_iff_getElem?, List.getElem?_eq_some_iff]
  constructor
  · rintro ⟨b, k, ⟨hk, -⟩, e⟩
    exact ⟨k, hk, e⟩
  · rintro ⟨k, hk, e⟩
    exact ⟨beats[k], k, ⟨hk, rfl⟩, e⟩

theorem touches_write {w : Window} {r : Request} {beats : List WBeat} (h : r.access = .write beats) :
    touches w r = beats.zipIdx.map fun p =>
      ⟨(r.addr + 8 * p.2 - w.base) / (w.segSize * 2 ^ 20), enabledBytes p.1.enables⟩ := by
  have mebibyte : (2 : Nat) ^ 20 = 1048576 := by norm_num
  simp only [touches, h, mebibyte]
  rfl

/-- A write touches the segments in which its beats lie. -/
theorem touchesSegment_iff {w : Window} {r : Request} {beats : List WBeat} (h : r.access = .write beats) (i : Nat) :
    touchesSegment (touches w r) i = true
      ↔ ∃ k < r.access.length, (r.addr + 8 * k - w.base) / (w.segSize * 2 ^ 20) = i := by
  rw [touches_write h, beats_touch, h]
  rfl

theorem isKept_iff (g : Segment) : isKept g = true ↔ g.state = .held ∨ g.state = .exporting := by
  simp only [isKept, Bool.or_eq_true, beq_iff_eq]

/-! ### A blocked write is counted at each kept segment that it touches (R140) -/

/-- A segment's record after a blocked write. -/
def counted (g : Segment) : Segment := { g with blocked := satAdd g.blocked 1, blockedMark := true }

/-- The report unit after a blocked write at a segment, which reports once for each stay. -/
def toldBlocked (r : Request) (s : State) (ru : Reports) (g : Segment) : Reports :=
  if g.blockedMark then ru
  else takeOffer (.recordBlocked (counted g) r.master r.addr s.tb.time (openId s)) s.tb.time ru

/-- A table with the record of a segment after a blocked write. -/
def putCounted (table : List Segment) (g : Segment) : List Segment := table.set g.index (counted g)

theorem countBlocked_found (r : Request) {s : State} {g : Segment} (h : s.rc.table[g.index]? = some g) :
    countBlocked r s g.index = { s with
      rc := { s.rc with table := putCounted s.rc.table g }, ru := toldBlocked r s s.ru g } := by
  simp only [countBlocked, h, toldBlocked]
  split <;> rfl

/-- A blocked write at several segments, each of which stands at its index. -/
theorem countBlocked_fold (r : Request) : ∀ (l : List Segment) (s : State), (l.map (·.index)).Nodup →
    (∀ g ∈ l, s.rc.table[g.index]? = some g) →
    (l.map (·.index)).foldl (countBlocked r) s = { s with
      rc := { s.rc with table := l.foldl putCounted s.rc.table }, ru := l.foldl (toldBlocked r s) s.ru }
  | [], _, _, _ => rfl
  | g :: l, s, nodup, stands => by
    simp only [List.map_cons, List.nodup_cons] at nodup
    rw [List.map_cons, List.foldl_cons, countBlocked_found r (stands g (by simp)), countBlocked_fold r l _ nodup.2]
    · rfl
    · intro h hh
      have ne : g.index ≠ h.index := fun e => nodup.1 (e ▸ List.mem_map_of_mem hh)
      simpa [putCounted, ne] using stands h (by simp [hh])

theorem putCounted_fold_length (l table : List Segment) : (l.foldl putCounted table).length = table.length := by
  induction l generalizing table with
  | nil => rfl
  | cons g l ih => simp [ih, putCounted]

/-- Segments that the write does not touch keep their records. -/
theorem putCounted_fold_other (l : List Segment) {table : List Segment} {i : Nat} (h : ∀ g ∈ l, g.index ≠ i) :
    (l.foldl putCounted table)[i]? = table[i]? := by
  induction l generalizing table with
  | nil => rfl
  | cons g l ih =>
    rw [List.foldl_cons, ih fun a ha => h a (by simp [ha])]
    simp [putCounted, h g (by simp)]

theorem putCounted_fold_mem {l table : List Segment} {g : Segment} (nodup : (l.map (·.index)).Nodup) (hg : g ∈ l)
    (there : g.index < table.length) : (l.foldl putCounted table)[g.index]? = some (counted g) := by
  induction l generalizing table with
  | nil => simp at hg
  | cons h l ih =>
    simp only [List.map_cons, List.nodup_cons, List.mem_map, not_exists, not_and] at nodup
    obtain rfl | hg := List.mem_cons.mp hg
    · rw [List.foldl_cons, putCounted_fold_other l nodup.1]
      simp [putCounted, there]
    · exact ih nodup.2 hg (by simpa [putCounted] using there)

/-- The segments whose records stand in ascending order are known by their members. -/
theorem eq_of_ascending {l m : List Segment} (hl : l.Pairwise (·.index < ·.index)) (hm : m.Pairwise (·.index < ·.index))
    (same : ∀ g, g ∈ l ↔ g ∈ m) : l = m := by
  have : Std.Irrefl fun g h : Segment => g.index < h.index := ⟨fun _ => Nat.lt_irrefl _⟩
  have : Std.Antisymm fun g h : Segment => g.index < h.index := ⟨fun _ _ a b => absurd a (Nat.lt_asymm b)⟩
  exact hl.eq_of_mem_iff hm same

/-- The touched segments that are HELD or EXPORT, in the order of the table. -/
def blockers (ts : List Touch) (table : List Segment) : List Segment :=
  table.filter fun g => touchesSegment ts g.index && isKept g

theorem mem_blockers {ts : List Touch} {table : List Segment} {g : Segment} :
    g ∈ blockers ts table ↔ g ∈ table ∧ touchesSegment ts g.index = true ∧ isKept g = true := by
  simp only [blockers, List.mem_filter, Bool.and_eq_true]

/-- A table whose records stand at their index is in ascending order. -/
theorem ascending_of_indexed {table : List Segment} (h : ∀ (i : Nat) (g : Segment), table[i]? = some g → g.index = i) :
    table.Pairwise (·.index < ·.index) := by
  refine List.pairwise_iff_getElem.mpr fun i j hi hj lt => ?_
  rw [h i _ (List.getElem?_eq_getElem hi), h j _ (List.getElem?_eq_getElem hj)]
  exact lt

theorem getElem?_of_indexed {table : List Segment} (h : ∀ (i : Nat) (g : Segment), table[i]? = some g → g.index = i) {g : Segment}
    (hg : g ∈ table) : table[g.index]? = some g := by
  obtain ⟨i, hi⟩ := List.mem_iff_getElem?.mp hg
  rw [h i g hi]
  exact hi

theorem blockRecordWrite_eq (r : Request) (ts : List Touch) {s : State}
    (indexed : ∀ (i : Nat) (g : Segment), s.rc.table[i]? = some g → g.index = i) : blockRecordWrite r ts s = { s with
      rc := { s.rc with table := (blockers ts s.rc.table).foldl putCounted s.rc.table }
      ru := (blockers ts s.rc.table).foldl (toldBlocked r s) s.ru } := by
  refine countBlocked_fold r _ s ?_ fun g hg => getElem?_of_indexed indexed (List.mem_filter.mp hg).1
  exact List.pairwise_map.mpr (((ascending_of_indexed indexed).filter _).imp Nat.ne_of_lt)

/-- Segments that have reported in their stay do not report again. -/
theorem toldBlocked_fold_marked {r : Request} {s : State} {l : List Segment} (ru : Reports)
    (marked : ∀ g ∈ l, g.blockedMark = true) : l.foldl (toldBlocked r s) ru = ru := by
  induction l with
  | nil => rfl
  | cons g l ih =>
    rw [List.foldl_cons, toldBlocked, if_pos (marked g (by simp))]
    exact ih fun h hh => marked h (by simp [hh])

/-- A write that meets a kept segment is acknowledged and counted at the slot. -/
theorem presentWrite_blocked {w : Window} {r : Request} {s : State} (slot : Nat)
    (h : recorderBlocks (touches w r) s.rc.table = true) : presentWrite slot w r s
      = addTxn r (.answered .ack) (blockRecordWrite r (touches w r) (chargeBlock slot s)) := if_pos h

end Sys2Proof.Machine

open Sys2Proof Sys2Proof.Machine in
/-- Settles O46: the records stand at their index, so the touched kept segments are counted apart from each other, lower
index first. -/
theorem heldSegmentsBlockWrites : Obligations.HeldSegmentsBlockWrites := by
  intro s r slot w hr wf recorder judged _ touched kept ⟨b, hb, hbt, hbk⟩
  obtain ⟨records, -, -, -⟩ := recorder
  have indexed : ∀ (i : Nat) (g : Segment), s.rc.table[i]? = some g → g.index = i := fun i g h => (records i g h).1
  obtain ⟨beats, write⟩ := judge_checkSegments_write judged
  have hits (g : Segment) : g ∈ blockers (touches w r) s.rc.table ↔ g ∈ s.rc.table ∧ touched g.index ∧ kept g := by
    rw [mem_blockers, touchesSegment_iff write, isKept_iff]
  have ascending : (blockers (touches w r) s.rc.table).Pairwise (·.index < ·.index) := (ascending_of_indexed indexed).filter _
  have nodup : ((blockers (touches w r) s.rc.table).map (·.index)).Nodup :=
    List.pairwise_map.mpr (ascending.imp Nat.ne_of_lt)
  have blocks : recorderBlocks (touches w r) s.rc.table = true := by
    obtain ⟨-, ht, hk⟩ := mem_blockers.mp ((hits b).mpr ⟨hb, hbt, hbk⟩)
    exact List.any_eq_true.mpr ⟨b, hb, by rw [ht, hk]; rfl⟩
  have taken : takeRequest r s
      = addTxn r (.answered .ack) (blockRecordWrite r (touches w r) (chargeBlock slot s)) := by
    simp only [takeRequest, judged, presentWrite_blocked slot blocks]
  rw [blockRecordWrite_eq r (touches w r) (s := chargeBlock slot s) indexed] at taken
  refine ⟨_, (exec_request hr wf).trans (congrArg _ taken), rfl, rfl, rfl, putCounted_fold_length .., ?_, ?_, ?_, ?_⟩
  · intro i g hg
    obtain rfl := indexed i g hg
    have there : g.index < s.rc.table.length := (List.getElem?_eq_some_iff.mp hg).1
    refine ⟨fun ⟨ht, hk⟩ => ?_, fun spared => ?_⟩
    · exact putCounted_fold_mem nodup ((hits g).mpr ⟨List.mem_of_getElem? hg, ht, hk⟩) there
    · refine (putCounted_fold_other _ fun h hh e => spared ?_).trans hg
      obtain ⟨hm, ht, hk⟩ := (hits h).mp hh
      have same := getElem?_of_indexed indexed hm
      rw [e, hg, Option.some.injEq] at same
      exact same ▸ ⟨ht, hk⟩
  · exact fun marked => toldBlocked_fold_marked _ fun g hg => by
      obtain ⟨hm, ht, hk⟩ := (hits g).mp hg
      exact marked g hm ht hk
  · intro g hg ht hk unmarked only
    have alone : blockers (touches w r) s.rc.table = [g] := by
      refine eq_of_ascending ascending (List.pairwise_singleton ..) fun h => ?_
      rw [hits, List.mem_singleton]
      exact ⟨fun ⟨hm, ht, hk⟩ => only h hm ht hk, fun e => e ▸ ⟨hg, ht, hk⟩⟩
    have told : toldBlocked r s s.ru g = _ := if_neg (by rw [unmarked]; decide)
    exact (congrArg (List.foldl (toldBlocked r s) s.ru) alone).trans told
  · intro told g hg h hh gt gk ht hk lt only
    have both : blockers (touches w r) s.rc.table = [g, h] := by
      refine eq_of_ascending ascending (by simpa using lt) fun k => ?_
      rw [hits, List.mem_cons, List.mem_singleton]
      refine ⟨fun ⟨hm, ht, hk⟩ => only k hm ht hk, ?_⟩
      rintro (rfl | rfl)
      · exact ⟨hg, gt, gk⟩
      · exact ⟨hh, ht, hk⟩
    exact congrArg (List.foldl (toldBlocked r s) s.ru) both
end

section
set_option Elab.async false

namespace Sys2Proof.Machine

/-! ### The unit in progress at a change of the REPORT window (R160, R172) -/

/-- A 32-bit count as a number: the sum, or the largest value. -/
theorem satAdd_toNat (x : BitVec 32) (k : Nat) : (satAdd x k).toNat = min (2 ^ 32 - 1) (x.toNat + k) := by
  unfold satAdd
  split
  · rw [BitVec.toNat_add, BitVec.toNat_ofNat, Nat.add_mod_mod, Nat.mod_eq_of_lt ‹_›]
    omega
  · rw [BitVec.toNat_allOnes]
    omega

/-- The outcomes of commands are the reports of kinds 1 and 2 (section 11.5). -/
theorem isOutcome_of_kindCode {r : Report} (h : kindCode r = 1 ∨ kindCode r = 2) : isOutcome r = true := by
  cases r <;> simp_all [kindCode, isOutcome]

theorem abandonUnit_idle {ru : Reports} (h : ru.current = none) : abandonUnit ru = ru := by simp only [abandonUnit, h]

theorem abandonUnit_image {ru : Reports} {u : UnitInProgress} (h : ru.current = some u) (image : u.image = true) :
    abandonUnit ru = { ru with current := none, imageDue := true } := by simp only [abandonUnit, h, image, if_true]

theorem abandonUnit_unqueued {ru : Reports} {u : UnitInProgress} (h : ru.current = some u) (image : u.image = false)
    (hq : ru.queue = []) : abandonUnit ru = { ru with current := none } := by
  simp only [abandonUnit, h, image, hq, Bool.false_eq_true, if_false]

/-- A record that was begun leaves the queue as dropped, and a LOST record's count is added back. -/
theorem abandonUnit_record {ru : Reports} {u : UnitInProgress} {q : QueuedReport} {rest : List QueuedReport}
    (h : ru.current = some u) (image : u.image = false) (hq : ru.queue = q :: rest) :
    abandonUnit ru = dropReport q.report
      { ru with current := none, queue := rest, lostCount := satAdd ru.lostCount (u.lost.getD 0).toNat } := by
  simp only [abandonUnit, h, image, hq, Bool.false_eq_true, if_false]
  cases u.lost <;> rfl

/-- What abandoning a unit touches in the report unit. -/
theorem abandonUnit_frame (ru : Reports) : abandonUnit ru = { ru with
    current := none, queue := (abandonUnit ru).queue, lostCount := (abandonUnit ru).lostCount
    flags := (abandonUnit ru).flags, latch := (abandonUnit ru).latch, imageDue := (abandonUnit ru).imageDue } := by
  cases h : ru.current with
  | none => rw [abandonUnit_idle h, ← h]
  | some u =>
    cases image : u.image with
    | true => rw [abandonUnit_image h image]
    | false =>
      cases hq : ru.queue with
      | nil => rw [abandonUnit_unqueued h image hq]
      | cons q rest =>
        rw [abandonUnit_record h image hq]
        rfl

/-- An image in progress leaves the queue of reports alone, and so does a unit that no report stands for. -/
theorem abandonUnit_quiet {ru : Reports}
    (h : ru.current = none ∨ ∃ u, ru.current = some u ∧ (u.image = true ∨ ru.queue = [])) :
    (abandonUnit ru).queue = ru.queue ∧ (abandonUnit ru).lostCount = ru.lostCount ∧ (abandonUnit ru).flags = ru.flags
      ∧ (abandonUnit ru).latch = ru.latch := by
  obtain idle | ⟨u, hu, image | hq⟩ := h
  · rw [abandonUnit_idle idle]
    exact ⟨rfl, rfl, rfl, rfl⟩
  · rw [abandonUnit_image hu image]
    exact ⟨rfl, rfl, rfl, rfl⟩
  · cases image : u.image with
    | true => rw [abandonUnit_image hu image]; exact ⟨rfl, rfl, rfl, rfl⟩
    | false => rw [abandonUnit_unqueued hu image hq]; exact ⟨rfl, rfl, rfl, rfl⟩

/-! ### The new window of a kind (R6) -/

theorem newOfKind_some {k : WindowKind} {new : Option Window} {v : Window} (h : new = some v) (kind : v.kind = k) :
    newOfKind k new = some v := by
  rw [h, newOfKind, Option.filter_some_pos (by simpa using kind)]

theorem newOfKind_none {k : WindowKind} {new : Option Window} (h : ∀ v, new = some v → v.kind ≠ k) :
    newOfKind k new = none :=
  Option.filter_eq_none_iff.mpr fun v hv => by simpa using h v hv

theorem newOfKind_isSome (k : WindowKind) (new : Option Window) : (newOfKind k new).isSome = new.any (·.kind == k) := by
  cases new with
  | none => rfl
  | some v => cases h : v.kind == k <;> simp [newOfKind, Option.filter, h]

end Sys2Proof.Machine

open Sys2Proof Sys2Proof.Machine in
/-- Settles O24: each owner's part of the new state depends on whether the commit involves its kind. -/
theorem windowCommitTellsOwners : Obligations.WindowCommitTellsOwners := by
  intro s slot new hs t involves
  have told {k : WindowKind} (h : involves k) : kindChanges k (windowAt s.mp slot) new = true := kindChanges_iff.mpr h
  have untold {k : WindowKind} (h : ¬ involves k) : ¬ kindChanges k (windowAt s.mp slot) new = true :=
    fun c => h (kindChanges_iff.mp c)
  have holds := commitWindow_windowAt s new hs
  refine ⟨?_, commitWindow_mp slot new s, (holds slot).trans (if_pos rfl), fun j ne => (holds j).trans (if_neg ne),
    fun h => ?_, fun h => ?_, fun h => ?_, fun h => ?_, fun h => ?_, fun h => ?_, fun h => ?_, fun h => ?_⟩
  · obtain ⟨pending, reset, cu, tb, su⟩ := commitWindow_frame slot new s
    rw [← pending, ← reset, ← cu, ← tb, ← su]
  · exact ⟨(commitWindow_ao slot new s).trans (if_neg (untold h)), (commitWindow_lu slot new s).trans (if_neg (untold h)),
      (commitWindow_ag slot new s).trans (if_neg (untold h))⟩
  · exact ⟨(commitWindow_ao slot new s).trans (if_pos (told h)), (commitWindow_lu slot new s).trans (if_pos (told h)),
      (commitWindow_ag slot new s).trans (if_pos (told h))⟩
  · exact (commitWindow_ca slot new s).trans (if_neg (untold h))
  · rw [← newOfKind_isSome]
    exact (commitWindow_ca slot new s).trans (if_pos (told h))
  · exact (commitWindow_rc slot new s).trans (if_neg (untold h))
  · have rc : t.rc = _ := (commitWindow_rc slot new s).trans (if_pos (told h))
    refine ⟨fun v hv kind => ?_, fun other => ?_⟩
    · rw [rc, newOfKind_some hv kind]
      rfl
    · rw [rc, newOfKind_none other]
      rfl
  · exact (commitWindow_ru slot new s).trans (if_neg (untold h))
  · have ru : t.ru = reportWindowChanged (newOfKind .report new) s.ru := (commitWindow_ru slot new s).trans (if_pos (told h))
    rw [ru]
    refine ⟨?_, abandonUnit_quiet, fun u hu image => ?_, fun u q rest hu image hq => ?_, fun v hv kind => ?_, fun other => ?_⟩
    · unfold reportWindowChanged
      dsimp only
      rw [abandonUnit_frame]
    · simp [reportWindowChanged, abandonUnit_image hu image]
    · have e := abandonUnit_record hu image hq
      simp only [reportWindowChanged, e]
      refine ⟨rfl, ?_, rfl, rfl, fun outcome => ?_⟩
      · rw [(dropReport_frame _ _).2.2.2.2.2.1, satAdd_toNat, satAdd_toNat]
        omega
      · simp [isOutcome_of_kindCode outcome]
    · rw [newOfKind_some hv kind]
      exact ⟨rfl, by simp [reportWindowChanged]⟩
    · rw [newOfKind_none other]
      rfl
end

section
set_option Elab.async false

namespace Sys2Proof.Machine

/-! ### The staged kind and the slot it goes to (R5, section 11.3) -/

theorem kindOfCode_past {n : Nat} (h : 5 < n) : kindOfCode n = none := by
  obtain ⟨m, rfl⟩ := Nat.exists_eq_add_of_lt h
  rw [show 5 + m + 1 = m + 6 by omega]
  rfl

/-- The codes of the five kinds of window. -/
theorem kindOfCode_eq {k : WindowKind} {n : Nat}
    (h : (k, n) ∈ [(WindowKind.audio, 1), (.caption, 2), (.record, 3), (.report, 4), (.guard, 5)]) :
    kindOfCode n = some (some k) := by
  simp only [List.mem_cons, Prod.mk.injEq, List.not_mem_nil, or_false] at h
  obtain ⟨rfl, rfl⟩ | ⟨rfl, rfl⟩ | ⟨rfl, rfl⟩ | ⟨rfl, rfl⟩ | ⟨rfl, rfl⟩ := h <;> rfl

theorem stagesGuardOrEmpty_iff (w : StagedWindow) : stagesGuardOrEmpty w = true ↔ w.kindCode = 0 ∨ w.kindCode = 5 := by
  unfold stagesGuardOrEmpty kindOfCode
  split <;> simp_all

theorem guardOrEmpty_iff (old : Option Window) : guardOrEmpty old = true ↔ ∀ v, old = some v → v.kind = .guard := by
  cases old <;> simp [guardOrEmpty]

theorem holdsPresent_iff (slot : Nat) (s : State) : holdsPresent slot s = true ↔
    (∃ v, windowAt s.mp slot = some v ∧ v.kind = .record) ∧ ∃ g ∈ s.rc.table, g.state = .held ∨ g.state = .exporting := by
  unfold holdsPresent
  cases windowAt s.mp slot <;> simp [isKept_iff]

/-- In LIVE and REPLAY a slot is frozen but for GUARD windows and empty slots on both sides (R5). -/
def slotFrozen (w : StagedWindow) (s : State) : Bool :=
  observing s && !(guardOrEmpty (windowAt s.mp w.slot) && stagesGuardOrEmpty w)

theorem slotFrozen_iff (w : StagedWindow) (s : State) : slotFrozen w s = true ↔
    s.cu.mode ≠ .off ∧ ¬ ((∀ v, windowAt s.mp w.slot = some v → v.kind = .guard) ∧ (w.kindCode = 0 ∨ w.kindCode = 5)) := by
  rw [← guardOrEmpty_iff, ← stagesGuardOrEmpty_iff, ← Bool.and_eq_true, Bool.not_eq_true, slotFrozen, observing,
    Bool.and_eq_true, bne_iff_ne, Bool.not_eq_true']

/-! ### A well-formed descriptor (R4, log 22) -/

/-- A feeding master below 15 stands in a mask by its number. -/
theorem inSet_ofNat {n : Nat} (h : n ≤ 14) (set : MasterSet) : inSet (BitVec.ofNat 4 n) set = set.getLsbD n := by
  have number : (BitVec.ofNat 4 n).toNat = n := by
    rw [BitVec.toNat_ofNat]
    omega
  have low : BitVec.ofNat 4 n ≠ 15 := fun e => by
    rw [e] at number
    exact absurd (number ▸ h : (15#4).toNat ≤ 14) (by decide)
  rw [inSet, number, bne_iff_ne.mpr low, Bool.true_and]

theorem sizeOk_iff (w : StagedWindow) :
    sizeOk w = true ↔ 1 ≤ w.pages ∧ w.pages ≤ 16777215 ∧ (w.basePage + w.pages) * 4096 ≤ 2 ^ 36 := by
  simp only [sizeOk, Bool.and_eq_true, decide_eq_true_eq, and_assoc]
  rfl

theorem feedingOk_iff (k : WindowKind) (w : StagedWindow) : feedingOk k w = true ↔
    (k = .audio ∨ k = .caption ∨ k = .record → w.feeding ≤ 14 ∧ w.writeMask.getLsbD w.feeding = true) := by
  have fed : (decide (w.feeding ≤ 14) && inSet (BitVec.ofNat 4 w.feeding) w.writeMask) = true
      ↔ w.feeding ≤ 14 ∧ w.writeMask.getLsbD w.feeding = true := by
    rw [Bool.and_eq_true, decide_eq_true_eq]
    exact and_congr_right fun h => by rw [inSet_ofNat h]
  cases k with
  | audio | caption | record => exact fed.trans (by simp)
  | report | guard => simp [feedingOk]

theorem masksOk_iff (k : WindowKind) (w : StagedWindow) : masksOk k w = true ↔
    w.writeMask.getLsbD 15 = false ∧ w.readMask.getLsbD 15 = false ∧ (k = .record → w.archiveMask.getLsbD 15 = false) := by
  simp only [masksOk, namesMaster15, Bool.and_eq_true, Bool.not_eq_true', Bool.and_eq_false_imp, beq_iff_eq, and_assoc]

theorem kindSizeOk_iff (k : WindowKind) (w : StagedWindow) : kindSizeOk k w = true ↔
    (k = .report → 2 ≤ w.pages ∧ w.pages ≤ 256)
      ∧ (k = .record → 4 ≤ w.segCount ∧ w.segCount ≤ 64 ∧ 1 ≤ w.segSize ∧ w.segSize ≤ 256
          ∧ w.pages = w.segCount * w.segSize * 256) := by
  cases k <;> simp [kindSizeOk, and_assoc]

theorem kindFree_iff (k : WindowKind) (slot : Nat) (mp : MemPath) : kindFree k slot mp = true ↔
    k = .guard ∨ ∀ j v, j < 8 → j ≠ slot → windowAt mp j = some v → v.kind ≠ k := by
  simp only [kindFree, Bool.or_eq_true, beq_iff_eq, List.all_eq_true, mem_otherWindows, bne_iff_ne]
  refine or_congr_right ⟨fun h j v hj ne hv => h v ⟨j, hj, ne, hv⟩, ?_⟩
  rintro h v ⟨j, hj, ne, hv⟩
  exact h j v hj ne hv

/-- A staged descriptor shares a byte with the control page or with another slot's window (R5). -/
theorem overlapsOther_iff (w : StagedWindow) (mp : MemPath) : overlapsOther w mp = true ↔
    (w.basePage * 4096 < mp.ctlBase + 4096 ∧ mp.ctlBase < (w.basePage + w.pages) * 4096)
      ∨ ∃ j v, j < 8 ∧ j ≠ w.slot ∧ windowAt mp j = some v
          ∧ w.basePage * 4096 < v.stop ∧ v.base < (w.basePage + w.pages) * 4096 := by
  simp only [overlapsOther, rangesMeet, Bool.or_eq_true, Bool.and_eq_true, decide_eq_true_eq, List.any_eq_true, mem_otherWindows]
  refine or_congr_right ⟨?_, ?_⟩
  · rintro ⟨v, ⟨j, hj, ne, hv⟩, meet⟩
    exact ⟨j, v, hj, ne, hv, meet⟩
  · rintro ⟨j, v, hj, ne, hv, meet⟩
    exact ⟨v, ⟨j, hj, ne, hv⟩, meet⟩

theorem descriptorOk_iff (k : WindowKind) (w : StagedWindow) (mp : MemPath) : descriptorOk k w mp = true ↔
    sizeOk w = true ∧ feedingOk k w = true ∧ masksOk k w = true ∧ kindSizeOk k w = true ∧ kindFree k w.slot mp = true := by
  simp only [descriptorOk, Bool.and_eq_true, and_assoc]

/-- The feeding master as it is stored: the low four bits of its field (section 11.3). -/
theorem feeding_stored (word : Beat) :
    BitVec.ofNat 4 (word.extractLsb' 16 8).toNat = word.extractLsb' 16 4 := by
  refine BitVec.eq_of_toNat_eq ?_
  rw [BitVec.toNat_ofNat, BitVec.extractLsb'_toNat, BitVec.extractLsb'_toNat]
  exact Nat.mod_mod_of_dvd _ (by decide)

/-! ### The checks in their order (R5) -/

theorem ownWindow_badSlot {it : CmdItem} {s : State} (h : 7 < (stagedWindow it).slot) :
    ownWindow it s = .error .badValue := if_pos h

theorem ownWindow_frozen {it : CmdItem} {s : State} (slot : (stagedWindow it).slot ≤ 7)
    (frozen : slotFrozen (stagedWindow it) s = true) : ownWindow it s = .error .busyLive :=
  (if_neg (Nat.not_lt.mpr slot)).trans (if_pos frozen)

theorem ownWindow_holds {it : CmdItem} {s : State} (slot : (stagedWindow it).slot ≤ 7)
    (thawed : ¬ slotFrozen (stagedWindow it) s = true) (holds : holdsPresent (stagedWindow it).slot s = true) :
    ownWindow it s = .error .holdsPresent :=
  (if_neg (Nat.not_lt.mpr slot)).trans ((if_neg thawed).trans (if_pos holds))

/-- The slot of a staged WINDOW may change (R5). -/
structure SlotOpen (w : StagedWindow) (s : State) : Prop where
  slot : w.slot ≤ 7
  thawed : ¬ slotFrozen w s = true
  released : ¬ holdsPresent w.slot s = true

section
variable {it : CmdItem} {s : State}

theorem ownWindow_unknown (h : SlotOpen (stagedWindow it) s) (kind : kindOfCode (stagedWindow it).kindCode = none) :
    ownWindow it s = .error .badDescriptor := by
  refine (if_neg (Nat.not_lt.mpr h.slot)).trans ((if_neg h.thawed).trans ((if_neg h.released).trans ?_))
  simp only [kind]

theorem ownWindow_empties (h : SlotOpen (stagedWindow it) s) (kind : kindOfCode (stagedWindow it).kindCode = some none) :
    ownWindow it s = .ok (commitWindow (stagedWindow it).slot none s, 0) := by
  refine (if_neg (Nat.not_lt.mpr h.slot)).trans ((if_neg h.thawed).trans ((if_neg h.released).trans ?_))
  simp only [kind]

/-- A slot that may change takes a staged window that is well formed and meets no other. -/
theorem ownWindow_stages (h : SlotOpen (stagedWindow it) s) {k : WindowKind}
    (kind : kindOfCode (stagedWindow it).kindCode = some (some k)) : ownWindow it s =
      if !descriptorOk k (stagedWindow it) s.mp then .error .badDescriptor
      else if overlapsOther (stagedWindow it) s.mp then .error .overlap
      else .ok (commitWindow (stagedWindow it).slot (some (installed k (stagedWindow it))) s, 0) := by
  refine (if_neg (Nat.not_lt.mpr h.slot)).trans ((if_neg h.thawed).trans ((if_neg h.released).trans ?_))
  simp only [kind]

end

end Sys2Proof.Machine

open Sys2Proof Sys2Proof.Machine in
/-- Settles O23: each check of `ownWindow` says what the spec says of the staged fields, and they are taken in the same order. -/
theorem windowChecksInOrder : Obligations.WindowChecksInOrder := by
  intro s it rest ⟨hr, hq, kind⟩ word w stored old q refused frozen kept first last formed meets
  have row : exec .window s = .next (finishItem it q (ownWindow it q)) :=
    (running_of_ready _ hr).trans (congrArg _ (carryOut_head ownWindow hq (by simp [isKind, kind])))
  have refuse {reason : Reason} (h : ownWindow it q = .error reason) : refused reason := by
    have report : refusedReport it reason = .commandRefused it.tag 32 it.master 0x118 reason := by
      rw [refusedReport, kind]; rfl
    exact row.trans (by rw [h, finishItem, report])
  have done {t : State} (h : ownWindow it q = .ok (t, 0)) :
      exec .window s = .next (offer (.commandDone it.tag 32 it.master 0x118 0) t) := by
    have report : doneReport it 0 = .commandDone it.tag 32 it.master 0x118 0 := by rw [doneReport, kind]; rfl
    exact row.trans (by rw [h, finishItem, report])
  have fed : BitVec.ofNat 4 w.feeding = (word 0).extractLsb' 16 4 := feeding_stored (word 0)
  have staged : stagedWindow it = w := stagedWindow_eq it
  have hformed (k : WindowKind) : descriptorOk k w q.mp = true ↔ formed k := by
    rw [descriptorOk_iff, sizeOk_iff, feedingOk_iff, masksOk_iff, kindSizeOk_iff, kindFree_iff]
    simp only [formed, last, and_assoc]
    rfl
  have hmeets : overlapsOther w q.mp = true ↔ meets := overlapsOther_iff w q.mp
  have hstored (k : WindowKind) : installed k w = stored k := by
    simp only [installed, stored, ← fed]
    cases k <;> rfl
  have hfrozen : slotFrozen w q = true ↔ frozen := slotFrozen_iff w q
  have hkept : holdsPresent w.slot q = true ↔ kept := holdsPresent_iff w.slot q
  clear_value w
  subst staged
  refine ⟨fun bad => refuse (ownWindow_badSlot bad), fun slot h => refuse (ownWindow_frozen slot (hfrozen.mpr h)),
    fun slot thawed h => refuse (ownWindow_holds slot (mt hfrozen.mp thawed) (hkept.mpr h)), fun slot thawed released => ?_⟩
  have free : SlotOpen (stagedWindow it) q := ⟨slot, mt hfrozen.mp thawed, mt hkept.mp released⟩
  refine ⟨fun past => refuse (ownWindow_unknown free (kindOfCode_past past)),
    fun empty => done (ownWindow_empties free (by rw [empty]; rfl)), fun k code => ?_⟩
  have stages := ownWindow_stages free (kindOfCode_eq code)
  refine ⟨fun malformed => refuse ?_, fun ok meet => refuse ?_, fun ok clear => done ?_⟩
  · rw [stages, if_pos (by simpa using mt (hformed k).mp malformed)]
  · rw [stages, (hformed k).mpr ok, hmeets.mpr meet]
    rfl
  · rw [stages, (hformed k).mpr ok, Bool.eq_false_iff.mpr (mt hmeets.mp clear), hstored k]
    rfl
end

section
set_option Elab.async false

namespace Sys2Proof.Machine

/-! ### What the rules of modes and banks see of the part (R30, R31, R43, R90 to R92, R129) -/

/-- What the start compare, the open entry, the closing slots and the banks show of a state: the mode, whether a frame's tick
is marked outside REPLAY, the compare with its firing and the start of the pending head, the open entry with its bank, which
slots are occupied, the banks and the running sums. -/
structure Standing where
  mode : Mode
  stray : Bool
  compare : Option Time
  firing : Option Time
  head : Option Time
  entry : Option (Option Bank)
  slot : Bank → Bool
  bank : Bank → HistBank
  sumN : Nat
  sumS : Histogram

def standing (s : State) : Standing where
  mode := s.cu.mode
  stray := s.tb.frameTick && s.cu.mode != .replay
  compare := s.tb.compare
  firing := s.tb.firing
  head := s.su.queue.head?.map (·.start)
  entry := s.su.openEntry.map (·.bank)
  slot := fun bank => (slotOf s.su bank).isSome
  bank := bankOf s.ag
  sumN := s.ag.sumN
  sumS := s.ag.sumS

namespace Standing

/-- One bank is in order: COLLECTING for the open entry, SCANNING with its slot occupied, or FREE and cleared (R90, R129). -/
structure Fits (v : Standing) (bank : Bank) : Prop where
  ok : (v.bank bank).ok = true
  scanning : (v.bank bank).state = .scanning ↔ v.slot bank = true
  collecting : (v.bank bank).state = .collecting ↔ v.entry = some (some bank)

/-- The running sums are those of the open entry's bank (R92). -/
structure Sums (v : Standing) : Prop where
  total : v.sumN = binTotal v.sumS
  banked : ∀ bank, v.entry = some (some bank) → v.sumS = (v.bank bank).counts
  unbanked : (∀ bank, v.entry ≠ some (some bank)) → v.sumS = []

/-- The banks and the running sums are in order. -/
structure Balanced (v : Standing) : Prop where
  banks : ∀ bank, v.Fits bank
  sums : v.Sums

/-- The compare or its firing stands for the pending head (R43, R121). -/
def Follows (v : Standing) : Prop :=
  match v.firing with
  | none => v.compare = v.head
  | some t => v.compare = none ∧ v.head = some t

/-- The part observes, with an entry open (R30, R43). -/
structure OnAir (v : Standing) : Prop extends v.Balanced where
  mode : v.mode ≠ .off
  marked : v.stray = false
  opened : v.entry.isSome = true
  follows : v.Follows

/-- The open entry leaves, and the bank that it had is scanned (R129). -/
def closed (v : Standing) : Standing :=
  match v.entry with
  | some (some bank) =>
    { v with entry := none, slot := Function.update v.slot bank true,
             bank := Function.update v.bank bank { v.bank bank with state := .scanning } }
  | _ => { v with entry := none }

/-- The bank that an opening takes (R91). -/
def free (v : Standing) : Option Bank :=
  if (v.bank .a).state = .free then some .a else if (v.bank .b).state = .free then some .b else none

/-- An entry opens with the bank that is FREE, if one is (R91, R125). -/
def opens (head : Option Time) (v : Standing) : Standing :=
  { v with
    head := head, entry := some v.free, sumN := 0, sumS := []
    bank := match v.free with
      | some bank => Function.update v.bank bank { v.bank bank with state := .collecting }
      | none => v.bank }

/-- A bank is FREE again, and an open entry without a bank takes it (R96). -/
def scanned (bank : Bank) (v : Standing) : Standing :=
  { v with
    slot := Function.update v.slot bank false
    entry := if v.entry = some none then some (some bank) else v.entry
    bank := Function.update v.bank bank ⟨if v.entry = some none then .collecting else .free, []⟩ }

/-- A block is counted into a bank and the sums (R89, R92). -/
def counts (bank : Bank) (bin : Nat) (v : Standing) : Standing :=
  { v with
    bank := Function.update v.bank bank { v.bank bank with counts := binAdd (v.bank bank).counts bin }
    sumN := v.sumN + 1, sumS := binAdd v.sumS bin }

/-- The open entry has no more than one bank. -/
theorem bank_unique {v : Standing} {bank other : Bank} (h : v.entry = some (some bank)) (h' : v.entry = some (some other)) :
    other = bank := Option.some.inj (Option.some.inj (h'.symm.trans h))

/-- A compare that is held stands for the pending head, with no firing (R43). -/
theorem Follows.held {v : Standing} (h : v.Follows) {t : Time} (held : v.compare = some t) : v.head = some t := by
  unfold Follows at h
  split at h
  · exact h.symm.trans held
  · exact absurd (h.1.symm.trans held) nofun

/-- What is known of a bank whose state changes without its counts. -/
theorem ok_state {h : HistBank} (ok : h.ok = true) {st : BankState} (used : st ≠ .free) :
    ({ h with state := st } : HistBank).ok = true := by
  simp only [HistBank.ok, Bool.and_eq_true, Bool.or_eq_true, bne_iff_ne] at ok ⊢
  exact ⟨ok.1, .inl used⟩

/-- A FREE bank is cleared (R90). -/
theorem ok_free {h : HistBank} (ok : h.ok = true) (free : h.state = .free) : h.counts = [] := by
  simp only [HistBank.ok, Bool.and_eq_true, Bool.or_eq_true, bne_iff_ne, beq_iff_eq] at ok
  exact ok.2.resolve_left fun used => used free

/-- An empty bank is in order, in whatever state it is. -/
theorem ok_empty (st : BankState) : (⟨st, []⟩ : HistBank).ok = true := by cases st <;> rfl

/-- Only the entry, the slots, the banks and the sums are weighed. -/
theorem Balanced.same {v w : Standing} (h : v.Balanced) (entry : w.entry = v.entry := by rfl)
    (slot : w.slot = v.slot := by rfl) (bank : w.bank = v.bank := by rfl) (sumN : w.sumN = v.sumN := by rfl)
    (sumS : w.sumS = v.sumS := by rfl) : w.Balanced := by
  obtain ⟨fits, total, banked, unbanked⟩ := h
  refine ⟨fun k => ⟨?_, ?_, ?_⟩, ?_, ?_, ?_⟩ <;> simp only [entry, slot, bank, sumN, sumS]
  · exact (fits k).ok
  · exact (fits k).scanning
  · exact (fits k).collecting
  · exact total
  · exact banked
  · exact unbanked

theorem closed_entry (v : Standing) : v.closed.entry = none := by
  unfold closed
  split <;> rfl

/-- A closing keeps the banks in order (R129). -/
theorem closed_fits {v : Standing} (h : ∀ bank, v.Fits bank) (k : Bank) : v.closed.Fits k := by
  unfold closed
  split
  · rename_i bank entry
    by_cases e : k = bank
    · subst e
      exact ⟨by simpa using ok_state (h k).ok (by decide), by simp, by simp⟩
    · have idle : (v.bank k).state ≠ .collecting := fun c => e (bank_unique entry ((h k).collecting.mp c))
      exact ⟨by simpa [e] using (h k).ok, by simpa [e] using (h k).scanning, by simpa [e] using idle⟩
  · rename_i unbanked
    exact ⟨(h k).ok, (h k).scanning, by simpa using fun c => unbanked k ((h k).collecting.mp c)⟩

theorem free_some {v : Standing} {bank : Bank} (h : v.free = some bank) : (v.bank bank).state = .free := by
  unfold free at h
  (repeat' split at h) <;> simp_all

/-- An opening after a closing keeps the banks in order, with the sums of an empty bank (R90 to R92). -/
theorem opens_balanced {v : Standing} (h : ∀ bank, v.Fits bank) (closed : v.entry = none) (head : Option Time) :
    (v.opens head).Balanced := by
  have idle (k : Bank) : (v.bank k).state ≠ .collecting := fun c => by simpa [closed] using (h k).collecting.mp c
  cases hf : v.free with
  | none =>
    simp only [opens, hf]
    exact ⟨fun k => ⟨(h k).ok, (h k).scanning, by simpa using idle k⟩, ⟨rfl, by simp, fun _ => rfl⟩⟩
  | some bank =>
    have empty := ok_free (h bank).ok (free_some hf)
    have unscanned : v.slot bank = false := by
      rw [← Bool.not_eq_true, ← (h bank).scanning, free_some hf]
      decide
    simp only [opens, hf]
    refine ⟨fun k => ?_, ⟨rfl, ?_, fun _ => rfl⟩⟩
    · by_cases e : k = bank
      · subst e
        exact ⟨by simpa using ok_state (h k).ok (by decide), by simp [unscanned], by simp⟩
      · exact ⟨by simpa [e] using (h k).ok, by simpa [e] using (h k).scanning, by simpa [e, Ne.symm e] using idle k⟩
    · rintro k e
      obtain rfl := Option.some.inj (Option.some.inj e)
      simp [empty]

/-- The end of a scan keeps the banks and the sums in order (R96). -/
theorem scanned_balanced {v : Standing} (h : v.Balanced) {bank : Bank} (scan : v.slot bank = true) :
    (v.scanned bank).Balanced := by
  obtain ⟨h, sums⟩ := h
  have apart : v.entry ≠ some (some bank) := fun e => by
    have := (h bank).collecting.mpr e
    rw [(h bank).scanning.mpr scan] at this
    cases this
  by_cases waits : v.entry = some none
  · have fresh : v.sumS = [] := sums.unbanked (by simp [waits])
    simp only [scanned, waits, if_true]
    refine ⟨fun k => ?_, ⟨sums.total, ?_, fun n => absurd rfl (n bank)⟩⟩
    · by_cases e : k = bank
      · subst e
        exact ⟨by simpa using ok_empty _, by simp, by simp⟩
      · have idle : (v.bank k).state ≠ .collecting := fun c => by simpa [waits] using (h k).collecting.mp c
        exact ⟨by simpa [e] using (h k).ok, by simpa [e] using (h k).scanning, by simpa [e, Ne.symm e] using idle⟩
    · rintro k e
      obtain rfl := Option.some.inj (Option.some.inj e)
      simpa using fresh
  · simp only [scanned, waits, if_false]
    refine ⟨fun k => ?_, ⟨sums.total, fun k e => ?_, sums.unbanked⟩⟩
    · by_cases e : k = bank
      · subst e
        exact ⟨by simpa using ok_empty _, by simp, by simpa using apart⟩
      · exact ⟨by simpa [e] using (h k).ok, by simpa [e] using (h k).scanning, by simpa [e] using (h k).collecting⟩
    · have ne : k ≠ bank := fun eq => apart (eq ▸ e)
      simpa [ne] using sums.banked k e

/-- Adding a block below the largest count stays within it. -/
theorem binAdd_cap {h : Histogram} {bin : Nat} (cap : h.all (fun x => x.2 ≤ Config.binCap) = true)
    (below : binCount h bin < Config.binCap) : (binAdd h bin).all (fun x => x.2 ≤ Config.binCap) = true := by
  induction h with
  | nil => rfl
  | cons x t ih =>
    obtain ⟨c, n⟩ := x
    simp only [List.all_cons, Bool.and_eq_true] at cap
    simp only [binAdd]
    split
    · simp only [List.all_cons, cap.1, cap.2, Bool.and_self, Bool.and_true]
      rfl
    · split
      · rename_i e
        simp only [binCount, e, if_true] at below
        simp only [List.all_cons, cap.2, Bool.and_true]
        simpa using below
      · rename_i _ e
        simp only [binCount, Ne.symm e, if_false] at below
        simp only [List.all_cons, cap.1, ih cap.2 below, Bool.and_self]

/-- A block counted into the open entry's bank keeps the banks and the sums in order (R89, R90, R92). -/
theorem counts_balanced {v : Standing} (h : v.Balanced) {bank : Bank} (entry : v.entry = some (some bank)) {bin : Nat}
    (bounded : bin < 800) (below : binCount (v.bank bank).counts bin < Config.binCap) : (v.counts bank bin).Balanced := by
  obtain ⟨h, sums⟩ := h
  have added : ({ v.bank bank with counts := binAdd (v.bank bank).counts bin } : HistBank).ok = true := by
    have ok := (h bank).ok
    simp only [HistBank.ok, Bool.and_eq_true, (h bank).collecting.mpr entry] at ok ⊢
    exact ⟨⟨binAdd_wf ok.1.1 bounded, binAdd_cap ok.1.2 below⟩, rfl⟩
  refine ⟨fun k => ?_, ⟨?_, fun k e => ?_, fun n => absurd entry (n bank)⟩⟩
  · by_cases e : k = bank
    · subst e
      exact ⟨by simpa [counts] using added, by simpa [counts] using (h k).scanning, by simpa [counts] using (h k).collecting⟩
    · exact ⟨by simpa [counts, e] using (h k).ok, by simpa [counts, e] using (h k).scanning,
        by simpa [counts, e] using (h k).collecting⟩
  · simp only [counts, binAdd_total, sums.total]
  · obtain rfl := bank_unique entry e
    simp [counts, sums.banked k entry]

end Standing

/-- What `BanksOk` says, as the standing shows it. -/
theorem banksOk_iff (s : State) : BanksOk s ↔ (standing s).Balanced := by
  have bank (bank : Bank) : openBank s = some bank ↔ (standing s).entry = some (some bank) := by
    unfold openBank standing
    cases s.su.openEntry <;> simp
  have unbanked : openBank s = none ↔ ∀ bank, (standing s).entry ≠ some (some bank) := by
    rw [Option.eq_none_iff_forall_ne_some]
    exact forall_congr' fun k => not_congr (bank k)
  constructor
  · rintro ⟨banks, total, banked, none⟩
    refine ⟨fun k => ?_, total, fun k e => banked k ((bank k).mpr e), fun n => none (unbanked.mpr n)⟩
    obtain ⟨ok, scanning, collecting⟩ := banks k
    exact ⟨ok, scanning, collecting.trans (bank k)⟩
  · rintro ⟨banks, total, banked, none⟩
    exact ⟨fun k => ⟨(banks k).ok, (banks k).scanning, (banks k).collecting.trans (bank k).symm⟩,
      total, fun k e => banked k ((bank k).mp e), fun n => none (unbanked.mp n)⟩

/-- What an observing part keeps, as the standing shows it. -/
theorem onAir_iff (s : State) : (standing s).OnAir ↔ s.cu.mode ≠ .off ∧ ModeOk s ∧ BanksOk s := by
  have follows : compareFollowsHead s = true ↔ (standing s).Follows := by
    cases firing : s.tb.firing <;> simp [compareFollowsHead, Standing.Follows, standing, firing]
  have opened : (standing s).entry.isSome = s.su.openEntry.isSome := by simp [standing]
  have marked : (standing s).stray = false ↔ (s.tb.frameTick = true → s.cu.mode = .replay) := by simp [standing]
  constructor
  · rintro ⟨balanced, mode, mark, entry, follow⟩
    exact ⟨mode, ⟨fun off => absurd off mode, fun _ => ⟨opened ▸ entry, follows.mpr follow⟩, marked.mp mark⟩,
      (banksOk_iff s).mpr balanced⟩
  · rintro ⟨mode, ⟨-, entry, mark⟩, banks⟩
    exact ⟨(banksOk_iff s).mp banks, mode, marked.mpr mark, opened.trans (entry mode).1, follows.mp (entry mode).2⟩

/-- The part stands in OFF: no entry is open, the observers stand still, and the banks are in order (R31). -/
structure OffAir (s : State) : Prop where
  mode : s.cu.mode = .off
  quiet : offQuiet s = true
  balanced : (standing s).Balanced

/-- The modes and the banks are in order exactly when the part stands in OFF or observes with an entry open. -/
theorem modes_iff (s : State) : ModeOk s ∧ BanksOk s ↔ OffAir s ∨ (standing s).OnAir := by
  constructor
  · rintro ⟨mode, banks⟩
    by_cases off : s.cu.mode = .off
    · exact .inl ⟨off, mode.1 off, (banksOk_iff s).mp banks⟩
    · exact .inr ((onAir_iff s).mpr ⟨off, mode, banks⟩)
  · rintro (⟨off, quiet, balanced⟩ | air)
    · refine ⟨⟨fun _ => quiet, fun on => absurd off on, fun mark => ?_⟩, (banksOk_iff s).mpr balanced⟩
      simp [offQuiet, mark] at quiet
    · exact ((onAir_iff s).mp air).2

end Sys2Proof.Machine
end

section
set_option Elab.async false

namespace Sys2Proof.Machine

/-! ### Events that neither open nor close an entry -/

/-- `t` comes from `s` by events that leave the standing of the part as it is. -/
def Still (s t : State) : Prop := standing t = standing s

theorem Still.refl (s : State) : Still s s := rfl

theorem Still.symm {s t : State} (h : Still s t) : Still t s := Eq.symm h

theorem Still.trans {s t u : State} (h : Still s t) (h' : Still t u) : Still s u := Eq.trans h' h

/-- Either branch of a choice may be taken. -/
theorem Still.ite {s t u : State} {c : Prop} [Decidable c] (ht : Still s t) (hu : Still s u) :
    Still s (if c then t else u) := by split <;> assumption

/-- An event that leaves the mode, the time base, the schedule unit and the activity unit alone. -/
theorem Still.frame {s t : State} (hcu : t.cu.mode = s.cu.mode) (htb : t.tb = s.tb) (hsu : t.su = s.su)
    (hag : t.ag = s.ag) : Still s t := by
  simp only [Still, standing, hcu, htb, hsu, hag]

/-- An update of the open entry that leaves its bank. -/
theorem modifyOpen_still {f : OpenEntry → OpenEntry} (s : State) (hf : ∀ e, (f e).bank = e.bank := by intro e; rfl) :
    Still s (modifyOpen f s) := by
  have entry : (s.su.openEntry.map f).map (·.bank) = s.su.openEntry.map (·.bank) := by
    cases s.su.openEntry <;> simp [hf]
  simp only [Still, standing, modifyOpen_frame, modifyOpen_su, entry]
  rfl

/-- An update of the records in the closing slots. -/
theorem mapSlots_still (f : ClosingSlot → ClosingSlot) (s : State) : Still s (mapSlots f s) := by
  have slot : (fun bank => (slotOf (mapSlots f s).su bank).isSome) = fun bank => (slotOf s.su bank).isSome := by
    funext bank
    cases bank <;> exact Option.isSome_map
  simp only [Still, standing, slot]
  rfl

theorem markEvidence_still (id : EntryId) (s : State) : Still s (markEvidence id s) := by
  refine (modifyOpen_still (f := fun e => if e.entry.id = id then { e with evidenceIncomplete := true } else e) s
    fun e => ?_).trans (mapSlots_still _ _)
  split <;> rfl

theorem holdRequest_still (req : HoldRequest) (s : State) : Still s (holdRequest req s) := by
  have treated (l : List Nat) (missing : Bool) : Still s (l.foldl (holdSegment req missing) s) :=
    .frame (by simp) (by simp) (by simp) (by simp)
  unfold holdRequest
  exact .ite (.ite ((treated _ _).trans (markEvidence_still ..)) (treated _ _)) (.refl s)

theorem askHold_still (e : OpenEntry) (reason : HoldReason) (start : Time) (s : State) :
    Still s (askHold e reason start s) := .ite (holdRequest_still ..) (.refl s)

theorem buildVerdict_still (c : ClosedEntry) (ungated integrated : Option Int) (s : State) :
    Still s (buildVerdict c ungated integrated s) := by
  unfold buildVerdict
  exact .ite ((holdRequest_still _ s).trans rfl) rfl

theorem noteOpening_still (id : EntryId) (s : State) : Still s (noteOpening id s) :=
  .frame (by simp) (by simp) (by simp) (by simp)

theorem noteShortTerm_still (s : State) : Still s (noteShortTerm s) := .frame (by simp) (by simp) (by simp) (by simp)

/-! ### Activity and captions -/

theorem decideActivity_still (level : Option Int) (s : State) : Still s (decideActivity level s) := by
  have active (s : State) : Still s (becomeActive s) := by
    unfold becomeActive
    dsimp only
    split
    · exact .trans (.ite (t := offer _ s) rfl (.refl s)) rfl
    · rfl
  unfold decideActivity
  split
  · rfl
  · exact .ite (.ite rfl (.ite rfl (active s))) (.ite rfl (.ite (.ite rfl rfl) rfl))

theorem activityTick_still (s : State) : Still s (activityTick s) := by
  have begins (s : State) : Still s (beginDeadAir s) := by
    unfold beginDeadAir
    split
    · exact .refl s
    · exact (modifyOpen_still s).trans (.trans rfl (askHold_still ..))
  unfold activityTick
  exact .ite (.ite (.trans rfl (begins _)) rfl) (.refl s)

theorem takeHeader_still (offset : Nat) (b : WBeat) (s : State) : Still s (takeHeader offset b s) := by
  unfold takeHeader
  split
  · rfl
  · exact modifyOpen_still s

theorem commitUnit_still (u : UnitShadow) (s : State) : Still s (commitUnit u s) := by
  have qualifying (e : OpenEntry) : Still s (takeQualifying u e s) := by
    unfold takeQualifying
    exact .trans (.ite (t := offer _ s) rfl (.refl s)) (.trans rfl (modifyOpen_still _))
  unfold commitUnit
  split
  · exact .refl s
  · exact .ite (qualifying _) (.ite (modifyOpen_still s) (.refl s))

theorem continueUnit_still (u : UnitShadow) (offset : Nat) (b : WBeat) (s : State) :
    Still s (continueUnit u offset b s) := by
  unfold continueUnit
  exact .ite (Still.trans (t := { s with ca := waitHeader s.ca }) rfl (commitUnit_still ..)) rfl

theorem tearUnit_still (u : UnitShadow) (offset : Nat) (s : State) : Still s (tearUnit u offset s) := by
  unfold tearUnit
  dsimp only
  split
  · rfl
  · have torn := modifyOpen_still (f := fun e => { e with tornCount := satAdd e.tornCount 1, tornMark := true })
      { s with ca := waitHeader s.ca }
    exact Still.trans (t := { s with ca := waitHeader s.ca }) rfl (.ite torn (torn.trans rfl))

theorem takeCaption_still (s : State) : Still s (takeCaption s) := by
  have event (c : CaptionBeat) (s : State) : Still s (captionBeatEvent c s) := by
    unfold captionBeatEvent
    refine .ite (.refl s) ?_
    split
    · exact .ite (continueUnit_still ..) ((tearUnit_still ..).trans (takeHeader_still ..))
    · exact takeHeader_still ..
  unfold takeCaption
  split
  · exact .refl s
  · exact Still.trans rfl (event _ _)

theorem captionTick_still (s : State) : Still s (captionTick s) := by
  have begins (s : State) : Still s (beginGap s) := by
    unfold beginGap
    split
    · exact .refl s
    · exact (modifyOpen_still s).trans (.trans rfl (askHold_still ..))
  have counted : Still s (modifyOpen (captionMs s.ca.gapTimer) s) := modifyOpen_still s
  unfold captionTick
  exact .ite (.ite (counted.trans (.trans rfl (begins _))) (counted.trans rfl)) (.refl s)

/-! ### The audio observer -/

theorem breakStream_still (s : State) : Still s (breakStream s) :=
  Still.trans (t := abandon s) rfl (.trans rfl (modifyOpen_still _))

/-- A frame of REPLAY marks its tick, and no other frame does (R39). -/
theorem frameAccepted_still (s : State) : Still s (frameAccepted s) := by
  unfold frameAccepted
  split
  · rename_i replay
    refine .ite rfl ?_
    simp [Still, standing, replay]
  · exact .refl s

theorem advanceFrame_still (s : State) : Still s (advanceFrame s) := by
  unfold advanceFrame
  dsimp only
  refine .ite ?_ rfl
  split
  · exact .trans rfl (frameAccepted_still _)
  · rfl

theorem acceptSample_still (v : Int) (s : State) : Still s (acceptSample v s) := by
  have sum (b : SubBlock) (c : Nat) : Still s (sumSample b c v s) := .trans rfl (modifyOpen_still _)
  unfold acceptSample
  split
  · exact sum ..
  · exact .ite (sum ..) (.refl s)

theorem acceptWord_still (offset : Nat) (data : BitVec 32) (s : State) : Still s (acceptWord offset data s) := by
  have resume : Still s (resumeEngine s) := .ite rfl rfl
  exact resume.trans ((acceptSample_still _ _).trans ((advanceFrame_still _).trans rfl))

theorem sampleWordEvent_still (offset : Nat) (data : BitVec 32) (enables : BitVec 4) (s : State) :
    Still s (sampleWordEvent offset data enables s) := by
  have accepted : Still s (acceptWord offset data (if inPlace offset s.ao then s else breakStream s)) :=
    Still.trans (.ite (.refl s) (breakStream_still s)) (acceptWord_still ..)
  unfold sampleWordEvent
  split
  · exact .refl s
  · exact .refl s
  · exact .ite accepted ((breakStream_still s).trans rfl)
  · exact .ite accepted ((breakStream_still s).trans rfl)

theorem audioItemEvent_still (i : AudioItem) (s : State) : Still s (audioItemEvent i s) := by
  cases i with
  | descriptor offset b => exact .ite rfl rfl
  | word offset data enables => exact sampleWordEvent_still offset data enables s

theorem checkCeiling_still (level : Int) (s : State) : Still s (checkCeiling level s) := by
  unfold checkCeiling
  split
  · exact .refl s
  · have exceeded : Still s (modifyOpen (fun e => { e with overCount := satAdd e.overCount 1, overMark := true }) s) :=
      modifyOpen_still s
    exact .ite (.ite exceeded (exceeded.trans (.trans rfl (askHold_still ..)))) (.refl s)

theorem momentaryStep_still (s : State) : Still s (momentaryStep s) := by
  unfold momentaryStep
  dsimp only
  split
  · exact .ite (.trans rfl (modifyOpen_still _)) rfl
  · rfl

theorem shortTermStep_still (s : State) : Still s (shortTermStep s) := by
  unfold shortTermStep
  dsimp only
  split
  · exact .ite (.trans rfl ((modifyOpen_still _).trans (checkCeiling_still ..))) rfl
  · rfl

theorem observerTick_still (s : State) : Still s (observerTick s) := by
  unfold observerTick
  exact .ite (.ite rfl rfl) (.refl s)

theorem takeObserverTick_still (s : State) : Still s (takeObserverTick s) :=
  .ite (.trans rfl (observerTick_still _)) (.refl s)

theorem takeActivityTick_still (s : State) : Still s (takeActivityTick s) :=
  .ite (.trans rfl (activityTick_still _)) (.refl s)

theorem takeCaptionTick_still (s : State) : Still s (takeCaptionTick s) :=
  .ite (.trans rfl (captionTick_still _)) (.refl s)

theorem takeScheduleTick_still (s : State) : Still s (takeScheduleTick s) := by
  refine .ite (.trans rfl (modifyOpen_still _ fun e => ?_)) (.refl s)
  split <;> rfl

end Sys2Proof.Machine
end

section
set_option Elab.async false

namespace Sys2Proof.Machine

/-! ### Openings, closings and scans, as the standing shows them -/

theorem slots_setSlot (bank : Bank) (c : Option ClosingSlot) (su : Schedule) :
    (fun k => (slotOf (setSlot bank c su) k).isSome)
      = Function.update (fun k => (slotOf su k).isSome) bank c.isSome := by
  funext k
  by_cases e : k = bank
  · subst e
    simp
  · simp [e]

theorem bankOf_setBank (bank : Bank) (h : HistBank) (ag : Activity) :
    bankOf (setBank bank h ag) = Function.update (bankOf ag) bank h := by
  funext k
  by_cases e : k = bank
  · subst e
    simp
  · simp [e]

theorem closeEntry_standing (actualEnd : Time) (aborted : Bool) (s : State) :
    standing (closeEntry actualEnd aborted s) = (standing s).closed := by
  cases open_ : s.su.openEntry with
  | none =>
    have entry : (standing s).entry = none := by simp [standing, open_]
    simp only [closeEntry, open_, Standing.closed, entry]
    rw [← entry]
  | some e =>
    have entry : (standing s).entry = some e.bank := by simp [standing, open_]
    cases bank : e.bank with
    | none =>
      simp only [closeEntry, open_, bank, Standing.closed, entry]
      exact buildVerdict_still _ none none { s with su := { s.su with openEntry := none } }
    | some k =>
      simp only [closeEntry, open_, bank, Standing.closed, entry]
      simp only [standing, slots_setSlot, bankOf_setBank, setSlot_openEntry, setSlot_queue, setBank_sumN, setBank_sumS]
      rfl

/-- The banks at an opening: the one taken is COLLECTING (R90). -/
theorem bankOf_openingActivity (bank : Option Bank) (now : Time) (ag : Activity) :
    bankOf (openingActivity bank now ag) = match bank with
      | some k => Function.update (bankOf ag) k { bankOf ag k with state := .collecting }
      | none => bankOf ag := by
  cases bank with
  | none => rfl
  | some k => exact bankOf_setBank ..

/-- An entry is taken with the bank that is FREE: steps 2 to 4 of an opening (R125). -/
theorem takeEntry_standing (e : Entry) (start : Time) (cause : Cause) (early replay present : Bool) (rest : List Entry)
    (s : State) : standing { s with
      su := { s.su with
        queue := rest, openEntry := some (newRecord e start cause early replay (freeBank s.ag) present) }
      ag := openingActivity (freeBank s.ag) s.tb.time s.ag
      ca := { s.ca with gapTimer := 0 } } = (standing s).opens (rest.head?.map (·.start)) := by
  have free : (standing s).free = freeBank s.ag := rfl
  simp only [Standing.opens, free]
  simp only [standing, bankOf_openingActivity]
  cases freeBank s.ag <;> rfl

theorem openOne_standing (e : Entry) (start : Time) (cause : Cause) (early : Bool) (rest : List Entry) (s : State) :
    standing (openOne e start cause early rest s) = (standing s).closed.opens (rest.head?.map (·.start)) := by
  rw [← closeEntry_standing start false s, ← takeEntry_standing e start cause early
    ((closeEntry start false s).cu.mode == .replay) (closeEntry start false s).ca.windowPresent]
  exact noteOpening_still e.id _

theorem completeScan_standing {bank : Bank} {s : State} (scan : (standing s).slot bank = true) :
    standing (completeScan bank s) = (standing s).scanned bank := by
  have gives (u : State) : standing (giveFreedBank bank u) = if (standing u).entry = some none then
      { standing u with entry := some (some bank), bank := Function.update (standing u).bank bank ⟨.collecting, []⟩ }
      else standing u := by
    cases open_ : u.su.openEntry with
    | none => simp [giveFreedBank, standing, open_]
    | some e =>
      have entry : (standing u).entry = some e.bank := by simp [standing, open_]
      simp only [giveFreedBank, open_, entry, Option.some.injEq]
      split
      · simp only [standing, bankOf_setBank, setBank_sumN, setBank_sumS]
        rfl
      · rfl
  obtain ⟨slot, hs⟩ := Option.isSome_iff_exists.mp scan
  have still := buildVerdict_still slot.closed (scanValues (bankOf s.ag bank).counts).1 (scanValues (bankOf s.ag bank).counts).2 s
  simp only [completeScan, hs]
  generalize buildVerdict slot.closed (scanValues (bankOf s.ag bank).counts).1 (scanValues (bankOf s.ag bank).counts).2 s = u
    at still ⊢
  have freed : standing { u with su := setSlot bank none u.su, ag := setBank bank .cleared u.ag }
      = { standing s with slot := Function.update (standing s).slot bank false,
                          bank := Function.update (standing s).bank bank .cleared } := by
    rw [← still]
    simp only [standing, slots_setSlot, bankOf_setBank, setSlot_openEntry, setSlot_queue, setBank_sumN, setBank_sumS]
    rfl
  rw [gives, freed]
  simp only [Standing.scanned]
  split
  · simp only [Function.update_idem]
  · rfl

/-- An idle bank has no scan to complete. -/
theorem completeScan_idle {bank : Bank} {s : State} (idle : (standing s).slot bank = false) : completeScan bank s = s := by
  have slot : slotOf s.su bank = none := by simpa [standing] using idle
  simp only [completeScan, slot]

theorem countBlock_standing (bank : Bank) (bin : Nat) (s : State) :
    standing { s with ag := countBlock bank bin s.ag } = (standing s).counts bank bin := by
  simp only [standing, Standing.counts, countBlock, setBank_sumN, setBank_sumS]
  congr 1
  exact bankOf_setBank ..

/-! ### What an observing part keeps -/

/-- The opening of an entry leaves the banks in order, with an entry open (R125). -/
theorem openOne_balanced (e : Entry) (start : Time) (cause : Cause) (early : Bool) (rest : List Entry) {s : State}
    (h : (standing s).Balanced) : (standing (openOne e start cause early rest s)).Balanced := by
  rw [openOne_standing]
  exact Standing.opens_balanced (Standing.closed_fits h.banks) (Standing.closed_entry _) _

theorem openOne_entry (e : Entry) (start : Time) (cause : Cause) (early : Bool) (rest : List Entry) (s : State) :
    (standing (openOne e start cause early rest s)).entry.isSome = true := by
  rw [openOne_standing]
  rfl

/-- An observing part whose compare has yet to be loaded: an entry is open and the banks are in order (R125). -/
structure Opened (s : State) : Prop where
  mode : s.cu.mode ≠ .off
  mark : (standing s).stray = false
  entry : (standing s).entry.isSome = true
  balanced : (standing s).Balanced

theorem openOne_opened (e : Entry) (start : Time) (cause : Cause) (early : Bool) (rest : List Entry) {s : State}
    (mode : s.cu.mode ≠ .off) (mark : (standing s).stray = false) (balanced : (standing s).Balanced) :
    Opened (openOne e start cause early rest s) :=
  ⟨by simpa using mode, by simpa [standing] using mark, openOne_entry .., openOne_balanced _ _ _ _ _ balanced⟩

/-- The compare is loaded with the head of the queue, or emptied with it (R43). -/
theorem Opened.load {s : State} (h : Opened s) {value : Option Time} (head : value = s.su.queue.head?.map (·.start)) :
    (standing (loadCompare value s)).OnAir :=
  ⟨h.balanced.same, h.mode, h.mark, h.entry, head⟩

theorem Standing.OnAir.isOpened {s : State} (h : (standing s).OnAir) : Opened s :=
  ⟨h.mode, h.marked, h.opened, h.toBalanced⟩

/-- Step 7 of an opening leaves the compare with the pending head (R118, R125). -/
theorem cascade_onAir (atStart : Bool) {l : List Entry} {s : State} (queue : s.su.queue = l) (h : Opened s) :
    (standing (cascade atStart l s)).OnAir := by
  induction l generalizing s with
  | nil => exact h.load (by rw [queue]; rfl)
  | cons e rest ih =>
    unfold cascade
    split
    · exact ih (openOne_queue ..) (openOne_opened _ _ _ _ _ h.mode h.mark h.balanced)
    · exact h.load (by rw [queue]; rfl)

theorem openHead_onAir (start : Time) (cause : Cause) (early : Bool) {s : State} (h : Opened s)
    (follows : s.su.queue = [] → (standing s).Follows) : (standing (openHead start cause early s)).OnAir := by
  unfold openHead
  split
  · rename_i queue
    exact ⟨h.balanced, h.mode, h.mark, h.entry, follows queue⟩
  · exact cascade_onAir _ (openOne_queue ..) (openOne_opened _ _ _ _ _ h.mode h.mark h.balanced)

theorem takeFiring_onAir {s : State} (h : (standing s).OnAir) : (standing (takeFiring s)).OnAir := by
  unfold takeFiring
  split
  · exact h
  · rename_i t firing
    have follows := h.follows
    have held : (standing s).firing = some t := firing
    simp only [Standing.Follows, held] at follows
    refine openHead_onAir _ _ _ (s := { s with tb := { s.tb with firing := none } })
      ⟨h.mode, h.marked, h.opened, h.toBalanced.same⟩ fun empty => ?_
    simp [standing, show s.su.queue = [] from empty] at follows

theorem judgeCue_onAir (captured : Time) {s : State} (h : (standing s).OnAir) : (standing (judgeCue captured s)).OnAir := by
  have stray : Still s (strayCue captured s) := rfl
  unfold judgeCue
  split
  · exact stray.symm ▸ h
  · split
    · exact openHead_onAir _ _ _ h.isOpened fun _ => h.follows
    · exact stray.symm ▸ h

theorem takeCues_onAir (l : List Time) {s : State} (h : (standing s).OnAir) : (standing (takeCues l s)).OnAir := by
  induction l generalizing s with
  | nil => exact h
  | cons t l ih => exact ih (judgeCue_onAir t (s := { s with tb := { s.tb with cues := l } }) h)

theorem takeCue_onAir {s : State} (h : (standing s).OnAir) : (standing (takeCue s)).OnAir := by
  unfold takeCue
  split
  · exact h
  · rename_i t rest _
    exact judgeCue_onAir t (s := { s with tb := { s.tb with cues := rest } }) h

/-- The end of a scan keeps the banks in order, on the air and off it (R96). -/
theorem completeScan_balanced (bank : Bank) {s : State} (h : (standing s).Balanced) :
    (standing (completeScan bank s)).Balanced := by
  cases scan : (standing s).slot bank with
  | false =>
    rw [completeScan_idle scan]
    exact h
  | true =>
    rw [completeScan_standing scan]
    exact Standing.scanned_balanced h scan

theorem completeScan_onAir (bank : Bank) {s : State} (h : (standing s).OnAir) : (standing (completeScan bank s)).OnAir := by
  cases scan : (standing s).slot bank with
  | false =>
    rw [completeScan_idle scan]
    exact h
  | true =>
    rw [completeScan_standing scan]
    refine ⟨Standing.scanned_balanced h.toBalanced scan, h.mode, h.marked, ?_, h.follows⟩
    simp only [Standing.scanned]
    split
    · rfl
    · exact h.opened

theorem gateBlock_onAir (level : Option Int) (attributed : Bool) {s : State} (h : (standing s).OnAir) :
    (standing (gateBlock level attributed s)).OnAir := by
  have missed : Still s (modifyOpen missBlock s) := modifyOpen_still s
  unfold gateBlock
  split
  · rename_i l e open_
    split
    · split
      · rename_i bank banked
        split
        · rename_i below
          have entry : (standing s).entry = some (some bank) := by simp [standing, open_, banked]
          have bounded : binOf l < 800 := by
            unfold binOf
            omega
          rw [countBlock_standing]
          exact ⟨Standing.counts_balanced h.toBalanced entry bounded below, h.mode, h.marked, h.opened, h.follows⟩
        · exact missed.symm ▸ h
      · exact missed.symm ▸ h
    · exact h
  · exact h

theorem completeSubBlock_onAir {s : State} (h : (standing s).OnAir) : (standing (completeSubBlock s)).OnAir := by
  have tail (b : SubBlock) (u : State) (hu : (standing u).OnAir) : (standing (completionTail b u)).OnAir := by
    have merged : Still u (modifyOpen (fun e => mergePeaks b { e with subBlocks := satAdd e.subBlocks 1 }) u) :=
      modifyOpen_still u
    have levels := merged.trans ((momentaryStep_still _).trans ((shortTermStep_still _).trans (noteShortTerm_still _)))
    exact gateBlock_onAir _ _ ((levels.trans (decideActivity_still ..)).symm ▸ hu)
  unfold completeSubBlock
  split
  · split
    · exact tail _ _ h
    · exact h
  · exact h

end Sys2Proof.Machine
end

section
set_option Elab.async false

namespace Sys2Proof.Machine

/-! ### What a part in OFF keeps (R31) -/

/-- The modes and the banks are in order: the part stands in OFF, or it observes with an entry open. -/
def InOrder (s : State) : Prop := OffAir s ∨ (standing s).OnAir

/-- An event that leaves the standing and the observers alone. -/
theorem InOrder.same {s t : State} (h : InOrder s) (still : Still s t := by rfl) (quiet : offQuiet t = offQuiet s := by rfl) :
    InOrder t := by
  obtain ⟨mode, off, balanced⟩ | air := h
  · exact .inl ⟨(congrArg Standing.mode still).trans mode, quiet.trans off, still.symm ▸ balanced⟩
  · exact .inr (still.symm ▸ air)

/-- An event that leaves the mode, the time base, the observers and the schedule unit alone. -/
theorem InOrder.frame {s t : State} (h : InOrder s) (hcu : t.cu.mode = s.cu.mode) (htb : t.tb = s.tb) (hao : t.ao = s.ao)
    (hag : t.ag = s.ag) (hca : t.ca = s.ca) (hsu : t.su = s.su) : InOrder t :=
  h.same (.frame hcu htb hsu hag) (by simp only [offQuiet, htb, hao, hag, hca, hsu])

/-- An event that leaves an observing part in order and changes nothing in OFF. -/
theorem InOrder.event {s t : State} (h : InOrder s) (off : OffAir s → t = s)
    (air : (standing s).OnAir → (standing t).OnAir) : InOrder t := by
  rcases h with h | h
  · rw [off h]
    exact .inl h
  · exact .inr (air h)

theorem offQuiet_iff (s : State) : offQuiet s = true ↔
    (s.su.openEntry = none ∧ s.tb.compare = none ∧ s.tb.firing = none ∧ s.tb.cues = [] ∧ s.tb.frameTick = false)
      ∧ (s.ao.engine = .idle ∧ s.ao.sub = none ∧ s.ao.history = [] ∧ s.ao.inbox = [])
      ∧ (s.ag.active = false ∧ s.ag.deadTimer = 0)
      ∧ (s.ca.collecting = false ∧ s.ca.gapTimer = 0 ∧ s.ca.inbox = []) := by
  simp only [offQuiet, Bool.and_eq_true, beq_iff_eq, Bool.not_eq_true', and_assoc]

section
variable {s : State}

theorem OffAir.noEntry (h : OffAir s) : s.su.openEntry = none := ((offQuiet_iff s).mp h.quiet).1.1

theorem OffAir.completeSubBlock (h : OffAir s) : completeSubBlock s = s := by
  obtain ⟨-, ⟨-, sub, -⟩, -⟩ := (offQuiet_iff s).mp h.quiet
  exact completeSubBlock_of_not_due (by simp [completionDue, sub])

theorem OffAir.takeFrameTick (h : OffAir s) (later : TickSet) : takeFrameTick later s = s := by
  obtain ⟨⟨-, -, -, -, mark⟩, -⟩ := (offQuiet_iff s).mp h.quiet
  simp [Machine.takeFrameTick, mark]

theorem OffAir.takeFiring (h : OffAir s) : takeFiring s = s := by
  obtain ⟨⟨-, -, firing, -⟩, -⟩ := (offQuiet_iff s).mp h.quiet
  simp [Machine.takeFiring, firing]

theorem OffAir.cues (h : OffAir s) : s.tb.cues = [] := by
  obtain ⟨⟨-, -, -, cues, -⟩, -⟩ := (offQuiet_iff s).mp h.quiet
  exact cues

theorem OffAir.audioInbox (h : OffAir s) : s.ao.inbox = [] := by
  obtain ⟨-, ⟨-, -, -, inbox⟩, -⟩ := (offQuiet_iff s).mp h.quiet
  exact inbox

theorem OffAir.captionInbox (h : OffAir s) : s.ca.inbox = [] := by
  obtain ⟨-, -, -, -, -, inbox⟩ := (offQuiet_iff s).mp h.quiet
  exact inbox

theorem OffAir.takeCaption (h : OffAir s) : takeCaption s = s := by simp [Machine.takeCaption, h.captionInbox]

theorem OffAir.takeItem (h : OffAir s) (mine : AudioItem → Bool) : takeItem mine s = s := by
  simp [Machine.takeItem, h.audioInbox]

theorem OffAir.observerTick (h : OffAir s) : observerTick s = s := by
  obtain ⟨-, ⟨engine, -⟩, -⟩ := (offQuiet_iff s).mp h.quiet
  simp [Machine.observerTick, engine]

theorem OffAir.activityTick (h : OffAir s) : activityTick s = s := by
  simp [Machine.activityTick, deadAirCounts, h.noEntry]

theorem OffAir.captionTick (h : OffAir s) : captionTick s = s := by simp [Machine.captionTick, gapRuns, h.noEntry]

theorem OffAir.scheduleTick (h : OffAir s) : scheduleTick s = s := by
  have none_open : { s.su with openEntry := none } = s.su := by rw [← h.noEntry]
  simp only [Machine.scheduleTick, modifyOpen, h.noEntry, Option.map_none, none_open]

end

/-! ### Ticks -/

theorem setOwed_inOrder {s : State} (h : InOrder s) (o : TickSet) : InOrder (setOwed o s) := h.same

theorem takeObserverTick_inOrder {s : State} (h : InOrder s) : InOrder (takeObserverTick s) := by
  refine h.imp (fun off => ?_) fun air => (takeObserverTick_still s).symm ▸ air
  unfold takeObserverTick
  split
  · have owed : OffAir (setOwed { s.tb.owed with ao := false } s) := ⟨off.mode, off.quiet, off.balanced⟩
    exact owed.observerTick.symm ▸ owed
  · exact off

theorem takeActivityTick_inOrder {s : State} (h : InOrder s) : InOrder (takeActivityTick s) := by
  refine h.imp (fun off => ?_) fun air => (takeActivityTick_still s).symm ▸ air
  unfold takeActivityTick
  split
  · have owed : OffAir (setOwed { s.tb.owed with ag := false } s) := ⟨off.mode, off.quiet, off.balanced⟩
    exact owed.activityTick.symm ▸ owed
  · exact off

theorem takeCaptionTick_inOrder {s : State} (h : InOrder s) : InOrder (takeCaptionTick s) := by
  refine h.imp (fun off => ?_) fun air => (takeCaptionTick_still s).symm ▸ air
  unfold takeCaptionTick
  split
  · have owed : OffAir (setOwed { s.tb.owed with ca := false } s) := ⟨off.mode, off.quiet, off.balanced⟩
    exact owed.captionTick.symm ▸ owed
  · exact off

theorem takeScheduleTick_inOrder {s : State} (h : InOrder s) : InOrder (takeScheduleTick s) := by
  refine h.imp (fun off => ?_) fun air => (takeScheduleTick_still s).symm ▸ air
  unfold takeScheduleTick
  split
  · have owed : OffAir (setOwed { s.tb.owed with su := false } s) := ⟨off.mode, off.quiet, off.balanced⟩
    exact owed.scheduleTick.symm ▸ owed
  · exact off

theorem takeReportTick_inOrder {s : State} (h : InOrder s) : InOrder (takeReportTick s) := by
  unfold takeReportTick
  split
  · exact h.same
  · exact h

theorem takeOwedTicks_inOrder {s : State} (h : InOrder s) : InOrder (takeOwedTicks s) :=
  takeReportTick_inOrder (takeScheduleTick_inOrder (takeCaptionTick_inOrder (takeActivityTick_inOrder
    (takeObserverTick_inOrder h))))

theorem takeFiring_inOrder {s : State} (h : InOrder s) : InOrder (takeFiring s) := h.event (·.takeFiring) takeFiring_onAir

theorem takeOffers_inOrder {s : State} (h : InOrder s) : InOrder (takeOffers s) := by
  have fired := takeFiring_inOrder (takeOwedTicks_inOrder h)
  refine fired.event (fun off => ?_) fun air => takeCues_onAir _ air
  show takeCues (takeFiring (takeOwedTicks s)).tb.cues _ = _
  rw [off.cues]
  rfl

theorem completeScan_inOrder (bank : Bank) {s : State} (h : InOrder s) : InOrder (completeScan bank s) := by
  refine h.imp (fun off => ⟨by simpa using off.mode, ?_, completeScan_balanced bank off.balanced⟩) (completeScan_onAir bank)
  have sets (k : Bank) (b : HistBank) (ag : Activity) :
      (setBank k b ag).active = ag.active ∧ (setBank k b ag).deadTimer = ag.deadTimer := by cases k <;> exact ⟨rfl, rfl⟩
  have gives (u : State) : (giveFreedBank bank u).ag.active = u.ag.active
      ∧ (giveFreedBank bank u).ag.deadTimer = u.ag.deadTimer := by
    unfold giveFreedBank
    split
    · split
      · exact sets ..
      · exact ⟨rfl, rfl⟩
    · exact ⟨rfl, rfl⟩
  have activity : (completeScan bank s).ag.active = s.ag.active ∧ (completeScan bank s).ag.deadTimer = s.ag.deadTimer := by
    unfold completeScan
    split
    · exact ⟨rfl, rfl⟩
    · simp [gives, sets]
  have entry : (standing s).entry = none := by simp [standing, off.noEntry]
  have closed : (completeScan bank s).su.openEntry = none := by
    cases scan : (standing s).slot bank with
    | false => rw [completeScan_idle scan, off.noEntry]
    | true =>
      have := congrArg Standing.entry (completeScan_standing scan)
      simpa [standing, Standing.scanned, entry, off.noEntry] using this
  have := off.quiet
  simp only [offQuiet, completeScan_frame, activity, closed, off.noEntry] at this ⊢
  exact this

theorem forceScans_inOrder (expired : Option ClosingSlot → Bool) {s : State} (h : InOrder s) :
    InOrder (forceScans expired s) := by
  have forced (bank : Bank) (slot : Option ClosingSlot) {u : State} (hu : InOrder u) :
      InOrder (if expired slot then completeScan bank u else u) := by
    split
    · exact completeScan_inOrder bank hu
    · exact hu
  exact forced .b _ (forced .a _ h)

theorem mapSlots_inOrder (f : ClosingSlot → ClosingSlot) {s : State} (h : InOrder s) : InOrder (mapSlots f s) :=
  h.same (mapSlots_still f s)

/-- Station time moves on: a compare that it reaches fires for the pending head (R37, R43). -/
theorem advanceTime_inOrder (cueHigh : Bool) {s : State} (h : InOrder s) :
    InOrder { s with tb := advanceTime s.cu.mode cueHigh s.tb } := by
  have samples (tb : TimeBase) : (sampleCue cueHigh tb).compare = tb.compare ∧ (sampleCue cueHigh tb).firing = tb.firing
      ∧ (sampleCue cueHigh tb).frameTick = tb.frameTick := by
    unfold sampleCue
    dsimp only
    (repeat' split) <;> exact ⟨rfl, rfl, rfl⟩
  have fires (tb : TimeBase) (compare : tb.compare = s.tb.compare) (firing : tb.firing = s.tb.firing)
      (mark : tb.frameTick = s.tb.frameTick) (air : (standing s).OnAir) :
      (standing { s with tb := testCompare tb }).OnAir := by
    have still : Still s { s with tb := tb } := by simp only [Still, standing, compare, firing, mark]
    have air : (standing { s with tb := tb }).OnAir := still.symm ▸ air
    unfold testCompare
    split
    · rename_i v held
      split
      · exact ⟨air.toBalanced.same, air.mode, air.marked, air.opened, rfl, air.follows.held held⟩
      · exact air
    · exact air
  rcases h with off | air
  · rw [off.mode]
    exact .inl ⟨off.mode, off.quiet, off.balanced.same⟩
  · refine .inr ?_
    have mode := air.mode
    cases hm : s.cu.mode with
    | off => exact absurd hm mode
    | live =>
      obtain ⟨compare, firing, mark⟩ := samples { s.tb with time := s.tb.time + 1 }
      exact fires _ compare firing mark air
    | replay => exact fires _ rfl rfl rfl air

theorem tickEvent_inOrder (cueHigh : Bool) (later : TickSet) {s : State} (h : InOrder s) :
    InOrder (tickEvent cueHigh later s) := by
  have before := forceScans_inOrder tickExpired (takeOffers_inOrder h)
  have after := mapSlots_inOrder tickSlot (advanceTime_inOrder cueHigh before)
  exact setOwed_inOrder (takeOwedTicks_inOrder (setOwed_inOrder after _)) _

theorem passEdges_inOrder (n : Nat) {s : State} (h : InOrder s) : InOrder (passEdges n s) := by
  unfold passEdges
  refine mapSlots_inOrder _ (forceScans_inOrder _ ?_)
  split
  · exact completeScan_inOrder .b h
  · exact h

theorem edgeEvent_inOrder (cueHigh : Bool) (later : TickSet) {s : State} (h : InOrder s) :
    InOrder (edgeEvent cueHigh later s) := by
  have passed := passEdges_inOrder 1 h
  unfold edgeEvent
  dsimp only
  split
  · exact passed
  · split
    · exact passed.same
    · exact tickEvent_inOrder _ _ passed.same

theorem takeFrameTick_inOrder (later : TickSet) {s : State} (h : InOrder s) : InOrder (takeFrameTick later s) := by
  refine h.event (·.takeFrameTick later) fun air => ?_
  unfold takeFrameTick
  split
  · have taken : (standing { s with tb := { s.tb with frameTick := false } }).OnAir :=
      ⟨air.toBalanced.same, air.mode, rfl, air.opened, air.follows⟩
    refine (tickEvent_inOrder false later (.inr taken)).resolve_left fun off => air.mode ?_
    have mode := off.mode
    simp only [tickEvent_frame] at mode
    exact mode
  · exact air

theorem tickRow_inOrder (cueHigh : Bool) (later : TickSet) {s : State} (h : InOrder s) : InOrder (tickRow cueHigh later s) := by
  unfold tickRow
  split
  · exact takeFrameTick_inOrder later h
  · exact tickEvent_inOrder _ _ (passEdges_inOrder _ h).same

theorem completeSubBlock_inOrder {s : State} (h : InOrder s) : InOrder (completeSubBlock s) :=
  h.event (·.completeSubBlock) completeSubBlock_onAir

theorem settleWord_inOrder {s : State} (h : InOrder s) : InOrder (settleWord s) :=
  takeFrameTick_inOrder _ (completeSubBlock_inOrder h)

/-! ### What is handed before a change of mode (log 6) -/

theorem takeAudio_inOrder {s : State} (h : InOrder s) : InOrder (takeAudio s) := by
  have settled := settleWord_inOrder h
  unfold takeAudio
  refine settled.event (fun off => ?_) fun air => ?_
  · simp only [off.audioInbox]
  · dsimp only
    split
    · exact air
    · exact (Still.trans rfl (audioItemEvent_still _ _)).symm ▸ air

theorem takeCaption_inOrder {s : State} (h : InOrder s) : InOrder (takeCaption s) :=
  h.event (·.takeCaption) fun air => (takeCaption_still s).symm ▸ air

theorem repeatStep_inOrder {f : State → State} (hf : ∀ s, InOrder s → InOrder (f s)) (n : Nat) {s : State} (h : InOrder s) :
    InOrder (repeatStep f n s) := by
  induction n generalizing s with
  | zero => exact h
  | succ n ih => exact ih (hf s h)

theorem drainOffers_inOrder {s : State} (h : InOrder s) : InOrder (drainOffers s) :=
  takeOffers_inOrder (repeatStep_inOrder (fun _ => takeCaption_inOrder) _
    (settleWord_inOrder (repeatStep_inOrder (fun _ => takeAudio_inOrder) _ h)))

end Sys2Proof.Machine
end

section
set_option Elab.async false

namespace Sys2Proof.Machine

/-! ### Nothing handed is left over at a change of mode (R31, R105, log 6) -/

/-- What is handed to the observers and not yet taken. -/
def inboxes (s : State) : List AudioItem × List CaptionBeat := (s.ao.inbox, s.ca.inbox)

@[simp] theorem openOne_inboxes (e : Entry) (start : Time) (cause : Cause) (early : Bool) (rest : List Entry) (s : State) :
    inboxes (openOne e start cause early rest s) = inboxes s := by simp [inboxes, openOne]

@[simp] theorem cascade_inboxes (atStart : Bool) (l : List Entry) (s : State) :
    inboxes (cascade atStart l s) = inboxes s := by
  induction l generalizing s with
  | nil => rfl
  | cons e rest ih =>
    unfold cascade
    split
    · rw [ih, openOne_inboxes]
    · rfl

@[simp] theorem openHead_inboxes (start : Time) (cause : Cause) (early : Bool) (s : State) :
    inboxes (openHead start cause early s) = inboxes s := by
  unfold openHead
  split <;> simp

@[simp] theorem takeFiring_inboxes (s : State) : inboxes (takeFiring s) = inboxes s := by
  unfold takeFiring
  split
  · rfl
  · rw [openHead_inboxes]
    rfl

@[simp] theorem judgeCue_inboxes (captured : Time) (s : State) : inboxes (judgeCue captured s) = inboxes s := by
  unfold judgeCue
  split
  · rfl
  · split
    · simp
    · rfl

@[simp] theorem takeCues_inboxes (l : List Time) (s : State) : inboxes (takeCues l s) = inboxes s := by
  induction l generalizing s with
  | nil => rfl
  | cons t l ih =>
    rw [takeCues, ih, judgeCue_inboxes]
    rfl

@[simp] theorem takeOwedTicks_inboxes (s : State) : inboxes (takeOwedTicks s) = inboxes s := by
  have observer (s : State) : (takeObserverTick s).ao.inbox = s.ao.inbox := by
    unfold takeObserverTick observerTick
    dsimp only
    (repeat' split) <;> rfl
  have caption (s : State) : (takeCaptionTick s).ca.inbox = s.ca.inbox := by
    have begins (s : State) : (beginGap s).ca = s.ca := by simp
    unfold takeCaptionTick captionTick
    dsimp only
    (repeat' split) <;> simp
  simp [inboxes, takeOwedTicks, observer, caption]

@[simp] theorem takeOffers_inboxes (s : State) : inboxes (takeOffers s) = inboxes s := by simp [takeOffers]

@[simp] theorem tickEvent_inboxes (cueHigh : Bool) (later : TickSet) (s : State) :
    inboxes (tickEvent cueHigh later s) = inboxes s := by
  have owed (o : TickSet) (s : State) : inboxes (setOwed o s) = inboxes s := rfl
  have scans (u : State) : inboxes (forceScans tickExpired u) = inboxes u := by simp [inboxes]
  simp only [tickEvent, offerTick, owed, takeOwedTicks_inboxes]
  exact (scans _).trans (takeOffers_inboxes s)

@[simp] theorem settleWord_inboxes (s : State) : inboxes (settleWord s) = inboxes s := by
  have complete : inboxes (completeSubBlock s) = inboxes s := by
    have inbox : (completeSubBlock s).ao.inbox = s.ao.inbox := by
      unfold completeSubBlock
      split
      · split <;> simp
      · rfl
    simp [inboxes, inbox]
  unfold settleWord takeFrameTick
  split
  · rw [tickEvent_inboxes]
    exact complete
  · exact complete

@[simp] theorem audioItemEvent_inboxes (i : AudioItem) (s : State) : inboxes (audioItemEvent i s) = inboxes s := by
  have advance (s : State) : (advanceFrame s).ao.inbox = s.ao.inbox := by
    unfold advanceFrame
    dsimp only
    (repeat' split) <;> simp
  have sample (v : Int) (s : State) : (acceptSample v s).ao.inbox = s.ao.inbox := by
    unfold acceptSample
    (repeat' split) <;> rfl
  have resume (s : State) : (resumeEngine s).ao.inbox = s.ao.inbox := by
    unfold resumeEngine
    dsimp only
    split <;> rfl
  have accept (offset : Nat) (data : BitVec 32) (s : State) : (acceptWord offset data s).ao.inbox = s.ao.inbox := by
    simp only [acceptWord, advance, sample, resume]
  have broken (s : State) : (breakStream s).ao.inbox = s.ao.inbox := rfl
  have inbox : (audioItemEvent i s).ao.inbox = s.ao.inbox := by
    cases i with
    | descriptor offset b =>
      simp only [audioItemEvent, descriptorBeatEvent]
      split <;> rfl
    | word offset data enables =>
      simp only [audioItemEvent, sampleWordEvent]
      (repeat' split) <;> simp [accept, broken]
  simp [inboxes, inbox]

/-- The observer takes the oldest item. -/
theorem takeAudio_inboxes (s : State) : inboxes (takeAudio s) = (s.ao.inbox.tail, s.ca.inbox) := by
  have settled : (settleWord s).ao.inbox = s.ao.inbox ∧ (settleWord s).ca.inbox = s.ca.inbox :=
    Prod.mk.inj (settleWord_inboxes s)
  unfold takeAudio
  dsimp only
  split
  · rename_i empty
    rw [settled.1] at empty
    rw [settleWord_inboxes, inboxes, empty, List.tail_nil]
  · rename_i i rest inbox
    rw [settled.1] at inbox
    rw [audioItemEvent_inboxes, inbox, List.tail_cons, ← settled.2]
    rfl

theorem repeatAudio_inboxes (n : Nat) (s : State) :
    inboxes (repeatStep takeAudio n s) = (s.ao.inbox.drop n, s.ca.inbox) := by
  induction n generalizing s with
  | zero => rfl
  | succ n ih =>
    obtain ⟨audio, caption⟩ := Prod.mk.inj (takeAudio_inboxes s)
    rw [repeatStep, ih, audio, caption, List.drop_tail]

/-- The caption unit takes the oldest beat. -/
theorem takeCaption_inboxes (s : State) : inboxes (takeCaption s) = (s.ao.inbox, s.ca.inbox.tail) := by
  have commit (u : UnitShadow) (s : State) : (commitUnit u s).ca.inbox = s.ca.inbox := by
    unfold commitUnit takeQualifying
    dsimp only
    (repeat' split) <;> rfl
  have header (offset : Nat) (b : WBeat) (s : State) : (takeHeader offset b s).ca.inbox = s.ca.inbox := by
    unfold takeHeader
    split <;> rfl
  have tear (u : UnitShadow) (offset : Nat) (s : State) : (tearUnit u offset s).ca.inbox = s.ca.inbox := by
    unfold tearUnit
    dsimp only
    (repeat' split) <;> rfl
  have event (c : CaptionBeat) (s : State) : (captionBeatEvent c s).ca.inbox = s.ca.inbox := by
    unfold captionBeatEvent continueUnit
    dsimp only
    (repeat' split) <;> simp [commit, header, tear, waitHeader]
  unfold takeCaption
  split
  · rename_i empty
    simp only [inboxes, empty, List.tail_nil]
  · rename_i c rest inbox
    simp [inboxes, inbox, event]

theorem repeatCaption_inboxes (n : Nat) (s : State) :
    inboxes (repeatStep takeCaption n s) = (s.ao.inbox, s.ca.inbox.drop n) := by
  induction n generalizing s with
  | zero => rfl
  | succ n ih =>
    obtain ⟨audio, caption⟩ := Prod.mk.inj (takeCaption_inboxes s)
    rw [repeatStep, ih, audio, caption, List.drop_tail]

/-- An opening leaves the time base alone (R125). -/
theorem openOne_tb (e : Entry) (start : Time) (cause : Cause) (early : Bool) (rest : List Entry) (s : State) :
    (openOne e start cause early rest s).tb = s.tb := by simp

/-- Every cue offered has been judged. -/
theorem takeCues_cues (s : State) : (takeCues s.tb.cues s).tb.cues = [] := by
  have opened (l : List Entry) (s : State) : (cascade false l s).tb.cues = s.tb.cues := by
    induction l generalizing s with
    | nil => rfl
    | cons e rest ih =>
      unfold cascade
      split
      · rw [ih, openOne_tb]
      · rfl
  have judged (captured : Time) (s : State) : (judgeCue captured s).tb.cues = s.tb.cues := by
    unfold judgeCue openHead
    (repeat' split) <;> simp [opened]
  have taken (l : List Time) (s : State) (cues : l = s.tb.cues) : (takeCues l s).tb.cues = [] := by
    induction l generalizing s with
    | nil => exact cues.symm
    | cons t l ih => exact ih _ (judged t { s with tb := { s.tb with cues := l } }).symm
  exact taken _ s rfl

/-- Nothing handed or offered is left over once all of it has been taken. -/
structure Drained (s : State) : Prop where
  audio : s.ao.inbox = []
  captions : s.ca.inbox = []
  cues : s.tb.cues = []
  mark : s.tb.frameTick = false

theorem drainOffers_drained (s : State) : Drained (drainOffers s) := by
  have settled := settleWord_settled (repeatStep takeAudio s.ao.inbox.length s)
  have audio : inboxes (settleWord (repeatStep takeAudio s.ao.inbox.length s)) = ([], s.ca.inbox) := by
    rw [settleWord_inboxes, repeatAudio_inboxes, List.drop_length]
  unfold drainOffers
  dsimp only
  generalize settleWord (repeatStep takeAudio s.ao.inbox.length s) = u at settled audio ⊢
  obtain ⟨empty, -⟩ := Prod.mk.inj audio
  have left : inboxes (takeOffers (repeatStep takeCaption u.ca.inbox.length u)) = ([], []) := by
    rw [takeOffers_inboxes, repeatCaption_inboxes, List.drop_length, empty]
  refine ⟨(Prod.mk.inj left).1, (Prod.mk.inj left).2, takeCues_cues _, ?_⟩
  simp only [Machine.settled, Bool.and_eq_true, Bool.not_eq_true'] at settled
  simp [takeOffers, settled]

end Sys2Proof.Machine
end

section
set_option Elab.async false

namespace Sys2Proof.Machine

/-! ### Changes of mode (R30, R31, R33) -/

theorem noEntry_iff (s : State) : (standing s).entry = none ↔ s.su.openEntry = none := by simp [standing]

theorem closeEntry_openEntry (actualEnd : Time) (aborted : Bool) (s : State) :
    (closeEntry actualEnd aborted s).su.openEntry = none := by
  rw [← noEntry_iff, closeEntry_standing]
  exact Standing.closed_entry _

/-- Banks in order with no entry open are balanced by sums of 0 (R92). -/
theorem Standing.balanced_of_closed {v : Standing} (h : ∀ bank, v.Fits bank) (closed : v.entry = none) (n : v.sumN = 0)
    (sums : v.sumS = []) : v.Balanced :=
  ⟨h, ⟨by rw [n, sums]; rfl, by simp [closed], fun _ => sums⟩⟩

/-- The banks of a state are weighed by the entry, the slots and the banks alone. -/
theorem Standing.Fits.same {v w : Standing} {bank : Bank} (h : v.Fits bank) (entry : w.entry = v.entry := by rfl)
    (slot : w.slot = v.slot := by rfl) (banks : w.bank = v.bank := by rfl) : w.Fits bank := by
  obtain ⟨ok, scanning, collecting⟩ := h
  refine ⟨?_, ?_, ?_⟩ <;> simp only [entry, slot, banks] <;> assumption

/-- A part that has come to OFF with its observers idle (R31, R33). -/
theorem offAir_of_idle {s : State} (mode : s.cu.mode = .off) (drained : Drained s) (entry : s.su.openEntry = none)
    (compare : s.tb.compare = none ∧ s.tb.firing = none)
    (audio : s.ao.engine = .idle ∧ s.ao.sub = none ∧ s.ao.history = [])
    (activity : s.ag.active = false ∧ s.ag.deadTimer = 0 ∧ s.ag.sumN = 0 ∧ s.ag.sumS = [])
    (caption : s.ca.collecting = false ∧ s.ca.gapTimer = 0) (banks : ∀ bank, (standing s).Fits bank) : OffAir s := by
  obtain ⟨compare, firing⟩ := compare
  obtain ⟨engine, sub, history⟩ := audio
  obtain ⟨quiet, timer, sumN, sumS⟩ := activity
  obtain ⟨idle, gap⟩ := caption
  refine ⟨mode, (offQuiet_iff s).mpr ?_, Standing.balanced_of_closed banks ((noEntry_iff s).mpr entry) sumN sumS⟩
  exact ⟨⟨entry, compare, firing, drained.cues, drained.mark⟩, ⟨engine, sub, history, drained.audio⟩, ⟨quiet, timer⟩, idle,
    gap, drained.captions⟩

/-- The banks after the open entry has closed (R129). -/
theorem closeEntry_fits (actualEnd : Time) (aborted : Bool) {s : State} (h : (standing s).Balanced) (bank : Bank) :
    (standing (closeEntry actualEnd aborted s)).Fits bank := by
  rw [closeEntry_standing]
  exact Standing.closed_fits h.banks bank

theorem stopMode_offAir {s : State} (h : (standing s).Balanced) (drained : Drained s) : OffAir (stopMode s) := by
  have entered : (standing (enterMode .off s)).Balanced := h.same
  have closed := closeEntry_openEntry (enterMode .off s).tb.time true (enterMode .off s)
  have fits := closeEntry_fits (enterMode .off s).tb.time true entered
  obtain ⟨-, -, -, cu, tb, ao, -, ca, -⟩ := closeEntry_frame (enterMode .off s).tb.time true (enterMode .off s)
  unfold stopMode
  dsimp only
  generalize closeEntry (enterMode .off s).tb.time true (enterMode .off s) = u at closed fits cu tb ao ca
  have handed : Drained (loadCompare none (idleObservers u.ao.shadow captionForOff u)) :=
    ⟨(congrArg AudioObs.inbox ao).trans drained.audio, (congrArg Caption.inbox ca).trans drained.captions,
      (congrArg TimeBase.cues tb).trans drained.cues, (congrArg TimeBase.frameTick tb).trans drained.mark⟩
  exact offAir_of_idle (congrArg CmdUnit.mode cu) handed closed ⟨rfl, rfl⟩ ⟨rfl, rfl, rfl⟩ ⟨rfl, rfl, rfl, rfl⟩ ⟨rfl, rfl⟩
    fun bank => (fits bank).same

/-- The banks that are not SCANNING are cleared once no entry is open (R33, R97). -/
theorem clearBanks_fits {v w : Standing} (h : ∀ bank, v.Fits bank) (entry : w.entry = none)
    (slot : w.slot = v.slot) (bank : ∀ k, w.bank k = clearUnlessScanning (v.bank k)) (k : Bank) : w.Fits k := by
  by_cases scan : (v.bank k).state = .scanning
  · have kept : w.bank k = v.bank k := (bank k).trans (if_pos scan)
    exact ⟨kept ▸ (h k).ok, by rw [kept, slot]; exact (h k).scanning, by rw [kept, entry, scan]; simp⟩
  · have cleared : w.bank k = .cleared := (bank k).trans (if_neg scan)
    have unslotted := mt (h k).scanning.mpr scan
    exact ⟨by rw [cleared]; rfl, by rw [cleared, slot]; simpa [HistBank.cleared] using unslotted,
      by rw [cleared, entry]; simp [HistBank.cleared]⟩

/-! ### RESTART, block by block (R33) -/

theorem leaveForOff_cu (s : State) : (leaveForOff s).cu = { s.cu with mode := .off } := by
  unfold leaveForOff
  split
  · rename_i off
    rw [← off]
  · rfl

theorem leaveForOff_tb (s : State) :
    (leaveForOff s).tb = if s.cu.mode = .off then s.tb else retime s.cu.mode .off s.tb := by
  unfold leaveForOff
  split <;> rfl

theorem restartPart_cu (s : State) : (restartPart s).cu = { s.cu with mode := .off } := by
  simp only [restartPart, loadCompare_frame, leaveForOff_cu, idleObservers_frame, closeEntry_frame]

theorem restartPart_tb (s : State) : (restartPart s).tb =
    { (if s.cu.mode = .off then s.tb else retime s.cu.mode .off s.tb) with compare := none, firing := none } := by
  simp only [restartPart, loadCompare_tb, leaveForOff_tb, idleObservers_frame, closeEntry_frame]

theorem restartPart_ao (s : State) :
    (restartPart s).ao = idleObserver zeroShadow { s.ao with sub := none, history := [] } := by
  simp only [restartPart, loadCompare_frame, leaveForOff_frame, idleObservers, abandon_ao, closeEntry_frame]

theorem restartPart_lu (s : State) : (restartPart s).lu = { s.lu with momentary := none, shortTerm := none } := by
  simp only [restartPart, loadCompare_frame, leaveForOff_frame, idleObservers, abandon_lu, closeEntry_frame]

theorem restartPart_ag (s : State) : (restartPart s).ag = { quietForOff (closeEntry s.tb.time true s).ag with
    bankA := clearUnlessScanning (closeEntry s.tb.time true s).ag.bankA
    bankB := clearUnlessScanning (closeEntry s.tb.time true s).ag.bankB } := by
  simp only [restartPart, loadCompare_frame, leaveForOff_frame, idleObservers, abandon_ag]
  rfl

theorem restartPart_ca (s : State) : (restartPart s).ca = captionForStart s.ca := by
  simp only [restartPart, loadCompare_frame, leaveForOff_frame, idleObservers, abandon_frame, closeEntry_frame]

theorem restartPart_su (s : State) : (restartPart s).su = { (closeEntry s.tb.time true s).su with queue := [] } := by
  simp only [restartPart, loadCompare_frame, leaveForOff_frame, idleObservers_frame]

theorem restartPart_rc (s : State) : (restartPart s).rc = { s.rc with pendingExport := none } := by
  simp only [restartPart, loadCompare_frame, leaveForOff_frame, idleObservers_frame, closeEntry_frame]

theorem restartPart_ru (s : State) : (restartPart s).ru = (closeEntry s.tb.time true s).ru := by
  simp only [restartPart, loadCompare_frame, leaveForOff_frame, idleObservers_frame]

theorem restartPart_offAir {s : State} (h : (standing s).Balanced) (drained : Drained s) : OffAir (restartPart s) := by
  have closed := closeEntry_openEntry s.tb.time true s
  have time : (restartPart s).tb.cues = s.tb.cues ∧ (restartPart s).tb.frameTick = s.tb.frameTick := by
    rw [restartPart_tb]
    dsimp only
    split <;> exact ⟨rfl, rfl⟩
  have handed : Drained (restartPart s) := ⟨by rw [restartPart_ao]; exact drained.audio,
    by rw [restartPart_ca]; exact drained.captions, time.1.trans drained.cues, time.2.trans drained.mark⟩
  refine offAir_of_idle (by rw [restartPart_cu]) handed (by rw [restartPart_su]; exact closed)
    (by rw [restartPart_tb]; exact ⟨rfl, rfl⟩) (by rw [restartPart_ao]; exact ⟨rfl, rfl, rfl⟩)
    (by rw [restartPart_ag]; exact ⟨rfl, rfl, rfl, rfl⟩) (by rw [restartPart_ca]; exact ⟨rfl, rfl⟩)
    (clearBanks_fits (closeEntry_fits s.tb.time true h) ?_ ?_ ?_)
  · simp only [standing, restartPart_su, closed, Option.map_none]
  · simp only [standing, restartPart_su]
    rfl
  · intro k
    simp only [standing, restartPart_ag]
    cases k <;> rfl

/-! ### START (R30) -/

theorem startMode_onAir {s : State} {m : Mode} (observes : m ≠ .off) (h : OffAir s) : (standing (startMode m s)).OnAir := by
  obtain ⟨⟨entry, -, -, -, mark⟩, -⟩ := (offQuiet_iff s).mp h.quiet
  unfold startMode openDefault
  dsimp only
  generalize hu : ({ enterMode m s with
    ag := quietForStart (enterMode m s).tb.time (enterMode m s).ag, ca := captionForStart (enterMode m s).ca } : State) = u
  have mode : u.cu.mode = m := by rw [← hu]; rfl
  have marked : (standing u).stray = false := by
    rw [← hu]
    simp [standing, retime, unseedCue, clearRun, mark]
  have balanced : (standing u).Balanced := by
    rw [← hu]
    exact Standing.balanced_of_closed (fun bank => (h.balanced.banks bank).same) ((noEntry_iff _).mpr entry) rfl rfl
  exact cascade_onAir true (openOne_queue ..) (openOne_opened _ _ _ _ _ (mode ▸ observes) marked balanced)

/-! ### Entries (R116 to R118) -/

/-- Another queue with the same head (R43). -/
theorem Standing.OnAir.requeue {s : State} (h : (standing s).OnAir) {queue : List Entry}
    (head : queue.head? = s.su.queue.head?) : (standing { s with su := { s.su with queue := queue } }).OnAir := by
  refine ⟨h.toBalanced.same, h.mode, h.marked, h.opened, ?_⟩
  have follows := h.follows
  simp only [Standing.Follows, standing] at follows ⊢
  rw [head]
  exact follows

theorem commitEntry_inOrder (e : Entry) {s : State} (h : InOrder s) : InOrder (commitEntry e s) := by
  have unfolds : commitEntry e s = if s.su.queue.isEmpty && observing s then
      (if (queuedEntry e s).lateCommit then
        openHead s.tb.time .lateCommit false (loadCompare (some e.start)
          { s with su := { s.su with queue := s.su.queue ++ [queuedEntry e s] } })
        else loadCompare (some e.start) { s with su := { s.su with queue := s.su.queue ++ [queuedEntry e s] } })
      else { s with su := { s.su with queue := s.su.queue ++ [queuedEntry e s] } } := rfl
  rw [unfolds]
  rcases h with off | air
  · have idle : observing s = false := by simp [observing, off.mode]
    rw [idle, Bool.and_false]
    exact .inl ⟨off.mode, off.quiet, off.balanced.same⟩
  · refine .inr ?_
    split
    · rename_i first
      have empty : s.su.queue = [] := by simpa using (Bool.and_eq_true_iff.mp first).1
      have queued : Opened { s with su := { s.su with queue := s.su.queue ++ [queuedEntry e s] } } :=
        ⟨air.mode, air.marked, air.opened, air.toBalanced.same⟩
      have loaded := queued.load (value := some e.start) (by rw [empty]; rfl)
      split
      · exact openHead_onAir _ _ _ loaded.isOpened fun _ => loaded.follows
      · exact loaded
    · rename_i later
      have on : s.cu.mode ≠ .off := air.mode
      have waiting : s.su.queue ≠ [] := fun empty => later (by simpa [empty, observing] using on)
      exact air.requeue (List.head?_append_of_ne_nil _ waiting)

/-- A cancellation leaves the head of the queue, or an empty compare (R43, R117). -/
theorem cancel_inOrder (id : EntryId) {s : State} (h : InOrder s) :
    InOrder (if (aheadOf id s.su.queue).isEmpty then
      loadCompare none { s with su := { s.su with queue := aheadOf id s.su.queue } }
      else { s with su := { s.su with queue := aheadOf id s.su.queue } }) := by
  split
  · rename_i empty
    rcases h with off | air
    · obtain ⟨⟨entry, -, -, cues, mark⟩, rest⟩ := (offQuiet_iff s).mp off.quiet
      exact .inl ⟨off.mode, (offQuiet_iff _).mpr ⟨⟨entry, rfl, rfl, cues, mark⟩, rest⟩, off.balanced.same⟩
    · have cut : Opened { s with su := { s.su with queue := aheadOf id s.su.queue } } :=
        ⟨air.mode, air.marked, air.opened, air.toBalanced.same⟩
      exact .inr (cut.load (by simp [List.isEmpty_iff.mp empty]))
  · rename_i kept
    refine h.imp (fun off => ⟨off.mode, off.quiet, off.balanced.same⟩) fun air => air.requeue ?_
    unfold aheadOf at kept ⊢
    cases queue : s.su.queue with
    | nil => rfl
    | cons e rest =>
      rw [queue, List.takeWhile_cons] at kept
      rw [List.takeWhile_cons]
      split at kept
      · rename_i ahead
        rw [if_pos ahead]
        rfl
      · exact absurd rfl kept

/-! ### Requests, control-page beats and windows -/

theorem takeRequest_inOrder (r : Request) {s : State} (h : InOrder s) : InOrder (takeRequest r s) := by
  have handed (u : State) (hu : InOrder u) : InOrder (handOver r u) := by
    obtain ⟨-, e⟩ | ⟨-, e | ⟨w, e⟩⟩ := handOver_cases r u
    · rw [e]
      exact hu.same
    · rw [e]
      exact hu
    · rw [e]
      refine hu.event (fun off => handObserver_unwatched (by simp [off.mode])) fun air => ?_
      obtain e | ⟨-, -, e⟩ | ⟨-, -, e⟩ := handObserver_cases w r u <;> rw [e] <;> exact air
  unfold takeRequest
  split
  · exact (handed s h).same
  · exact h.frame (by simp) (by simp) (by simp) (by simp) (by simp) (by simp)
  · exact h.frame (by simp) (by simp) (by simp) (by simp) (by simp) (by simp)

theorem takeControlBeat_inOrder {s : State} (h : InOrder s) : InOrder (takeControlBeat s) := by
  have form (it : CmdItem) (s : State) : (formItem it s).cu.mode = s.cu.mode := by
    unfold formItem
    split <;> rfl
  have shadow (area : CmdKind) (word : Nat) (data : Beat) (cu : CmdUnit) : (writeShadow area word data cu).mode = cu.mode := by
    unfold writeShadow
    split <;> rfl
  have mode : (takeControlBeat s).cu.mode = s.cu.mode := by
    unfold takeControlBeat controlBeatEvent
    (repeat' split) <;> simp [form, shadow]
  exact h.frame mode (by simp) (by simp) (by simp) (by simp) (by simp)

theorem commitWindow_inOrder (slot : Nat) (new : Option Window) {s : State} (h : InOrder s) :
    InOrder (commitWindow slot new s) := by
  have banks : (commitWindow slot new s).ag = s.ag ∨ (commitWindow slot new s).ag = clearCounts s.ag := by
    rw [commitWindow_ag]
    split
    · exact .inr rfl
    · exact .inl rfl
  have still : Still s (commitWindow slot new s) := by
    rcases banks with e | e
    · simp only [Still, standing, commitWindow_frame, e]
    · simp only [Still, standing, commitWindow_frame, e]
      rfl
  refine h.imp (fun off => ⟨by simpa using off.mode, ?_, still.symm ▸ off.balanced⟩) fun air => still.symm ▸ air
  obtain ⟨time, ⟨engine, sub, history, audio⟩, activity, collecting, gap, captions⟩ := (offQuiet_iff s).mp off.quiet
  refine (offQuiet_iff _).mpr ⟨by simpa using time, ?_, ?_, ?_⟩
  · rw [commitWindow_ao]
    split
    · exact ⟨rfl, rfl, rfl, audio⟩
    · exact ⟨engine, sub, history, audio⟩
  · rcases banks with e | e <;> rw [e] <;> exact activity
  · rw [commitWindow_ca]
    split
    · exact ⟨rfl, rfl, captions⟩
    · exact ⟨collecting, gap, captions⟩

theorem takeItem_inOrder (mine : AudioItem → Bool) {s : State} (h : InOrder s) : InOrder (takeItem mine s) := by
  refine h.event (·.takeItem mine) fun air => ?_
  unfold takeItem
  split
  · exact air
  · split
    · exact (Still.trans rfl (audioItemEvent_still _ _)).symm ▸ air
    · exact air

/-! ### Every event -/

theorem keeps_inOrder : Keeps InOrder where
  pending _ _ h := h.same
  lineReset _ := .inl ⟨rfl, rfl, Standing.Balanced.same ((banksOk_iff _).mp reset_banksOk)⟩
  release _ _ _ h := h.same
  complete _ h := completeSubBlock_inOrder h
  frameTick _ later h := takeFrameTick_inOrder later h
  request _ r _ h := takeRequest_inOrder r h
  answer _ _ h := h.frame (by simp) (by simp) (by simp) (by simp) (by simp) (by simp)
  issue _ h := h.same
  completion _ _ _ _ _ _ h := h.same
  ownOffer _ h := h.frame (by simp) (by simp) (by simp) (by simp) (by simp) (by simp)
  ownCompletion _ h := h.frame (by simp) (by simp) (by simp) (by simp) (by simp) (by simp)
  beat _ h := takeControlBeat_inOrder h
  pop _ h := h.same
  offer _ _ h := h.same
  drain _ h := drainOffers_inOrder h
  stop s _ h := by
    have drained := drainOffers_inOrder h
    exact .inl (stopMode_offAir (drained.elim (·.balanced) (·.toBalanced)) (drainOffers_drained s))
  start s m off observes _ h := by
    refine .inr (startMode_onAir observes ((drainOffers_inOrder h).resolve_right fun air => air.mode ?_))
    obtain ⟨-, -, -, cu⟩ := drainOffers_frame s
    exact (congrArg CmdUnit.mode cu).trans off
  restart s h := by
    have drained := drainOffers_inOrder h
    exact .inl (restartPart_offAir (drained.elim (·.balanced) (·.toBalanced)) (drainOffers_drained s))
  controlMask _ _ h := h.same
  setTime _ _ _ h := h.same
  setPrescale _ _ _ _ _ h := h.same
  cueSet _ _ _ _ _ _ h := h.same
  lineForce _ _ h := h.same
  readIndex _ _ _ _ _ _ h := h.same
  enable _ _ h := h.same
  disable _ _ h := h.same
  acknowledge _ _ h := h.same
  entry _ _ e _ _ _ _ h := commitEntry_inOrder e h
  cancel _ id h := cancel_inOrder id h
  judgeCue _ t replay h := .inr (judgeCue_onAir t (h.resolve_left fun off => absurd (replay.symm.trans off.mode) (by decide)))
  policy _ _ h := h.same
  defaults _ _ h := h.same
  overrides _ _ h := h.same
  filter _ _ _ _ _ _ _ h := h.same
  activitySet _ _ _ _ _ h := h.same
  hold _ _ _ _ _ _ ho h := by
    obtain ⟨-, ⟨-, -, rfl⟩ | ⟨-, -, rfl⟩⟩ := holdOn_ok ho <;>
      exact h.frame (by simp) (by simp) (by simp) (by simp) (by simp) (by simp)
  release_ _ _ _ _ _ _ ho h := by
    obtain ⟨-, -, ⟨-, rfl⟩ | ⟨-, rfl⟩⟩ := releaseOn_ok ho <;> exact h.same
  export_ _ _ _ _ _ _ ho h := by
    obtain ⟨-, ⟨-, rfl⟩ | ⟨-, -, rfl⟩⟩ := exportOn_ok ho <;> exact h.same
  exportDone _ _ _ _ _ _ ho h := by
    obtain ⟨-, -, rfl⟩ := exportDoneOn_ok ho
    exact h.same
  window _ _ _ ho h := by
    obtain ⟨-, -, -, -, ⟨-, rfl⟩ | ⟨k, -, -, -, rfl⟩⟩ := ownWindow_ok ho <;> exact commitWindow_inOrder _ _ h
  tick _ cueHigh later h := tickRow_inOrder cueHigh later h
  edge _ cueHigh later h := edgeEvent_inOrder cueHigh later h
  cue _ h := h.event (fun off => by simp [takeCue, off.cues]) takeCue_onAir
  firing _ h := takeFiring_inOrder h
  observerTick _ h := takeObserverTick_inOrder h
  activityTick _ h := takeActivityTick_inOrder h
  captionTick _ h := takeCaptionTick_inOrder h
  reportTick _ h := takeReportTick_inOrder h
  item _ mine h := takeItem_inOrder mine h
  captionBeat _ h := takeCaption_inOrder h
  scan _ bank h := completeScan_inOrder bank h
  lay _ h := h.frame (by simp) (by simp) (by simp) (by simp) (by simp) (by simp)
  compose _ h := h.frame (by simp) (by simp) (by simp) (by simp) (by simp) (by simp)

end Sys2Proof.Machine

open Sys2Proof Sys2Proof.Machine in
/-- Settles O60: every event leaves the part in OFF with its observers idle, or observing with an entry open, and moves the
banks, the slots and the sums together. -/
theorem stepKeepsModesAndBanks : Obligations.StepKeepsModesAndBanks := fun s t mode banks h =>
  (modes_iff t).mpr (keeps_inOrder.step h ((modes_iff s).mp ⟨mode, banks⟩))
end

section
set_option Elab.async false

namespace Sys2Proof.Machine

/-! ### The control page (R18 to R23) -/

/-- The tag of a command beat is its low 16 bits (R174). -/
theorem beatTag_eq (w : Beat) : beatTag w = w.extractLsb' 0 16 := by
  rw [beatTag, byteField_eq, BitVec.ofNat_toNat, BitVec.setWidth_eq]

/-- The argument of a command beat is its high 48 bits (R174). -/
theorem beatArg_eq (w : Beat) : beatArg w = w.extractLsb' 16 48 := by
  rw [beatArg, byteField_eq, BitVec.ofNat_toNat, BitVec.setWidth_eq]

/-- One byte of a beat replaced, bit by bit. -/
theorem getLsbD_replaceByte (acc new : Beat) (k i : Nat) (hi : i < 64) :
    ((acc &&& ~~~(0xFF#64 <<< (8 * k))) ||| (new &&& (0xFF#64 <<< (8 * k)))).getLsbD i
      = if i / 8 = k then new.getLsbD i else acc.getLsbD i := by
  have low (j : Nat) : (0xFF#64).getLsbD j = decide (j < 8) := by
    rw [BitVec.getLsbD_ofNat, show 255 = 2 ^ 8 - 1 from rfl, Nat.testBit_two_pow_sub_one]
    by_cases h : j < 8 <;> simp [h]; omega
  have inside : (!decide (i < 8 * k) && decide (i - 8 * k < 8)) = decide (i / 8 = k) := by
    by_cases h : i / 8 = k <;> simp [h] <;> omega
  simp only [BitVec.getLsbD_or, BitVec.getLsbD_and, BitVec.getLsbD_not, BitVec.getLsbD_shiftLeft, hi, decide_true,
    Bool.true_and, low, inside]
  split <;> simp [*]

/-- Bytes of a beat replaced in turn, bit by bit. -/
theorem getLsbD_replaceBytes (new : Beat) (enables : BitVec 8) (i : Nat) (hi : i < 64) (bytes : List Nat) (acc : Beat) :
    (bytes.foldl (init := acc) fun acc k =>
      if enables.getLsbD k then (acc &&& ~~~(0xFF#64 <<< (8 * k))) ||| (new &&& (0xFF#64 <<< (8 * k))) else acc).getLsbD i
      = if i / 8 ∈ bytes ∧ enables.getLsbD (i / 8) then new.getLsbD i else acc.getLsbD i := by
  induction bytes generalizing acc with
  | nil => simp
  | cons k rest ih =>
    rw [List.foldl_cons, ih]
    cases on : enables.getLsbD k
    · by_cases here : i / 8 = k <;> simp [here, on]
    · rw [if_pos rfl, getLsbD_replaceByte _ _ _ _ hi]
      by_cases here : i / 8 = k <;> simp [here, on]

/-- A merged beat, bit by bit (R53). -/
theorem getLsbD_mergeBytes (old new : Beat) (enables : BitVec 8) (i : Nat) (hi : i < 64) :
    (mergeBytes old new enables).getLsbD i = if enables.getLsbD (i / 8) then new.getLsbD i else old.getLsbD i := by
  rw [mergeBytes, getLsbD_replaceBytes new enables i hi]
  simp [show i / 8 < 8 by omega]

/-- The tag of a partial beat is its two low bytes, a byte that is not enabled read as zero (R19). -/
theorem partialTag_eq (b : WBeat) : partialTag b =
    (if b.enables.getLsbD 1 then b.data.extractLsb' 8 8 else 0 : BitVec 8)
      ++ (if b.enables.getLsbD 0 then b.data.extractLsb' 0 8 else 0 : BitVec 8) := by
  rw [partialTag, beatTag_eq]
  refine BitVec.eq_of_getLsbD_eq fun i hi => ?_
  rw [BitVec.getLsbD_extractLsb', BitVec.getLsbD_append, Nat.zero_add, getLsbD_mergeBytes _ _ _ _ (by omega)]
  by_cases low : i < 8
  · rw [show i / 8 = 0 by omega]
    cases b.enables.getLsbD 0 <;> simp [low, hi]
  · rw [show i / 8 = 1 by omega]
    have high : i - 8 < 8 := by omega
    cases b.enables.getLsbD 1 <;> simp [low, hi, high, show 8 + (i - 8) = i by omega]

/-- The commands with a slot of their own stand at 8 times their code (R18). -/
theorem pagePlace_slot {k : CmdKind} (h : k.code ≤ 20) : pagePlace (8 * k.code) = .slot k := by
  cases k
  case window | entry | filter => exact absurd h (by decide)
  all_goals rfl

/-- Past the last slot there is no command (R18). -/
theorem slotCommand_past {n : Nat} (h : 20 < n) : slotCommand n = none := by
  obtain ⟨k, rfl⟩ := Nat.exists_eq_add_of_le' h
  simp [slotCommand]

/-- The unassigned offsets (R18). -/
theorem pagePlace_unassigned {offset : Nat} (h : (0x0A8 ≤ offset ∧ offset < 0x100) ∨ (0x120 ≤ offset ∧ offset < 0x200)
    ∨ (0x240 ≤ offset ∧ offset < 0x300) ∨ 0x330 ≤ offset) : pagePlace offset = .unassigned := by
  unfold pagePlace
  split
  · rw [slotCommand_past (by omega)]
  · rw [if_neg (by omega), if_neg (by omega), if_neg (by omega)]

/-- The words of the staged WINDOW (R18, R21). -/
theorem pagePlace_window {word : Nat} (h : word < 4) :
    pagePlace (0x100 + 8 * word) = .staging .window word (decide (word + 1 = 4)) := by
  interval_cases word <;> rfl

/-- The words of the staged ENTRY (R18, R21). -/
theorem pagePlace_entry {word : Nat} (h : word < 8) :
    pagePlace (0x200 + 8 * word) = .staging .entry word (decide (word + 1 = 8)) := by
  interval_cases word <;> rfl

/-- The words of the staged FILTER (R18, R21). -/
theorem pagePlace_filter {word : Nat} (h : word < 6) :
    pagePlace (0x300 + 8 * word) = .staging .filter word (decide (word + 1 = 6)) := by
  interval_cases word <;> rfl

/-- CONTROL_PAGE_BEAT on the oldest beat (R18). -/
theorem controlPageBeat_head {s : State} {b : CtlBeat} {rest : List CtlBeat} (hr : ready s = true)
    (beats : s.cu.beats = b :: rest) :
    exec .controlPageBeat s = .next (controlBeatEvent b { s with cu := { s.cu with beats := rest } }) :=
  (running_of_ready takeControlBeat hr).trans (by rw [takeControlBeat, beats])

/-- A formed item finds room in the queue (R23). -/
theorem formItem_joins (it : CmdItem) {s : State} (h : s.cu.queue.length < 4) :
    formItem it s = { s with cu := { s.cu with queue := s.cu.queue ++ [it] } } := if_pos h

/-- A formed item finds the queue full (R23). -/
theorem formItem_overflows (it : CmdItem) {s : State} (h : 4 ≤ s.cu.queue.length) :
    formItem it s = offer (refusedReport it .commandOverflow) s := if_neg (Nat.not_lt.mpr h)

end Sys2Proof.Machine

open Sys2Proof Sys2Proof.Machine in
/-- Settles O14: the place of the beat's offset decides, then its enables and the room in the queue. -/
theorem slotBeatFormsCommand : Obligations.SlotBeatFormsCommand := by
  intro s b rest hr beats s' tag low high
  have row : exec .controlPageBeat s = .next (controlBeatEvent b s') := controlPageBeat_head hr beats
  refine ⟨fun empty => ?_, fun range => ?_, fun k at_ slot => ?_⟩
  · rw [row, controlBeatEvent, if_pos empty]
  · rw [row, controlBeatEvent, pagePlace_unassigned range]
    split <;> rfl
  have place : pagePlace b.offset = .slot k := at_ ▸ pagePlace_slot slot
  have item : slotItem k b = ⟨k, tag, b.beat.data.extractLsb' 16 48, [], b.master⟩ := by
    rw [slotItem, beatTag_eq, beatArg_eq]
  have page : k.offset = b.offset := by
    rw [at_]
    cases k
    case window | entry | filter => exact absurd slot (by decide)
    all_goals rfl
  have formed (whole : b.beat.enables = 0xFF) : controlBeatEvent b s' = formItem (slotItem k b) s' := by
    rw [controlBeatEvent, if_neg (by rw [whole]; decide), place]
    exact if_pos whole
  refine ⟨fun whole room => ?_, fun whole full => ?_, fun some_ part => ?_⟩
  · rw [row, formed whole, item, formItem_joins (s := s') _ room]
  · rw [row, formed whole, item, formItem_overflows (s := s') _ full, refusedReport, page]
  · rw [row, controlBeatEvent, if_neg some_, place]
    simp only [if_neg part, partialReport, if_true, partialTag_eq, low, high]

open Sys2Proof Sys2Proof.Machine in
/-- Settles O15: one argument for the three areas, which differ in their page range, their shadow and their commit word. -/
theorem stagingBeatKeepsShadow : Obligations.StagingBeatKeepsShadow := by
  intro s b rest word hr beats s' low high area w e f
  have row : exec .controlPageBeat s = .next (controlBeatEvent b s') := controlPageBeat_head hr beats
  have stage {k : CmdKind} {base n : Nat} {cu : CmdUnit} {words : List Beat}
      (place : word < n → pagePlace (base + 8 * word) = .staging k word (decide (word + 1 = n)))
      (page : k.offset = base + 8 * (n - 1)) (written : writeShadow k word b.beat.data s'.cu = cu)
      (copied : areaShadows k cu = words) (kept : cu.queue = s.cu.queue) : area k base n cu words := by
    intro within at_
    have place := place within
    rw [← at_] at place
    have replaced (whole : b.beat.enables = 0xFF) : controlBeatEvent b s'
        = if word + 1 = n then formItem (stagedItem k b cu) { s' with cu := cu } else { s' with cu := cu } := by
      rw [controlBeatEvent, if_neg (by rw [whole]; decide), place]
      simp only [if_pos whole, written, decide_eq_true_eq]
    have item : stagedItem k b cu = ⟨k, b.beat.data.extractLsb' 0 16, 0, words, b.master⟩ := by
      rw [stagedItem, beatTag_eq, copied]
    refine ⟨fun whole inner => ?_, fun whole commit room => ?_, fun whole commit full => ?_, fun some_ part => ?_⟩
    · rw [row, replaced whole, if_neg inner]
    · rw [row, replaced whole, if_pos commit, item, formItem_joins _ (kept ▸ room), kept]
    · rw [row, replaced whole, if_pos commit, item, formItem_overflows _ (kept ▸ full), refusedReport, page]
    · rw [row, controlBeatEvent, if_neg some_, place]
      simp only [if_neg part, partialReport, partialTag_eq, decide_eq_true_eq, low, high]
  exact ⟨stage pagePlace_window rfl rfl rfl rfl, stage pagePlace_entry rfl rfl rfl rfl,
    stage pagePlace_filter rfl rfl rfl rfl⟩
end

section
set_option Elab.async false

namespace Sys2Proof.Machine

/-! ### Rows of the command queue (R24 to R27) -/

/-- A field of an argument that starts at its first bit. -/
theorem argField_zero (arg : BitVec 48) (width : Nat) : argField arg 0 width = arg.toNat % 2 ^ width := by
  simp [argField]

/-- A field of an argument is the bits it names (R174). -/
theorem argField_eq (arg : BitVec 48) (lo width : Nat) : argField arg lo width = (arg.extractLsb' lo width).toNat := by
  simp [argField, BitVec.extractLsb'_toNat, Nat.shiftRight_eq_div_pow]

section

variable {k : CmdKind} {it : CmdItem} {rest : List CmdItem} {s : State} {mine : CmdItem → Bool} {owner : Owner}

/-- A command row whose item heads the queue is its owner's answer (R24). -/
theorem command_row (h : headIs k it rest s) (own : mine it = true) :
    running s (carryOut mine owner) = .next (finishItem it (withQueue rest s) (owner it (withQueue rest s))) := by
  obtain ⟨hr, hq, -⟩ := h
  exact (running_of_ready _ hr).trans (congrArg _ (carryOut_head owner hq own))

/-- The kind of the item at the head. -/
theorem headIs.kind (h : headIs k it rest s) : it.kind = k := by
  obtain ⟨-, -, kind⟩ := h
  exact kind

/-- A refused command ends in COMMAND_REFUSED (R25, R27). -/
theorem command_refused {reason : Reason} (h : headIs k it rest s) (own : mine it = true)
    (answer : owner it (withQueue rest s) = .error reason) : running s (carryOut mine owner)
      = .next (offer (.commandRefused it.tag k.code it.master k.offset reason) (withQueue rest s)) := by
  rw [command_row h own, answer, ← h.kind]
  rfl

/-- A done command ends in COMMAND_DONE (R24, R27). -/
theorem command_done {t : State} {n : Nat} (h : headIs k it rest s) (own : mine it = true)
    (answer : owner it (withQueue rest s) = .ok (t, n)) : running s (carryOut mine owner)
      = .next (offer (.commandDone it.tag k.code it.master k.offset n) t) := by
  rw [command_row h own, answer, ← h.kind]
  rfl

/-- The row of one command takes an item of its kind. -/
theorem headIs.isKind (h : headIs k it rest s) : isKind k it = true := by simp [Machine.isKind, h.kind]

end

/-! ### The mode checks (R25, R29) -/

/-- A command of OFF only, in another mode (R25). -/
theorem offOnly_busy {owner : Owner} (it : CmdItem) {s : State} (h : s.cu.mode ≠ .off) :
    offOnly owner it s = .error .busyLive := if_neg h

/-- A command of OFF only, in OFF (R25). -/
theorem offOnly_off {owner : Owner} (it : CmdItem) {s : State} (h : s.cu.mode = .off) :
    offOnly owner it s = owner it s := if_pos h

/-- The modes are coded 0 to 2 (R29). -/
theorem modeOfCode_past {n : Nat} (h : 2 < n) : modeOfCode n = none := by
  obtain ⟨k, rfl⟩ := Nat.exists_eq_add_of_le' h
  rfl

/-- SET_MODE to a code that names no mode (R29). -/
theorem ownSetMode_past {it : CmdItem} (s : State) (past : 2 < it.arg.toNat % 256) :
    ownSetMode it s = .error .badValue := by
  rw [ownSetMode, argField_zero, show 2 ^ 8 = 256 from rfl, modeOfCode_past past]

/-- SET_MODE, once its mode is read (R29). -/
theorem ownSetMode_mode {it : CmdItem} {m : Mode} (s : State) (code : modeOfCode (it.arg.toNat % 256) = some m) :
    ownSetMode it s =
      if (s.cu.mode = .off ∧ m = .off) ∨ (s.cu.mode ≠ .off ∧ m ≠ .off) then .error .modeSequence
      else if m = .off then .ok (stopMode (drainOffers s), 0)
      else if (windowOf .report s.mp).isNone then .error .noReport
      else .ok (startMode m (drainOffers s), 0) := by
  rw [ownSetMode, argField_zero, show 2 ^ 8 = 256 from rfl, code]

end Sys2Proof.Machine

open Sys2Proof Sys2Proof.Machine in
/-- Settles O16: each check answers with its reason before the command does anything. -/
theorem modeChecks : Obligations.ModeChecks := by
  intro s it rest refused target
  have observing_of {m : Mode} (code : modeOfCode target = some m) (on : m ≠ .off) (off : s.cu.mode = .off)
      (report : windowOf .report s.mp = none) : ownSetMode it (withQueue rest s) = .error .noReport := by
    rw [ownSetMode_mode _ code, if_neg (by simp [withQueue, on, off]), if_neg on]
    exact if_pos (by simp [withQueue, report])
  have sequence {m : Mode} (code : modeOfCode target = some m) (same : s.cu.mode = .off ↔ m = .off) :
      ownSetMode it (withQueue rest s) = .error .modeSequence := by
    rw [ownSetMode_mode _ code]
    exact if_pos (by simp only [withQueue, same]; tauto)
  refine ⟨fun h mode => command_refused h h.isKind (offOnly_busy it mode),
    fun h mode => command_refused h h.isKind (offOnly_busy it mode),
    fun h mode => command_refused h h.isKind (offOnly_busy it mode),
    fun h mode => command_refused h h.isKind (if_neg mode),
    fun h past => command_refused h h.isKind (ownSetMode_past _ past), fun h known same => command_refused h h.isKind ?_,
    fun h start off report => command_refused h h.isKind ?_⟩
  · rcases (by omega : target = 0 ∨ target = 1 ∨ target = 2) with code | code | code <;> rw [code] at same
    · exact sequence (m := .off) (by rw [code]; rfl) (by simpa using same)
    · exact sequence (m := .live) (by rw [code]; rfl) (by simpa using same)
    · exact sequence (m := .replay) (by rw [code]; rfl) (by simpa using same)
  · rcases start with code | code
    · exact observing_of (m := .live) (by rw [code]; rfl) (by decide) off report
    · exact observing_of (m := .replay) (by rw [code]; rfl) (by decide) off report
end

section
set_option Elab.async false

namespace Sys2Proof.Machine

/-! ### The settings commands (R28, R65, R69, R85) -/

/-- A field of an argument as bits (R174). -/
theorem ofNat_argField (arg : BitVec 48) (lo width : Nat) :
    BitVec.ofNat width (argField arg lo width) = arg.extractLsb' lo width := by
  rw [argField_eq, BitVec.ofNat_toNat, BitVec.setWidth_eq]

/-- A field of whole bytes of a word as bits (R173). -/
theorem ofNat_byteField (w : Beat) (at_ bytes : Nat) :
    BitVec.ofNat (8 * bytes) (byteField w at_ bytes) = w.extractLsb' (8 * at_) (8 * bytes) := by
  rw [byteField_eq, BitVec.ofNat_toNat, BitVec.setWidth_eq]

/-- The first stage of a staged FILTER is the low half of its words (R69). -/
theorem filterStage_first (it : CmdItem) :
    let word (k : Nat) : Beat := it.words.getD k 0
    filterStage it false = ⟨(word 0).extractLsb' 0 32, (word 1).extractLsb' 0 32, (word 2).extractLsb' 0 32,
      (word 3).extractLsb' 0 32, (word 4).extractLsb' 0 32⟩ := by
  have coeff (k : Nat) : filterCoeff it false k = (it.words.getD k 0).extractLsb' 0 32 := ofNat_byteField _ 0 4
  simp only [filterStage, coeff]

/-- The second stage of a staged FILTER is the high half of its words (R69). -/
theorem filterStage_second (it : CmdItem) :
    let word (k : Nat) : Beat := it.words.getD k 0
    filterStage it true = ⟨(word 0).extractLsb' 32 32, (word 1).extractLsb' 32 32, (word 2).extractLsb' 32 32,
      (word 3).extractLsb' 32 32, (word 4).extractLsb' 32 32⟩ := by
  have coeff (k : Nat) : filterCoeff it true k = (it.words.getD k 0).extractLsb' 32 32 := ofNat_byteField _ 4 4
  simp only [filterStage, coeff]

/-- The calibration of a staged FILTER (R69). -/
theorem filterOffset_eq (it : CmdItem) : filterOffset it = ((it.words.getD 5 0).extractLsb' 16 16).toInt :=
  congrArg BitVec.toInt (ofNat_byteField (stagedWord it 5) 2 2)

/-- A LAYOUT_OVERRIDE item as the row of one operation takes it (log 31). -/
theorem isOverrideOp_of {it : CmdItem} {rest : List CmdItem} {s : State} {op : Nat} (h : headIs .layoutOverride it rest s)
    (taken : partCode it = op ∨ partCode it = 0 ∨ 2 < partCode it) : isOverrideOp op it = true := by
  simp only [isOverrideOp, h.isKind, Bool.true_and, Bool.or_eq_true, beq_iff_eq, decide_eq_true_eq]
  tauto

/-- CONTROL_MASK (R28). -/
theorem ownControlMask_eq (it : CmdItem) (s : State) : ownControlMask it s =
    if it.arg.getLsbD 15 = true ∨ it.master = 15 ∨ it.arg.getLsbD it.master.toNat = false then .error .badValue
    else .ok ({ s with cu := { s.cu with controlMask := it.arg.extractLsb' 0 16 } }, 0) := by
  have bad : (namesMaster15 (it.arg.extractLsb' 0 16) || !inSet it.master (it.arg.extractLsb' 0 16)) = true
      ↔ it.arg.getLsbD 15 = true ∨ it.master = 15 ∨ it.arg.getLsbD it.master.toNat = false := by
    have inside : it.master.toNat < 16 := it.master.isLt
    rw [Bool.or_eq_true, Bool.not_eq_true', ← Bool.not_eq_true, inSet_iff]
    simp only [namesMaster15, BitVec.getLsbD_extractLsb', inside, Nat.zero_add, decide_true, Bool.true_and,
      Nat.reduceLT, not_and_or, not_not, Bool.not_eq_true]
  unfold ownControlMask
  simp only [ofNat_argField, bad]

/-- ACTIVITY_SET (R85). -/
theorem ownActivitySet_eq (it : CmdItem) (s : State) : ownActivitySet it s =
    (let tOn : Int := (it.arg.extractLsb' 0 16).toInt
     let tOff : Int := (it.arg.extractLsb' 16 16).toInt
     let qOn := (it.arg.extractLsb' 32 8).toNat
     let qOff := (it.arg.extractLsb' 40 8).toNat
     if -999 ≤ tOn ∧ tOn ≤ 200 ∧ -999 ≤ tOff ∧ tOff ≤ 200 ∧ tOff < tOn ∧ 1 ≤ qOn ∧ qOn ≤ 50 ∧ 1 ≤ qOff ∧ qOff ≤ 50 then
       .ok ({ s with ag := { s.ag with onCount := 0, offCount := 0, tOn := tOn, tOff := tOff, qOn := qOn, qOff := qOff } }, 0)
     else .error .badValue) := by
  have level (lo : Nat) : signedField 16 (argField it.arg lo 16) = (it.arg.extractLsb' lo 16).toInt :=
    congrArg BitVec.toInt (ofNat_argField it.arg lo 16)
  simp only [ownActivitySet, level, argField_eq it.arg _ 8]
  split
  · rw [if_neg (by omega)]
  · rw [if_pos (by omega)]
    rfl

end Sys2Proof.Machine

open Sys2Proof Sys2Proof.Machine in
/-- Settles O29: each owner either replaces its settings or refuses, by the range of its fields. -/
theorem settingsReplaced : Obligations.SettingsReplaced := by
  refine ⟨fun s it rest h => ?_, fun s it rest h => ?_, fun s it rest h mode => ?_, fun s it rest h => ?_⟩
  · split
    · exact command_refused h h.isKind ((ownControlMask_eq _ _).trans (if_pos ‹_›))
    · exact command_done h h.isKind ((ownControlMask_eq _ _).trans (if_neg ‹_›))
  · intro op position weight done refused
    have part : partCode it = op := argField_zero it.arg 8
    have refuse {n : Nat} (own : isOverrideOp n it = true) (answer : ownLayoutOverride it (withQueue rest s) = .error .badValue) :
        running s (carryOut (isOverrideOp n) ownLayoutOverride) = .next refused := command_refused h own answer
    refine ⟨fun set => ?_, fun clear => ?_, fun unknown => ?_⟩
    · have own := isOverrideOp_of h (.inl (part.trans set))
      have answer : ownLayoutOverride it (withQueue rest s) = if 7 < position ∨ 2000 < weight then .error .badValue else _ :=
        if_pos (part.trans set)
      split
      · exact command_done h own (answer.trans (if_neg (by omega)))
      · exact refuse own (answer.trans (if_pos (by omega)))
    · have own := isOverrideOp_of h (.inl (part.trans clear))
      exact command_done h own ((if_neg (by omega)).trans (if_pos (part.trans clear)))
    · have answer : ownLayoutOverride it (withQueue rest s) = .error .badValue :=
        (if_neg (by omega)).trans (if_neg (by omega))
      exact ⟨refuse (isOverrideOp_of h (by omega)) answer, refuse (isOverrideOp_of h (by omega)) answer⟩
  · intro word stage c
    have offset : filterOffset it = c := filterOffset_eq it
    have off : ownFilter it (withQueue rest s) = if filterOffset it < -50 ∨ 50 < filterOffset it then .error .badValue
        else .ok ({ withQueue rest s with lu := { s.lu with
          stage1 := stage 0, stage2 := stage 32, calibration := filterOffset it } }, 0) := by
      have first : filterStage it false = stage 0 := filterStage_first it
      have second : filterStage it true = stage 32 := filterStage_second it
      rw [← first, ← second]
      exact offOnly_off it mode
    rw [offset] at off
    split
    · exact command_done h h.isKind (off.trans (if_neg (by omega)))
    · exact command_refused h h.isKind (off.trans (if_pos (by omega)))
  · intro tOn tOff qOn qOff
    split
    · exact command_done h h.isKind ((ownActivitySet_eq _ _).trans (if_pos ‹_›))
    · exact command_refused h h.isKind ((ownActivitySet_eq _ _).trans (if_neg ‹_›))
end

section
set_option Elab.async false

namespace Sys2Proof.Machine

/-! ### The archive commands (R26, R149, R152 to R154) -/

/-- The masters that may command the archive (R26). -/
theorem inSet_archiveMask (m : Master) (mp : MemPath) : inSet m (archiveMask mp) = true
    ↔ m ≠ 15 ∧ ∃ w, windowOf .record mp = some w ∧ w.archiveMask.getLsbD m.toNat = true := by
  rw [inSet_iff, archiveMask]
  cases windowOf .record mp <;> simp

section

variable {own : Segment → Owner} {it : CmdItem} {s : State}

/-- An archive command of a master outside the archive mask (R26). -/
theorem archiveCommand_privilege (h : ¬ inSet it.master (archiveMask s.mp) = true) :
    archiveCommand own it s = .error .privilege := if_neg h

/-- An archive command at an index past the table (R149). -/
theorem archiveCommand_past (allowed : inSet it.master (archiveMask s.mp) = true)
    (h : s.rc.table.length ≤ it.arg.toNat % 2 ^ 8) : archiveCommand own it s = .error .badSegment := by
  rw [archiveCommand, if_pos allowed, argField_zero, List.getElem?_eq_none h]

/-- An archive command on the segment that it names (R149). -/
theorem archiveCommand_named {g : Segment} (allowed : inSet it.master (archiveMask s.mp) = true)
    (named : s.rc.table[it.arg.toNat % 2 ^ 8]? = some g) : archiveCommand own it s = own g it s := by
  rw [archiveCommand, if_pos allowed, argField_zero, named]

end

section

variable {g : Segment} (it : CmdItem) (s : State)

theorem exportOn_refuses (h : g.state = .free ∨ g.state = .exporting) : exportOn g it s = .error .segmentState := by
  rcases h with h | h <;> simp only [exportOn, h]

theorem exportOn_held (h : g.state = .held) : exportOn g it s = .ok (grantExport g it s, 0) := by
  simp only [exportOn, h]

theorem exportOn_closed (h : g.state = .closed) : exportOn g it s =
    if holdCount s.rc.table < s.rc.table.length - 2 then .ok (grantExport g it s, 0) else .error .holdLimit := by
  simp only [exportOn, h, hasRoom, decide_eq_true_eq, Nat.lt_sub_iff_add_lt]

theorem exportOn_filling (h : g.state = .filling) : exportOn g it s =
    if s.rc.pendingExport = none then .ok (placeExport g it s, 0) else .error .exportPending := by
  simp only [exportOn, h]
  cases s.rc.pendingExport <;> rfl

theorem exportDoneOn_refuses (h : g.state ≠ .exporting) : exportDoneOn g it s = .error .segmentState := by
  unfold exportDoneOn
  split
  · exact absurd ‹_› h
  all_goals rfl

theorem exportDoneOn_exporting (h : g.state = .exporting) {wasHeld : Bool} (before : g.beforeExportHeld = some wasHeld) :
    exportDoneOn g it s
      = .ok (putSegment { g with
          state := if wasHeld then .held else .closed, blockedMark := false, beforeExportHeld := none } s, 0) := by
  simp only [exportDoneOn, h, returnState, before]
  cases wasHeld <;> rfl

end

end Sys2Proof.Machine

open Sys2Proof Sys2Proof.Machine in
/-- Settles O51: the checks that the four commands share come first, then the state of the named segment decides. -/
theorem exportCommands : Obligations.ExportCommands := by
  constructor
  · intro s it rest c k row h allowed refused
    have shared {own : Segment → Owner} :
        (¬ allowed → running s (carryOut (isKind k) (archiveCommand own))
            = .next (offer (.commandRefused it.tag k.code it.master k.offset .privilege) (withQueue rest s)))
          ∧ (allowed → s.rc.table.length ≤ it.arg.toNat % 2 ^ 8 → running s (carryOut (isKind k) (archiveCommand own))
            = .next (offer (.commandRefused it.tag k.code it.master k.offset .badSegment) (withQueue rest s))) := by
      have mask : inSet it.master (archiveMask (withQueue rest s).mp) = true ↔ allowed := inSet_archiveMask it.master s.mp
      exact ⟨fun outside => command_refused h h.isKind (archiveCommand_privilege (mt mask.mp outside)),
        fun inside past => command_refused h h.isKind (archiveCommand_past (mask.mpr inside) past)⟩
    simp only [List.mem_cons, Prod.mk.injEq, List.not_mem_nil, or_false] at row
    rcases row with ⟨rfl, rfl⟩ | ⟨rfl, rfl⟩ | ⟨rfl, rfl⟩ | ⟨rfl, rfl⟩ <;> exact shared
  · intro s it rest g allowed named _ q put out granted
    have on {own : Segment → Owner} : archiveCommand own it q = own g it q := archiveCommand_named allowed named
    refine ⟨fun h => ?_, fun h => ?_⟩
    · intro done refused
      have refuse {reason : Reason} (answer : exportOn g it q = .error reason) : exec .exportRequest s = .next (refused reason) :=
        command_refused h h.isKind (on.trans answer)
      have accept {t : State} (answer : exportOn g it q = .ok (t, 0)) : exec .exportRequest s = .next (done t) :=
        command_done h h.isKind (on.trans answer)
      exact ⟨fun state => refuse (exportOn_refuses it q state), fun state => accept (exportOn_held it q state),
        fun state room => accept ((exportOn_closed it q state).trans (if_pos room)),
        fun state full => refuse ((exportOn_closed it q state).trans (if_neg (Nat.not_lt.mpr full))),
        fun state free => accept ((exportOn_filling it q state).trans (if_pos free)),
        fun state taken => refuse ((exportOn_filling it q state).trans (if_neg taken))⟩
    · exact ⟨fun state => command_refused h h.isKind (on.trans (exportDoneOn_refuses it q state)),
        fun state wasHeld before => command_done h h.isKind (on.trans (exportDoneOn_exporting it q state before))⟩
end

section
set_option Elab.async false

namespace Sys2Proof.Machine

/-! ### Closings (R94, R129) -/

section

variable {s : State} {e : OpenEntry} (actualEnd : Time) (aborted : Bool)

/-- With no entry open there is nothing to close. -/
theorem closeEntry_of_none (open_ : s.su.openEntry = none) : closeEntry actualEnd aborted s = s := by
  rw [closeEntry, open_]

/-- A banked entry moves into its bank's closing slot, and the scan begins (R94, R129). -/
theorem closeEntry_banked {bank : Bank} (open_ : s.su.openEntry = some e) (banked : e.bank = some bank) :
    closeEntry actualEnd aborted s = { s with
      su := setSlot bank (some ⟨closedOf e actualEnd aborted, scanTime s⟩) { s.su with openEntry := none }
      ag := setBank bank { bankOf s.ag bank with state := .scanning } s.ag } := by
  simp only [closeEntry, open_, banked]
  rfl

/-- An unbanked entry has its verdict at once, and no LOUDNESS hold: its outcome is undetermined (R129, R132). -/
theorem closeEntry_unbanked (open_ : s.su.openEntry = some e) (unbanked : e.bank = none) :
    closeEntry actualEnd aborted s
      = offer (.verdict (verdictOf (closedOf e actualEnd aborted) none none))
          { s with su := { s.su with openEntry := none } } := by
  simp only [closeEntry, open_, unbanked]
  rfl

/-- The bank of the entry that closes is SCANNING (R90). -/
theorem closeEntry_ag (open_ : s.su.openEntry = some e) :
    (closeEntry actualEnd aborted s).ag = bankGoes e.bank .scanning s.ag := by
  cases bank : e.bank with
  | none =>
    rw [closeEntry_unbanked _ _ open_ bank]
    rfl
  | some k =>
    rw [closeEntry_banked _ _ open_ bank]
    cases k <;> rfl

/-- A closing changes the activity and gating unit in a bank alone. -/
theorem closeEntry_ag_banks : (closeEntry actualEnd aborted s).ag = { s.ag with
    bankA := (closeEntry actualEnd aborted s).ag.bankA, bankB := (closeEntry actualEnd aborted s).ag.bankB } := by
  cases open_ : s.su.openEntry with
  | none => rw [closeEntry_of_none _ _ open_]
  | some e =>
    rw [closeEntry_ag _ _ open_]
    rfl

/-- The bank of the entry that closes keeps its counts (R90). -/
theorem closeEntry_bank {bank : Bank} (open_ : s.su.openEntry = some e) (banked : e.bank = some bank) :
    bankOf (closeEntry actualEnd aborted s).ag bank = { bankOf s.ag bank with state := .scanning } := by
  rw [closeEntry_ag _ _ open_, banked]
  cases bank <;> rfl

/-- Any other bank stays as it is. -/
theorem closeEntry_otherBank {bank : Bank} (other : ∀ e, s.su.openEntry = some e → e.bank ≠ some bank) :
    bankOf (closeEntry actualEnd aborted s).ag bank = bankOf s.ag bank := by
  cases open_ : s.su.openEntry with
  | none => rw [closeEntry_of_none _ _ open_]
  | some e =>
    rw [closeEntry_ag _ _ open_]
    cases bank <;> exact if_neg (other e open_)

/-- A closing keeps the settings of the schedule unit and its count of stray cues. -/
theorem closeEntry_settings : (closeEntry actualEnd aborted s).su.defaults = s.su.defaults
    ∧ (closeEntry actualEnd aborted s).su.policy = s.su.policy
    ∧ (closeEntry actualEnd aborted s).su.strayCues = s.su.strayCues := by
  cases open_ : s.su.openEntry with
  | none =>
    rw [closeEntry_of_none _ _ open_]
    exact ⟨rfl, rfl, rfl⟩
  | some e =>
    cases bank : e.bank with
    | none =>
      rw [closeEntry_unbanked _ _ open_ bank]
      exact ⟨rfl, rfl, rfl⟩
    | some k =>
      rw [closeEntry_banked _ _ open_ bank]
      cases k <;> exact ⟨rfl, rfl, rfl⟩

/-- The slot of the bank of the entry that closes. -/
theorem closeEntry_slot {bank : Bank} (open_ : s.su.openEntry = some e) (banked : e.bank = some bank) :
    slotOf (closeEntry actualEnd aborted s).su bank = some ⟨closedOf e actualEnd aborted, scanTime s⟩ := by
  rw [closeEntry_banked _ _ open_ banked]
  cases bank <;> rfl

/-- The slot of any other bank. -/
theorem closeEntry_otherSlot {bank : Bank} (other : ∀ e, s.su.openEntry = some e → e.bank ≠ some bank) :
    slotOf (closeEntry actualEnd aborted s).su bank = slotOf s.su bank := by
  cases open_ : s.su.openEntry with
  | none => rw [closeEntry_of_none _ _ open_]
  | some e =>
    cases closing : e.bank with
    | none =>
      rw [closeEntry_unbanked _ _ open_ closing]
      cases bank <;> rfl
    | some k =>
      have apart : bank ≠ k := fun same => other e open_ (same ▸ closing)
      rw [closeEntry_banked _ _ open_ closing]
      rw [slotOf_setSlot_other _ _ apart]
      cases bank <;> rfl

/-- A closing offers nothing unless the entry is unbanked (R129). -/
theorem closeEntry_ru_quiet (banked : ∀ e, s.su.openEntry = some e → e.bank ≠ none) :
    (closeEntry actualEnd aborted s).ru = s.ru := by
  cases open_ : s.su.openEntry with
  | none => rw [closeEntry_of_none _ _ open_]
  | some e =>
    obtain ⟨k, bank⟩ := Option.ne_none_iff_exists'.mp (banked e open_)
    rw [closeEntry_banked _ _ open_ bank]

/-- An unbanked entry's VERDICT is offered as it closes (R129). -/
theorem closeEntry_ru_verdict (open_ : s.su.openEntry = some e) (unbanked : e.bank = none) :
    (closeEntry actualEnd aborted s).ru
      = takeOffer (.verdict (verdictOf (closedOf e actualEnd aborted) none none)) s.tb.time s.ru := by
  rw [closeEntry_unbanked _ _ open_ unbanked]
  rfl

end

/-! ### Openings (R118, R125, R127) -/

/-- The recorder's part of an opening sees the mode and the recorder alone (R144). -/
theorem noteOpening_rc_congr (id : EntryId) {s t : State} (mode : s.cu.mode = t.cu.mode) (rc : s.rc = t.rc) :
    (noteOpening id s).rc = (noteOpening id t).rc := by
  unfold noteOpening
  rw [mode, rc]
  split
  · split <;> simp only [putSegment, rc]
  · exact rc

section

variable (e : Entry) (start : Time) (cause : Cause) (early : Bool) (rest : List Entry) (s : State)

/-- The record of an opening: the bank is one that is FREE once the entry before it has closed (R125, R127). -/
def recordOpened : OpenEntry :=
  recordAtOpening e start cause early (s.cu.mode = .replay) (bankToTake (closeEntry start false s).ag) s.ca.windowPresent

theorem openOne_ag : (openOne e start cause early rest s).ag
    = openingActivity (bankToTake (closeEntry start false s).ag) s.tb.time (closeEntry start false s).ag := by
  simp [openOne, freeBank_eq]

theorem openOne_ca : (openOne e start cause early rest s).ca = { s.ca with gapTimer := 0 } := by
  simp [openOne]

theorem openOne_su : (openOne e start cause early rest s).su = { (closeEntry start false s).su with
    queue := rest, openEntry := some (recordOpened e start cause early s) } := by
  simp [openOne, recordOpened, freeBank_eq, newRecord_eq, beq_eq_decide]

theorem openOne_rc : (openOne e start cause early rest s).rc = (noteOpening e.id s).rc := by
  simp only [openOne, offer_frame]
  exact noteOpening_rc_congr e.id (by simp) (by simp)

theorem openOne_ru : (openOne e start cause early rest s).ru
    = takeOffer (.entryOpened (recordOpened e start cause early s) e.start (s.su.openEntry.map (·.entry.id)) rest.length)
        s.tb.time (closeEntry start false s).ru := by
  simp [openOne, recordOpened, freeBank_eq, newRecord_eq, beq_eq_decide, offer, openId]

end

end Sys2Proof.Machine
end

section
set_option Elab.async false

namespace Sys2Proof.Machine

/-! ### The head opens, and the heads after it (R118, R125) -/

/-- The start of the head of a pending queue, as the compare holds it (R43). -/
def headStart (queue : List Entry) : Option Time := queue.head?.map (·.start)

/-- A compare that is loaded already. -/
theorem loadCompare_of_loaded {s : State} {value : Option Time} (compare : s.tb.compare = value) (firing : s.tb.firing = none) :
    loadCompare value s = s := by
  subst compare
  rw [loadCompare, ← firing]

/-- The compare plays no part in a closing. -/
theorem closeEntry_loadCompare (actualEnd : Time) (aborted : Bool) (value : Option Time) (s : State) :
    closeEntry actualEnd aborted (loadCompare value s) = loadCompare value (closeEntry actualEnd aborted s) := by
  cases open_ : s.su.openEntry with
  | none => rw [closeEntry_of_none _ _ open_, closeEntry_of_none (s := loadCompare value s) _ _ open_]
  | some old =>
    cases bank : old.bank with
    | none =>
      rw [closeEntry_unbanked _ _ open_ bank, closeEntry_unbanked (s := loadCompare value s) _ _ open_ bank]
      rfl
    | some k =>
      rw [closeEntry_banked _ _ open_ bank, closeEntry_banked (s := loadCompare value s) _ _ open_ bank]
      rfl

/-- The compare plays no part in what the recorder notes of an opening. -/
theorem noteOpening_loadCompare (id : EntryId) (value : Option Time) (s : State) :
    noteOpening id (loadCompare value s) = loadCompare value (noteOpening id s) := by
  simp only [noteOpening, loadCompare_frame]
  cases fillingOf s.rc.table <;> (dsimp only; split <;> rfl)

/-- Steps 2 to 4 of an opening: the entry, its bank and the timers (R125). -/
def takeEntry (e : Entry) (start : Time) (cause : Cause) (early : Bool) (rest : List Entry) (s : State) : State :=
  { s with
    su := { s.su with
      queue := rest
      openEntry := some (newRecord e start cause early (s.cu.mode == .replay) (freeBank s.ag) s.ca.windowPresent) }
    ag := openingActivity (freeBank s.ag) s.tb.time s.ag
    ca := { s.ca with gapTimer := 0 } }

/-- The compare plays no part in an opening. -/
theorem openOne_loadCompare (e : Entry) (start : Time) (cause : Cause) (early : Bool) (rest : List Entry)
    (value : Option Time) (s : State) : openOne e start cause early rest (loadCompare value s)
      = loadCompare value (openOne e start cause early rest s) := by
  have noted := noteOpening_loadCompare e.id value (takeEntry e start cause early rest (closeEntry start false s))
  unfold openOne
  dsimp only
  rw [closeEntry_loadCompare]
  exact congrArg (offer _) noted

/-- The heads after an opening see the pending queue, not the compare. -/
theorem cascade_loadCompare (atStart : Bool) (l : List Entry) (value : Option Time) (s : State) :
    cascade atStart l (loadCompare value s) = cascade atStart l s := by
  induction l generalizing s with
  | nil => rfl
  | cons e rest ih =>
    have due : opensAtOnce atStart e (loadCompare value s).tb.time = opensAtOnce atStart e s.tb.time := rfl
    unfold cascade
    rw [due]
    split
    · exact (congrArg _ (openOne_loadCompare ..)).trans (ih _)
    · rfl

/-- A head that is due opens at once (R30, R118, log 18). -/
theorem opensAtOnce_iff (atStart : Bool) (e : Entry) (now : Time) :
    opensAtOnce atStart e now = true ↔ dueAtOnce atStart now e := by
  simp [opensAtOnce, dueAtOnce, reached, later, since]

/-- One opening, with the compare on the head after it (R90, R91, R94, R125, R127). -/
theorem headOpened_openOne {s : State} {old : OpenEntry} (open_ : s.su.openEntry = some old) (e : Entry) (rest : List Entry)
    (start : Time) (cause : Cause) (early : Bool) :
    HeadOpened s (loadCompare (headStart rest) (openOne e start cause early rest s)) old e rest start cause early := by
  have record : recordOpened e start cause early s = recordAtOpening e start cause early (s.cu.mode = .replay)
      (bankToTake (bankGoes old.bank .scanning s.ag)) s.ca.windowPresent := by
    rw [recordOpened, closeEntry_ag _ _ open_]
  have schedule := openOne_su e start cause early rest s
  rw [record] at schedule
  have offered := openOne_ru e start cause early rest s
  rw [open_, record] at offered
  have slots (bank : Bank) : slotOf (openOne e start cause early rest s).su bank
      = slotOf (closeEntry start false s).su bank := by
    rw [openOne_su]
    cases bank <;> rfl
  obtain ⟨defaults, policy, stray⟩ := closeEntry_settings (s := s) start false
  refine ⟨?_, ?_, ?_, openOne_ca .., (congrArg Schedule.queue schedule), congrArg Schedule.openEntry schedule, ?_, ?_, ?_,
    fun bank banked => ?_, fun bank other => ?_, openOne_rc .., fun banked => ?_, fun unbanked => ?_⟩
  · obtain ⟨pending, asserted, mp, cu, -, ao, lu⟩ := openOne_frame e start cause early rest s
    simp only [loadCompare, ← pending, ← asserted, ← mp, ← cu, ← ao, ← lu]
  · rw [loadCompare_tb, openOne_tb]
    rfl
  · have opening := openOne_ag e start cause early rest s
    rw [closeEntry_ag _ _ open_] at opening
    refine opening.trans ?_
    rw [openingActivity, collectIn_eq]
    rfl
  · exact (congrArg Schedule.defaults schedule).trans defaults
  · exact (congrArg Schedule.policy schedule).trans policy
  · exact (congrArg Schedule.strayCues schedule).trans stray
  · exact (slots bank).trans (closeEntry_slot _ _ open_ banked)
  · refine (slots bank).trans (closeEntry_otherSlot _ _ fun e' open' => ?_)
    rw [Option.some.inj (open_.symm.trans open')] at other
    exact other
  · refine offered.trans ?_
    rw [closeEntry_ru_quiet _ _ fun e' open' => Option.some.inj (open_.symm.trans open') ▸ banked]
    rfl
  · refine offered.trans ?_
    rw [closeEntry_ru_verdict _ _ open_ unbanked]
    rfl

/-- Heads that are due open one after the other, and the compare holds the first that is not (R118, R125). -/
theorem cascade_headsOpenOn (atStart : Bool) {l : List Entry} {s : State} {old : OpenEntry} (queue : s.su.queue = l)
    (compare : s.tb.compare = headStart l) (firing : s.tb.firing = none) (open_ : s.su.openEntry = some old) :
    HeadsOpenOn atStart s (cascade atStart l s) := by
  induction l generalizing s old with
  | nil =>
    have same : loadCompare none s = s := loadCompare_of_loaded compare firing
    rw [cascade, same]
    exact .stays s (by simp [queue])
  | cons e rest ih =>
    unfold cascade
    split
    · rename_i due
      have opened := headOpened_openOne open_ e rest s.tb.time (headCause e) false
      rw [← cascade_loadCompare _ _ (headStart rest)]
      refine .opens s _ _ old e rest open_ queue ((opensAtOnce_iff ..).mp due) opened ?_
      exact ih (congrArg Schedule.queue (openOne_su ..)) rfl rfl (congrArg Schedule.openEntry (openOne_su ..))
    · rename_i later
      have same : loadCompare (some e.start) s = s := loadCompare_of_loaded compare firing
      rw [same]
      refine .stays s fun e' head => ?_
      rw [queue] at head
      exact Option.some.inj head ▸ mt (opensAtOnce_iff ..).mpr later

/-- Heads that are not due leave the state as it is, once the compare is loaded (R118). -/
theorem cascade_stays {atStart : Bool} {l : List Entry} {s : State} (compare : s.tb.compare = headStart l)
    (firing : s.tb.firing = none) (pending : ∀ e, l.head? = some e → ¬ dueAtOnce atStart s.tb.time e) :
    cascade atStart l s = s := by
  cases l with
  | nil => exact loadCompare_of_loaded compare firing
  | cons e rest =>
    rw [cascade, if_neg (mt (opensAtOnce_iff ..).mp (pending e rfl))]
    exact loadCompare_of_loaded compare firing

end Sys2Proof.Machine
end

section
set_option Elab.async false

namespace Sys2Proof.Machine

/-! ### A change of mode with nothing left over (log 6) -/

/-- With nothing handed or offered there is nothing to take. -/
theorem drainOffers_of_nothing {s : State} (settled_ : settled s = true) (h : nothingHanded s) : drainOffers s = s := by
  obtain ⟨audio, captions, owed, firing, cues⟩ := h
  have ticks : takeOwedTicks s = s := by
    simp [takeOwedTicks, takeObserverTick, takeActivityTick, takeCaptionTick, takeScheduleTick, takeReportTick, owed,
      TickSet.none]
  have offers : takeOffers s = s := by simp [takeOffers, ticks, takeFiring, firing, cues, takeCues]
  simp [drainOffers, audio, captions, repeatStep, settleWord_of_settled settled_, offers]

/-- A command of a part that is ready, with nothing left over (log 6). -/
theorem headIs.drained {k : CmdKind} {it : CmdItem} {rest : List CmdItem} {s : State} (h : headIs k it rest s)
    (nothing : nothingHanded s) : drainOffers (withQueue rest s) = withQueue rest s := by
  obtain ⟨ready_, -, -⟩ := h
  exact drainOffers_of_nothing (s := withQueue rest s) (Bool.and_eq_true_iff.mp ready_).2 nothing

/-! ### START (R30) -/

/-- The part that START opens the default entry in: the mode is set, and the observers begin QUIET and in WAIT_HEADER
(R30). -/
def readyToStart (m : Mode) (s : State) : State :=
  { enterMode m s with ag := quietForStart s.tb.time s.ag, ca := captionForStart s.ca }

/-- The part once the default entry is open, with the compare on the head of the pending queue (R30, R43). -/
def defaultOpened (m : Mode) (s : State) : State :=
  loadCompare (headStart s.su.queue)
    (openOne (defaultEntry s.su.defaults s.tb.time) s.tb.time .start false s.su.queue (readyToStart m s))

/-- START opens the default entry, and then the heads whose starts have passed (R30). -/
theorem startMode_eq (m : Mode) (s : State) : startMode m s = cascade true s.su.queue (defaultOpened m s) :=
  (cascade_loadCompare ..).symm

/-- START, before any head opens (R30, R119, R125). -/
theorem startOpened_default {s : State} {m : Mode} (items : List CmdItem) (off : s.cu.mode = .off)
    (open_ : s.su.openEntry = none) (firing : s.tb.firing = none) :
    StartOpened s (defaultOpened m (withQueue items s)) m items := by
  have closed : closeEntry s.tb.time false (readyToStart m (withQueue items s)) = readyToStart m (withQueue items s) :=
    closeEntry_of_none _ _ open_
  have record : recordOpened (defaultEntry s.su.defaults s.tb.time) s.tb.time .start false
      (readyToStart m (withQueue items s)) = recordAtOpening (defaultEntry s.su.defaults s.tb.time) s.tb.time .start false
        (m = .replay) (bankToTake s.ag) s.ca.windowPresent := by
    rw [recordOpened, closed]
    rfl
  have schedule := openOne_su (defaultEntry s.su.defaults s.tb.time) s.tb.time .start false s.su.queue
    (readyToStart m (withQueue items s))
  have activity := openOne_ag (defaultEntry s.su.defaults s.tb.time) s.tb.time .start false s.su.queue
    (readyToStart m (withQueue items s))
  have offered := openOne_ru (defaultEntry s.su.defaults s.tb.time) s.tb.time .start false s.su.queue
    (readyToStart m (withQueue items s))
  obtain ⟨pending, asserted, mp, cu, tb, ao, lu⟩ := openOne_frame (defaultEntry s.su.defaults s.tb.time) s.tb.time .start
    false s.su.queue (readyToStart m (withQueue items s))
  have none_ : (readyToStart m (withQueue items s)).su.openEntry = none := open_
  rw [closed, record] at schedule
  rw [closed] at activity
  rw [closed, record, none_] at offered
  refine ⟨?_, cu, ?_, schedule, ?_, openOne_ca .., ?_, offered⟩
  · have frame : (defaultOpened m (withQueue items s)).pending = s.pending
        ∧ (defaultOpened m (withQueue items s)).resetAsserted = s.resetAsserted
        ∧ (defaultOpened m (withQueue items s)).mp = s.mp ∧ (defaultOpened m (withQueue items s)).ao = s.ao
        ∧ (defaultOpened m (withQueue items s)).lu = s.lu := ⟨pending, asserted, mp, ao, lu⟩
    obtain ⟨pending, asserted, mp, ao, lu⟩ := frame
    simp only [← pending, ← asserted, ← mp, ← ao, ← lu]
  · have clock : (defaultOpened m (withQueue items s)).tb
        = { retime s.cu.mode m s.tb with compare := headStart s.su.queue, firing := none } :=
      (loadCompare_tb ..).trans
        (congrArg (fun tb : TimeBase => { tb with compare := headStart s.su.queue, firing := none }) tb)
    rw [clock, off]
    simp [retime, unseedCue, clearRun, headStart, firing]
  · refine activity.trans ?_
    rw [openingActivity, collectIn_eq]
    rfl
  · exact (openOne_rc ..).trans (noteOpening_rc_congr _ rfl rfl)

end Sys2Proof.Machine

open Sys2Proof Sys2Proof.Machine in
/-- Settles O17: with nothing left over START is the default entry's opening, then the heads that are due. -/
theorem startOpensDefaultEntry : Obligations.StartOpensDefaultEntry := by
  intro s it rest m h nothing off open_ report code
  have observes : m ≠ .off := by rcases code with ⟨rfl, -⟩ | ⟨rfl, -⟩ <;> decide
  have named : modeOfCode (it.arg.toNat % 256) = some m := by rcases code with ⟨rfl, code⟩ | ⟨rfl, code⟩ <;> rw [code] <;> rfl
  have drained := h.drained nothing
  obtain ⟨-, -, -, firing, -⟩ := nothing
  have opened := startOpened_default (m := m) rest off open_ firing
  have answer : ownSetMode it (withQueue rest s) = .ok (startMode m (withQueue rest s), 0) := by
    rw [ownSetMode_mode _ named, drained, if_neg (by simp [withQueue, off, observes]), if_neg observes]
    exact if_neg (by simpa [withQueue] using report)
  refine ⟨defaultOpened m (withQueue rest s), startMode m (withQueue rest s), opened, ?_, command_done h h.isKind answer,
    fun pending => ?_⟩
  · obtain ⟨-, -, -, schedule, -⟩ := opened
    rw [startMode_eq]
    exact cascade_headsOpenOn true (by rw [schedule]; rfl) rfl rfl (by rw [schedule])
  · obtain ⟨-, -, clock, -⟩ := opened
    have present : (defaultOpened m (withQueue rest s)).tb.time = s.tb.time := by rw [clock]
    rw [startMode_eq]
    refine cascade_stays rfl rfl fun e head due => ?_
    have later := pending e head
    simp only [dueAtOnce, present] at due
    rcases due with passed | ⟨-, ⟨⟩⟩
    exact absurd later (Int.not_lt.mpr passed)
end

section
set_option Elab.async false

namespace Sys2Proof.Machine

/-! ### SET_MODE to OFF and RESTART, once nothing is left over (R31, R33) -/

/-- The time base at a change to OFF (R31, R38, R44). -/
theorem retime_off (old : Mode) (tb : TimeBase) : retime old .off tb = { tb with
    cueLevel := none, cueRun := 0, cueStart := none, residue := 0
    prescale := if old = .replay then 0 else tb.prescale } := by
  simp [retime, unseedCue, clearRun]

/-- A change to OFF, block by block, but for what the closing does (R31). -/
theorem stopMode_eq (s : State) : stopMode s =
    let closed := closeEntry s.tb.time true (enterMode .off s)
    { s with
      cu := { s.cu with mode := .off }
      tb := { retime s.cu.mode .off s.tb with compare := none, firing := none }
      ao := idleObserver s.ao.shadow { s.ao with sub := none, history := [] }
      lu := { s.lu with momentary := none, shortTerm := none }
      ag := quietForOff closed.ag
      ca := captionForOff s.ca
      su := closed.su
      ru := closed.ru } := by
  obtain ⟨pending, asserted, mp, cu, tb, ao, lu, ca, rc⟩ := closeEntry_frame s.tb.time true (enterMode .off s)
  unfold stopMode
  change loadCompare none (idleObservers (closeEntry s.tb.time true (enterMode .off s)).ao.shadow captionForOff
    (closeEntry s.tb.time true (enterMode .off s))) = _
  generalize closeEntry s.tb.time true (enterMode .off s) = u at *
  cases u
  dsimp only at *
  subst pending asserted mp cu tb ao lu ca rc
  rfl

/-- RESTART clears each bank that is not SCANNING once the open entry has closed (R33, R97). -/
theorem restartPart_bank (s : State) (bank : Bank) :
    bankOf (restartPart s).ag bank = clearUnlessScanning (bankOf (closeEntry s.tb.time true s).ag bank) := by
  rw [restartPart_ag]
  cases bank <;> rfl

theorem restartPart_slot (s : State) (bank : Bank) :
    slotOf (restartPart s).su bank = slotOf (closeEntry s.tb.time true s).su bank := by
  rw [restartPart_su]
  cases bank <;> rfl

/-- RESTART keeps the settings of the activity and gating unit, and leaves it QUIET with nothing counted (R33, R34). -/
theorem restartPart_activity (s : State) :
    (restartPart s).ag.tOn = s.ag.tOn ∧ (restartPart s).ag.tOff = s.ag.tOff ∧ (restartPart s).ag.qOn = s.ag.qOn
      ∧ (restartPart s).ag.qOff = s.ag.qOff ∧ (restartPart s).ag.active = false ∧ (restartPart s).ag.onCount = 0
      ∧ (restartPart s).ag.offCount = 0 ∧ (restartPart s).ag.quietStart = none ∧ (restartPart s).ag.deadTimer = 0
      ∧ (restartPart s).ag.sumN = 0 ∧ (restartPart s).ag.sumS = [] := by
  rw [restartPart_ag, closeEntry_ag_banks]
  exact ⟨rfl, rfl, rfl, rfl, rfl, rfl, rfl, rfl, rfl, rfl, rfl⟩

/-- RESTART empties the pending queue, leaves no entry open, and keeps the settings of the schedule unit (R33, R34). -/
theorem restartPart_schedule (s : State) :
    (restartPart s).su.queue = [] ∧ (restartPart s).su.openEntry = none ∧ (restartPart s).su.defaults = s.su.defaults
      ∧ (restartPart s).su.policy = s.su.policy ∧ (restartPart s).su.strayCues = s.su.strayCues := by
  rw [restartPart_su]
  exact ⟨rfl, closeEntry_openEntry .., closeEntry_settings ..⟩

end Sys2Proof.Machine

open Sys2Proof Sys2Proof.Machine in
/-- Settles O18: the entry closes banked or unbanked, and every other block is set by the change of mode. -/
theorem changeToOff : Obligations.ChangeToOff := by
  intro s it rest e h nothing on target open_ closed
  have code : modeOfCode (it.arg.toNat % 256) = some .off := by rw [target]; rfl
  have answer : ownSetMode it (withQueue rest s) = .ok (stopMode (withQueue rest s), 0) := by
    rw [ownSetMode_mode _ code, h.drained nothing, if_neg (by simp [withQueue, on])]
    rfl
  refine ⟨_, command_done h h.isKind answer, ?_⟩
  rw [stopMode_eq]
  refine ⟨rfl, rfl, ?_, rfl, rfl, rfl, fun bank banked => ?_, fun unbanked => ?_⟩
  · obtain ⟨-, -, -, firing, -⟩ := nothing
    simp [retime_off, withQueue, firing]
  · have closing := closeEntry_banked (s := enterMode .off (withQueue rest s)) s.tb.time true open_ banked
    have activity := congrArg State.ag closing
    have reports := congrArg State.ru closing
    refine ⟨congrArg State.su closing, (congrArg quietForOff activity).trans ?_,
      congrArg (takeOffer (.commandDone it.tag 0 it.master 0x000 0) s.tb.time) reports⟩
    cases bank <;> rfl
  · have closing := closeEntry_unbanked (s := enterMode .off (withQueue rest s)) s.tb.time true open_ unbanked
    have activity := congrArg State.ag closing
    have reports := congrArg State.ru closing
    exact ⟨congrArg State.su closing, congrArg quietForOff activity,
      congrArg (takeOffer (.commandDone it.tag 0 it.master 0x000 0) s.tb.time) reports⟩

open Sys2Proof Sys2Proof.Machine in
/-- Settles O19: RESTART block by block; a bank is cleared unless it is SCANNING once the open entry has closed. -/
theorem restartClearsAndKeeps : Obligations.RestartClearsAndKeeps := by
  intro s it rest h nothing _
  have drained := h.drained nothing
  obtain ⟨audio, captions, -, firing, -⟩ := nothing
  have answer : ownRestart it (withQueue rest s) = .ok (restartPart (withQueue rest s), s.su.queue.length) := by
    simp only [ownRestart, drained]
    rfl
  have time : (restartPart (withQueue rest s)).tb.time = s.tb.time := by
    rw [restartPart_tb]
    dsimp only
    split <;> rfl
  have offered : takeOffer (.commandDone it.tag 15 it.master 0x078 s.su.queue.length)
      (restartPart (withQueue rest s)).tb.time (restartPart (withQueue rest s)).ru
      = takeOffer (.commandDone it.tag 15 it.master 0x078 s.su.queue.length) s.tb.time
          (closeEntry s.tb.time true (withQueue rest s)).ru := by
    rw [time, restartPart_ru]
    rfl
  obtain ⟨tOn, tOff, qOn, qOff, active, onCount, offCount, quiet, timer, sumN, sumS⟩ := restartPart_activity (withQueue rest s)
  obtain ⟨queue, closed, defaults, policy, stray⟩ := restartPart_schedule (withQueue rest s)
  obtain ⟨-, -, mp⟩ := restartPart_frame (withQueue rest s)
  refine ⟨_, command_done h h.isKind answer, mp, restartPart_cu _, ?_, ?_, restartPart_lu _, ?_,
    tOn, tOff, qOn, qOff, active, onCount, offCount, quiet, timer, sumN, sumS, restartPart_rc _, queue, closed, defaults,
    policy, stray,
    fun bank other => ⟨?_, ?_⟩, fun e bank open_ banked => ⟨?_, ?_⟩, fun banked => ?_, fun e open_ unbanked => ?_⟩
  · refine (restartPart_tb _).trans ?_
    split
    · rw [if_pos ‹_›, ← firing]
      rfl
    · rw [if_neg ‹_›, retime_off, ← firing]
      rfl
  · refine (restartPart_ao _).trans ?_
    simp [idleObserver, clearFilters, zeroShadow, AudioObs.reset, withQueue, audio]
  · refine (restartPart_ca _).trans ?_
    simp [captionForStart, captionForOff, waitHeader, Caption.reset, withQueue, captions]
  · exact (restartPart_slot _ bank).trans (closeEntry_otherSlot _ _ other)
  · exact (restartPart_bank _ bank).trans (congrArg clearUnlessScanning (closeEntry_otherBank _ _ other))
  · have closing := closeEntry_bank (s := withQueue rest s) s.tb.time true open_ banked
    exact (restartPart_bank _ bank).trans ((congrArg clearUnlessScanning closing).trans (if_pos rfl))
  · exact (restartPart_slot _ bank).trans (closeEntry_slot _ _ open_ banked)
  · exact offered.trans (congrArg _ (closeEntry_ru_quiet _ _ banked))
  · exact offered.trans (congrArg _ (closeEntry_ru_verdict _ _ open_ unbanked))
end

section
set_option Elab.async false

namespace Sys2Proof.Machine

/-! ### Time and line settings (R40, R41, R46 to R48) -/

section

variable (it : CmdItem) (s : State)

/-- SET_TIME in OFF (R40). -/
theorem ownSetTime_off (off : s.cu.mode = .off) : ownSetTime it s
    = .ok ({ s with tb := { s.tb with time := it.arg.extractLsb' 0 32, prescale := 0 } }, 0) := by
  rw [ownSetTime, offOnly_off it off, ofNat_argField]

/-- SET_PRESCALE in OFF (R41). -/
theorem ownSetPrescale_off (off : s.cu.mode = .off) :
    let d := it.arg.toNat % 2 ^ 32
    ownSetPrescale it s = if 1 ≤ d ∧ d ≤ 65536 then .ok ({ s with tb := { s.tb with divisor := d, prescale := 0 } }, 0)
      else .error .badValue := by
  intro d
  rw [ownSetPrescale, offOnly_off it off, argField_zero]
  by_cases fits : 1 ≤ d ∧ d ≤ 65536
  · exact (if_neg (by omega)).trans (if_pos fits).symm
  · exact (if_pos (by omega)).trans (if_neg fits).symm

/-- CUE_SET (R46). -/
theorem ownCueSet_eq :
    let q := it.arg.toNat % 2 ^ 8
    let window := it.arg.toNat / 2 ^ 8 % 2 ^ 16
    ownCueSet it s = if 1 ≤ q ∧ q ≤ 16 ∧ window ≤ 60000 then
        .ok ({ s with tb := { s.tb with cueQ := q, earlyWindow := window, cueRun := 0, cueStart := none } }, 0)
      else .error .badValue := by
  intro q window
  rw [ownCueSet, argField_zero, argField]
  by_cases fits : 1 ≤ q ∧ q ≤ 16 ∧ window ≤ 60000
  · exact (if_neg (by omega)).trans (if_pos fits).symm
  · exact (if_pos (by omega)).trans (if_neg fits).symm

/-- LINE_FORCE, once its code is read (R48). -/
theorem ownLineForce_code {f : Force} (code : forceOfCode (it.arg.toNat % 2 ^ 8) = some f) :
    ownLineForce it s = .ok ({ s with tb := { s.tb with force := f } }, 0) := by
  rw [ownLineForce, argField_zero, code]

/-- LINE_FORCE with a code that names no force (R48). -/
theorem ownLineForce_past (past : 2 < it.arg.toNat % 2 ^ 8) : ownLineForce it s = .error .badValue := by
  have unnamed : forceOfCode (it.arg.toNat % 2 ^ 8) = none := by
    obtain ⟨k, e⟩ := Nat.exists_eq_add_of_le' past
    rw [e]
    rfl
  rw [ownLineForce, argField_zero, unnamed]

end

/-- TALLY's function, condition by condition (R47). -/
theorem tallyFunction_iff (s : State) : tallyFunction s = true ↔ ∃ e, s.su.openEntry = some e
    ∧ ((e.entry.required = true ∧ e.entry.gapLimit ≤ s.ca.gapTimer)
      ∨ (0 < e.entry.deadAirLimit ∧ e.entry.deadAirLimit ≤ s.ag.deadTimer) ∨ e.overMark = true) := by
  unfold tallyFunction
  cases s.su.openEntry with
  | none => simp
  | some e => simp [gapRunning, deadAirRunning, or_assoc]

end Sys2Proof.Machine

open Sys2Proof Sys2Proof.Machine in
/-- Settles O20: each command is its owner's answer, by the range of its fields, and the lines are read off their
definitions. -/
theorem timeAndLineSettings : Obligations.TimeAndLineSettings := by
  refine ⟨fun s it rest off => ⟨fun h => ?_, fun h => ?_⟩, fun s it rest => ⟨fun h => ?_, fun h => ?_⟩,
    tallyFunction_iff, fun s => rfl⟩
  · exact command_done h h.isKind (ownSetTime_off it (withQueue rest s) off)
  · intro d
    have answer := ownSetPrescale_off it (withQueue rest s) off
    split
    · exact command_done h h.isKind (answer.trans (if_pos ‹_›))
    · exact command_refused h h.isKind (answer.trans (if_neg ‹_›))
  · intro q window
    have answer := ownCueSet_eq it (withQueue rest s)
    split
    · exact command_done h h.isKind (answer.trans (if_pos ‹_›))
    · exact command_refused h h.isKind (answer.trans (if_neg ‹_›))
  · intro force code
    have forced {f : Force} (named : forceOfCode code = some f) : exec .lineForce s = .next (force f) :=
      command_done h h.isKind (ownLineForce_code it (withQueue rest s) named)
    exact ⟨fun zero => ⟨forced (by rw [zero]; rfl), rfl⟩, fun one => ⟨forced (by rw [one]; rfl), rfl⟩,
      fun two => ⟨forced (by rw [two]; rfl), rfl⟩,
      fun past => command_refused h h.isKind (ownLineForce_past it (withQueue rest s) past)⟩
end

section
set_option Elab.async false

namespace Sys2Proof.Machine

/-! ### Counts that stay at their largest value -/

/-- A count goes up by 1 until it stands at its largest value. -/
theorem satAdd_succ {w : Nat} (wide : 0 < w) (n : BitVec w) : satAdd n 1 = if n = BitVec.allOnes w then n else n + 1 := by
  have one : 1 < 2 ^ w := Nat.one_lt_two_pow wide.ne'
  have top : n = BitVec.allOnes w ↔ ¬ n.toNat + 1 < 2 ^ w := by
    rw [← BitVec.toNat_inj, BitVec.toNat_allOnes]
    omega
  unfold satAdd
  split
  · rw [if_neg (by rwa [top, not_not])]
    rfl
  · have full := top.mpr ‹_›
    rw [if_pos full, full]

/-! ### The head of the pending queue opens (R118, R121, R122, R125) -/

section

variable {s : State} {old : OpenEntry} {e : Entry} {rest : List Entry}

/-- The head's own opening, with the compare on the head after it (R43, R125). -/
def headOpenedIn (s : State) (e : Entry) (rest : List Entry) (start : Time) (cause : Cause) (early : Bool) : State :=
  loadCompare (headStart rest) (openOne e start cause early rest s)

/-- The opening of the head, and then of the heads that are due at once (R118, R125). -/
theorem openHead_eq (queue : s.su.queue = e :: rest) (start : Time) (cause : Cause) (early : Bool) :
    openHead start cause early s = cascade false rest (headOpenedIn s e rest start cause early) := by
  rw [openHead, queue, headOpenedIn, cascade_loadCompare]

/-- The head opens, then the heads that are due at once; where the next one stays pending, the head alone (R118, R125). -/
theorem openHead_opens (open_ : s.su.openEntry = some old) (queue : s.su.queue = e :: rest) (start : Time) (cause : Cause)
    (early : Bool) : ∃ u, HeadOpened s u old e rest start cause early ∧ HeadsOpenOn false u (openHead start cause early s)
      ∧ (staysPending s.tb.time rest → openHead start cause early s = u) := by
  refine ⟨headOpenedIn s e rest start cause early, headOpened_openOne open_ .., ?_, fun pending => ?_⟩
  · rw [openHead_eq queue]
    exact cascade_headsOpenOn false (congrArg Schedule.queue (openOne_su ..)) rfl rfl
      (congrArg Schedule.openEntry (openOne_su ..))
  · rw [openHead_eq queue]
    refine cascade_stays rfl rfl fun next head due => ?_
    obtain ⟨ahead, notLate⟩ := pending next head
    have present : (headOpenedIn s e rest start cause early).tb.time = s.tb.time := by
      rw [headOpenedIn, loadCompare_tb, openOne_tb]
    rw [dueAtOnce, present] at due
    rcases due with passed | ⟨late, -⟩
    · omega
    · exact Bool.noConfusion (notLate.symm.trans late)

/-- A firing that is taken plays no part in the opening it makes (R121). -/
theorem takeFiring_eq {v : Time} (fires : s.tb.firing = some v) (queue : s.su.queue = e :: rest) :
    takeFiring s = openHead v .compare false s := by
  have taken : takeFiring s = openHead v .compare false (loadCompare s.tb.compare s) := by rw [takeFiring, fires]; rfl
  rw [taken, openHead_eq queue, openHead_eq (s := loadCompare s.tb.compare s) queue, headOpenedIn, headOpenedIn,
    openOne_loadCompare]
  rfl

end

/-! ### Cues (R122, R123) -/

section

variable {s : State} {captured : Time}

/-- A stray cue is counted and reported (R122). -/
theorem strayCue_eq (captured : Time) (s : State) :
    let count : BitVec 32 := if s.su.strayCues = BitVec.allOnes 32 then s.su.strayCues else s.su.strayCues + 1
    strayCue captured s
      = offer (.strayCue captured (s.su.queue.head?.map fun e => (e.id, e.start)) s.tb.earlyWindow count)
          { s with su := { s.su with strayCues := count } } := by
  unfold strayCue
  rw [satAdd_succ (by decide)]

/-- A cue with nothing pending is stray (R122). -/
theorem judgeCue_nothing (queue : s.su.queue = []) : judgeCue captured s = strayCue captured s := by
  rw [judgeCue, queue]

/-- A cue too far ahead of the head is stray (R122). -/
theorem judgeCue_tooEarly {e : Entry} {rest : List Entry} (queue : s.su.queue = e :: rest)
    (ahead : (s.tb.earlyWindow : Int) < (e.start - captured).toInt) : judgeCue captured s = strayCue captured s := by
  have outside : ¬ cueInWindow captured e s = true := by simpa [cueInWindow, since] using ahead
  simp only [judgeCue, queue, if_neg outside]

/-- A cue within the early window opens the head (R122). -/
theorem judgeCue_opens {e : Entry} {rest : List Entry} (queue : s.su.queue = e :: rest)
    (near : (e.start - captured).toInt ≤ s.tb.earlyWindow) : judgeCue captured s
      = openHead (cueStart captured s) .cue (decide ((cueStart captured s - e.start).toInt < 0)) s := by
  have inside : cueInWindow captured e s = true := by simpa [cueInWindow, since] using near
  simp only [judgeCue, queue, if_pos inside]
  rfl

/-- The start that a cue gives is not before the start of the entry it closes (R122, R178). -/
theorem cueStart_eq {old : OpenEntry} (open_ : s.su.openEntry = some old) : cueStart captured s
    = if (captured - old.actualStart).toInt < 0 then old.actualStart else captured := by
  simp [cueStart, open_, earlier, since]

end

end Sys2Proof.Machine

open Sys2Proof Sys2Proof.Machine in
/-- Settles O41: a firing and a cue within the window are the head's opening, which `openHead_opens` states once. -/
theorem headOpens : Obligations.HeadOpens := by
  refine ⟨fun s h => ⟨fun idle => ?_, fun v old e rest fires open_ queue => ?_⟩, fun s captured cues h offered => ?_,
    fun s it rest h replay none_ => ?_⟩
  · refine (running_of_ready _ h).trans (congrArg _ ?_)
    rw [takeFiring, idle]
  · obtain ⟨u, opened, more, alone⟩ := openHead_opens open_ queue v .compare false
    refine ⟨u, _, running_of_ready _ h, opened, ?_⟩
    rw [takeFiring_eq fires queue]
    exact ⟨more, alone⟩
  · intro taken count stray
    have row : exec .cue s = .next (judgeCue captured taken) := by
      refine (running_of_ready _ h).trans (congrArg _ ?_)
      rw [takeCue, offered]
    have strays (judged : judgeCue captured taken = strayCue captured taken) : exec .cue s = .next stray := by
      rw [row, judged, strayCue_eq]
    refine ⟨fun empty => strays (judgeCue_nothing empty), fun e rest queue =>
      ⟨fun ahead => strays (judgeCue_tooEarly (s := taken) queue ahead), fun old near open_ => ?_⟩⟩
    intro start
    obtain ⟨u, opened, more, alone⟩ := openHead_opens (s := taken) open_ queue start .cue (decide ((start - e.start).toInt < 0))
    refine ⟨u, _, row, opened, ?_⟩
    rw [judgeCue_opens (s := taken) queue near, cueStart_eq (s := taken) open_]
    exact ⟨more, alone⟩
  · have answer : ownReplayCue it (withQueue rest s) = .ok (judgeCue s.tb.time (withQueue rest s), 0) := if_pos replay
    refine ⟨command_done h h.isKind answer, ?_⟩
    obtain ⟨ready_, -⟩ := h
    refine (running_of_ready (s := { withQueue rest s with tb := { s.tb with cues := [s.tb.time] } }) _ ready_).trans
      (congrArg _ ?_)
    have taken : { withQueue rest s with tb := { s.tb with cues := [] } } = withQueue rest s := by rw [← none_]; rfl
    exact congrArg (judgeCue s.tb.time) taken
end

section
set_option Elab.async false

namespace Sys2Proof.Machine

/-! ### ENTRY (R115, R116) -/

section

variable (it : CmdItem)

/-- The fields of a staged ENTRY lie in their ranges (R115). -/
def EntryFits : Prop :=
  let word (k : Nat) : Beat := it.words.getD k 0
  let id : EntryId := (word 0).extractLsb' 0 16
  let target : Int := ((word 2).extractLsb' 0 16).toInt
  id ≠ 0 ∧ (word 0).extractLsb' 16 8 ≤ 3 ∧ (word 0).extractLsb' 24 8 ≤ 1
    ∧ 1 ≤ (word 0).extractLsb' 32 8 ∧ (word 0).extractLsb' 32 8 ≤ 63 ∧ -600 ≤ target ∧ target ≤ 0
    ∧ (word 2).extractLsb' 16 16 ≤ 100 ∧ (word 2).extractLsb' 32 16 ≤ 100 ∧ (word 2).extractLsb' 48 16 ≤ 1000
    ∧ 1 ≤ (word 3).extractLsb' 0 32 ∧ (word 3).extractLsb' 0 32 ≤ 600000 ∧ (word 4).extractLsb' 0 32 ≤ 600000

/-- The entry that a staged ENTRY spells, once its class is read (R115, section 11.3). -/
def entrySpelled (cls : EntryClass) : Entry :=
  let word (k : Nat) : Beat := it.words.getD k 0
  { id := (word 0).extractLsb' 0 16, cls := cls, start := (word 1).extractLsb' 0 32
    target := ((word 2).extractLsb' 0 16).toInt
    tolerance := ((word 2).extractLsb' 16 16).toNat, margin := ((word 2).extractLsb' 32 16).toNat
    required := (word 0).extractLsb' 24 8 = 1, service := ((word 0).extractLsb' 32 8).toNat
    gapLimit := ((word 3).extractLsb' 0 32).toNat, permille := ((word 2).extractLsb' 48 16).toNat
    deadAirLimit := ((word 4).extractLsb' 0 32).toNat, lateCommit := false }

/-- The classes are coded 0 to 3. -/
theorem classOfCode_past {n : Nat} (h : 3 < n) : classOfCode n = none := by
  obtain ⟨k, rfl⟩ := Nat.exists_eq_add_of_le' h
  rfl

/-- The obligation is coded 0 or 1. -/
theorem obligationOfCode_eq (n : Nat) : obligationOfCode n = if n ≤ 1 then some (decide (n = 1)) else none := by
  match n with
  | 0 => rfl
  | 1 => rfl
  | n + 2 => rfl

/-- The ranges as the part checks them: the two codes, and the four checks of the fields (R115). -/
theorem entryFits_iff : EntryFits it ↔ byteField (stagedWord it 0) 2 1 ≤ 3 ∧ byteField (stagedWord it 0) 3 1 ≤ 1
    ∧ (1 ≤ byteField (stagedWord it 0) 0 2
      && loudnessRange (signedField 16 (byteField (stagedWord it 2) 0 2)) (byteField (stagedWord it 2) 2 2)
          (byteField (stagedWord it 2) 4 2)
      && captionRange (byteField (stagedWord it 0) 4 1) (byteField (stagedWord it 3) 0 4) (byteField (stagedWord it 2) 6 2)
      && deadAirRange (byteField (stagedWord it 4) 0 4)) = true := by
  have named (id : EntryId) : id ≠ 0 ↔ 1 ≤ id.toNat := by
    rw [Nat.one_le_iff_ne_zero, ne_eq, ne_eq, ← BitVec.toNat_inj]
    rfl
  simp only [EntryFits, named, BitVec.le_def, byteField_eq, stagedWord, signedField, BitVec.ofNat_toNat, loudnessRange,
    captionRange, deadAirRange, Bool.and_eq_true, decide_eq_true_eq, BitVec.setWidth_eq, Nat.reduceMul, Nat.mul_zero,
    BitVec.reduceToNat]
  omega

/-- A staged ENTRY with a field out of range spells nothing (R115, R116). -/
theorem stagedEntry_none (h : ¬ EntryFits it) : stagedEntry it = none := by
  unfold stagedEntry
  dsimp only
  split
  · rename_i cls required class_ obligation
    refine if_neg fun fields => h ((entryFits_iff it).mpr ⟨?_, ?_, fields⟩)
    · by_contra past
      rw [classOfCode_past (by omega)] at class_
      cases class_
    · by_contra past
      rw [obligationOfCode_eq, if_neg past] at obligation
      cases obligation
  · rfl

/-- A staged ENTRY within the ranges spells an entry of the class it names (R115, section 11.3). -/
theorem stagedEntry_some (h : EntryFits it) {cls : EntryClass}
    (class_ : classOfCode (byteField (stagedWord it 0) 2 1) = some cls) : stagedEntry it = some (entrySpelled it cls) := by
  obtain ⟨-, obligation, fields⟩ := (entryFits_iff it).mp h
  have required := (obligationOfCode_eq (byteField (stagedWord it 0) 3 1)).trans (if_pos obligation)
  simp only [stagedEntry, class_, required]
  refine (if_pos fields).trans (congrArg some ?_)
  simp only [entrySpelled, byteField_eq, stagedWord, signedField, BitVec.ofNat_toNat, BitVec.setWidth_eq, Nat.reduceMul,
    Nat.mul_zero, ← BitVec.toNat_inj]
  rfl

end

/-- The checks of the queue, once the fields are read (R116). -/
theorem ownEntry_eq {it : CmdItem} {e : Entry} (s : State) (spelled : stagedEntry it = some e) : ownEntry it s =
    if idTaken e.id s then .error .duplicateId
    else if Config.pendingDepth ≤ s.su.queue.length then .error .queueFull
    else if !orderOk e s then .error .order
    else .ok (commitEntry e s, 0) := by
  rw [ownEntry, spelled]

/-- An id is taken by a pending entry or by the open one (R116). -/
theorem idTaken_iff (id : EntryId) (s : State) : idTaken id s = true ↔
    (∃ e ∈ s.su.queue, e.id = id) ∨ ∃ e, s.su.openEntry = some e ∧ e.entry.id = id := by
  simp [idTaken, openId]

/-- An entry is out of order when it starts less than a second after the tail of the queue, or after the open entry where
nothing is pending (R116). -/
theorem orderOk_iff (e : Entry) (s : State) : orderOk e s = true ↔
    ¬ ((∃ tail, s.su.queue.getLast? = some tail ∧ (e.start - tail.start).toInt < 1000)
      ∨ (s.su.queue = [] ∧ ∃ o, s.su.openEntry = some o ∧ (e.start - o.actualStart).toInt < 1000)) := by
  unfold orderOk orderReference
  cases tail : s.su.queue.getLast? with
  | none =>
    have empty : s.su.queue = [] := List.getLast?_eq_none_iff.mp tail
    cases open_ : s.su.openEntry <;> simp [empty, since, Config.entrySpacing]
  | some t =>
    have some_ : s.su.queue ≠ [] := fun empty => by simp [empty] at tail
    simp [some_, since, Config.entrySpacing]

/-! ### A passed entry joins the queue (R116, R118) -/

section

variable (e : Entry) (s : State)

/-- A passed entry with entries ahead of it, or in OFF, waits (R116, R117). -/
theorem commitEntry_waits (h : s.su.queue ≠ [] ∨ s.cu.mode = .off) :
    commitEntry e s = { s with su := { s.su with queue := s.su.queue ++ [queuedEntry e s] } } := by
  refine if_neg fun both => ?_
  simp only [Bool.and_eq_true, List.isEmpty_iff, observing, bne_iff_ne] at both
  tauto

/-- An entry is late when the part observes and its start has been reached (R116). -/
theorem observing_reached (now start : Time) : (observing s && reached now start)
    = (s.cu.mode != .off && decide ((start - now).toInt ≤ 0)) := by
  have past (d : Int) : (!decide (0 < d)) = decide (d ≤ 0) := by
    rw [← decide_not]
    exact decide_eq_decide.mpr not_lt
  rw [← past]
  rfl

/-- A passed entry that becomes the head of an observing part loads the compare, and opens at once by late commit (R116,
R118). -/
theorem commitEntry_head (queue : s.su.queue = []) (on : s.cu.mode ≠ .off) :
    let joined : State := loadCompare (some e.start) { s with su := { s.su with queue := [queuedEntry e s] } }
    commitEntry e s = if (queuedEntry e s).lateCommit then openHead s.tb.time .lateCommit false joined else joined := by
  intro joined
  have observing_ : observing s = true := by simpa [observing] using on
  unfold commitEntry
  simp only [queue, List.isEmpty_nil, Bool.true_and, List.nil_append]
  exact if_pos observing_

variable {e s}

/-- An opening sees neither the pending queue nor the compare: the entry that it opens is given (R125). -/
theorem headOpened_of_joined {u : State} {old : OpenEntry} {rest queue : List Entry} {start : Time} {cause : Cause}
    {early : Bool} {value : Option Time}
    (h : HeadOpened (loadCompare value { s with su := { s.su with queue := queue } }) u old e rest start cause early) :
    HeadOpened s u old e rest start cause early := by
  obtain ⟨frame, tb, ag, ca, pending, opened, defaults, policy, stray, slot, others, rc, ru⟩ := h
  refine ⟨frame, tb, ag, ca, pending, opened, defaults, policy, stray, slot, fun bank other => ?_,
    rc.trans (noteOpening_rc_congr _ rfl rfl), ru⟩
  rw [others bank other]
  cases bank <;> rfl

/-- A late entry that becomes the head opens at once, and nothing is pending after it (R118). -/
theorem lateCommit_opens {old : OpenEntry} (open_ : s.su.openEntry = some old) :
    HeadOpened s (openHead s.tb.time .lateCommit false
      (loadCompare (some e.start) { s with su := { s.su with queue := [e] } })) old e [] s.tb.time .lateCommit false := by
  refine headOpened_of_joined (queue := [e]) (value := some e.start) ?_
  rw [openHead_eq rfl, cascade]
  exact headOpened_openOne (s := loadCompare (some e.start) { s with su := { s.su with queue := [e] } }) open_ ..

end

/-! ### CANCEL_FROM (R117) -/

/-- The entries ahead of the first one with an id. -/
theorem aheadOf_at {id : EntryId} {kept removed : List Entry} {e : Entry} (named : e.id = id) (ahead : ∀ k ∈ kept, k.id ≠ id) :
    aheadOf id (kept ++ e :: removed) = kept := by
  rw [aheadOf, List.takeWhile_append_of_pos (by simpa using ahead), List.takeWhile_cons_of_neg (by simp [named])]
  exact List.append_nil kept

/-- CANCEL_FROM of an id that is not pending (R117). -/
theorem ownCancelFrom_absent {it : CmdItem} {s : State} (absent : ∀ e ∈ s.su.queue, e.id ≠ it.arg.extractLsb' 0 16) :
    ownCancelFrom it s = .error .notPending := by
  rw [ownCancelFrom, ofNat_argField]
  exact if_neg (by simpa using absent)

/-- CANCEL_FROM keeps the entries ahead of the named one (R117). -/
theorem ownCancelFrom_found {it : CmdItem} {s : State} {kept removed : List Entry} {e : Entry}
    (queue : s.su.queue = kept ++ e :: removed) (named : e.id = it.arg.extractLsb' 0 16)
    (ahead : ∀ k ∈ kept, k.id ≠ it.arg.extractLsb' 0 16) : ownCancelFrom it s = .ok ({ s with
      su := { s.su with queue := kept }
      tb := if kept = [] then { s.tb with compare := none, firing := none } else s.tb }, removed.length + 1) := by
  have found : s.su.queue.any (·.id == it.arg.extractLsb' 0 16) = true := by simp [queue, named]
  have count : s.su.queue.length - kept.length = removed.length + 1 := by
    rw [queue, List.length_append, List.length_cons]
    omega
  have stays : aheadOf (it.arg.extractLsb' 0 16) s.su.queue = kept := by rw [queue, aheadOf_at named ahead]
  rw [ownCancelFrom, ofNat_argField]
  refine (if_pos found).trans ?_
  simp only [stays, count]
  cases kept <;> rfl

end Sys2Proof.Machine

open Sys2Proof Sys2Proof.Machine in
/-- Settles O42: ENTRY check by check, the entry that joins by what was pending, and CANCEL_FROM by where the id stands. -/
theorem entriesQueued : Obligations.EntriesQueued := by
  refine ⟨fun s it rest h => ?_, fun s e => ?_, fun s it rest h => ?_⟩
  · intro word id start target inRange taken early refused
    have refuse {reason : Reason} (answer : ownEntry it (withQueue rest s) = .error reason) : refused reason :=
      command_refused h h.isKind answer
    have spells (fits : inRange) : ∃ cls, classOfCode (byteField (stagedWord it 0) 2 1) = some cls := by
      obtain ⟨code, -⟩ := (entryFits_iff it).mp fits
      generalize byteField (stagedWord it 0) 2 1 = n at code
      interval_cases n <;> exact ⟨_, rfl⟩
    have checks (fits : inRange) : ∃ cls, classOfCode (byteField (stagedWord it 0) 2 1) = some cls
        ∧ ownEntry it (withQueue rest s) = if idTaken id s then .error .duplicateId
          else if 32 ≤ s.su.queue.length then .error .queueFull
          else if !orderOk (entrySpelled it cls) s then .error .order
          else .ok (commitEntry (entrySpelled it cls) (withQueue rest s), 0) := by
      obtain ⟨cls, class_⟩ := spells fits
      exact ⟨cls, class_, ownEntry_eq (withQueue rest s) (stagedEntry_some it fits class_)⟩
    have order (cls : EntryClass) : (!orderOk (entrySpelled it cls) s) = true ↔ early := by
      rw [Bool.not_eq_true', ← Bool.not_eq_true, orderOk_iff, not_not]
      rfl
    have free (out : ¬ taken) : ¬ idTaken id s = true := mt (idTaken_iff id s).mp out
    refine ⟨fun out => refuse ?_, fun fits dup => refuse ?_, fun fits out full => refuse ?_,
      fun fits out room soon => refuse ?_, fun fits out room inOrder cls class_ => ?_⟩
    · rw [ownEntry, stagedEntry_none it out]
    · obtain ⟨cls, -, answer⟩ := checks fits
      exact answer.trans (if_pos ((idTaken_iff id s).mpr dup))
    · obtain ⟨cls, -, answer⟩ := checks fits
      exact answer.trans ((if_neg (free out)).trans (if_pos full))
    · obtain ⟨cls, -, answer⟩ := checks fits
      rw [if_neg (free out), if_neg (by omega), if_pos ((order cls).mpr soon)] at answer
      exact answer
    · obtain ⟨cls', named, answer⟩ := checks fits
      have same : cls' = cls := by
        simp only [List.mem_cons, Prod.mk.injEq, List.not_mem_nil, or_false] at class_
        rw [byteField_eq] at named
        rcases class_ with ⟨rfl, code⟩ | ⟨rfl, code⟩ | ⟨rfl, code⟩ | ⟨rfl, code⟩
        all_goals
          have code' : ((stagedWord it 0).extractLsb' (8 * 2) (8 * 1)) = _ := code
          rw [code'] at named
          exact (Option.some.inj named).symm
      rw [if_neg (free out), if_neg (by omega), if_neg (mt (order cls').mp inOrder), same] at answer
      exact command_done h h.isKind answer
  · intro late e' appended
    have joined : queuedEntry e s = e' := by
      rw [queuedEntry, observing_reached]
    have head (queue : s.su.queue = []) (on : s.cu.mode ≠ .off) := commitEntry_head e s queue on
    rw [joined] at head
    refine ⟨fun waits => ?_, fun queue on waits => ?_, fun old queue opens open_ => ?_⟩
    · rw [commitEntry_waits e s waits, joined]
    · rw [head queue on, if_neg (by simp [e', waits])]
      simp only [loadCompare, appended, queue]
      rfl
    · have on : s.cu.mode ≠ .off := by
        rintro off
        simp [late, off] at opens
      rw [head queue on, if_pos opens]
      exact lateCommit_opens open_
  · exact ⟨fun absent => command_refused h h.isKind (ownCancelFrom_absent (s := withQueue rest s) absent),
      fun kept e removed queue named ahead =>
        command_done h h.isKind (ownCancelFrom_found (s := withQueue rest s) queue named ahead)⟩
end

section
set_option Elab.async false

namespace Sys2Proof.Machine

/-! ### A word at the head of the inbox (R52, R57 to R59) -/

section

variable {s : State} {offset : Nat} {data : BitVec 32} {enables : BitVec 4} {rest : List AudioItem}

/-- The part with another audio inbox. -/
def handed (items : List AudioItem) (s : State) : State := { s with ao := { s.ao with inbox := items } }

/-- SAMPLE_WORD takes the word at the head of the inbox (R57). -/
theorem sampleWord_head (h : ready s = true) (inbox : s.ao.inbox = .word offset data enables :: rest) :
    exec .sampleWord s = .next (sampleWordEvent offset data enables (handed rest s)) := by
  refine (running_of_ready _ h).trans (congrArg _ ?_)
  rw [takeItem, inbox]
  rfl

/-- A word is ignored while the engine does not measure (R57). -/
theorem sampleWordEvent_ignored (h : s.ao.engine = .idle ∨ s.ao.engine = .unmeasurable) :
    sampleWordEvent offset data enables s = s := by
  rcases h with h | h <;> rw [sampleWordEvent, h]

/-- A partial word gives up the measurement (R59). -/
theorem sampleWordEvent_partial (h : s.ao.engine = .measuring ∨ s.ao.engine = .stalled) (part : enables ≠ 0xF) :
    sampleWordEvent offset data enables s
      = { breakStream s with ao := { (breakStream s).ao with expected := none } } := by
  rcases h with h | h <;> (simp only [sampleWordEvent, h]; exact if_neg part)

/-- A whole word is accepted, after the measurement is given up if it is out of place (R57, R58). -/
theorem sampleWordEvent_whole (h : s.ao.engine = .measuring ∨ s.ao.engine = .stalled) :
    sampleWordEvent offset data 0xF s = acceptWord offset data (if inPlace offset s.ao then s else breakStream s) := by
  rcases h with h | h <;> simp only [sampleWordEvent, h] <;> rfl

/-- A word is in place at the expected address, at any address where none is expected, and at the first one of a stream
(R58). -/
theorem inPlace_iff (offset : Nat) (ao : AudioObs) :
    inPlace offset ao = true ↔ offset = 0x40 ∨ ao.expected = none ∨ ao.expected = some offset := by
  simp only [inPlace, Bool.or_eq_true, beq_iff_eq]
  tauto

end

/-! ### A discontinuity (R58, R59) -/

/-- What giving up the measurement leaves: nothing in progress, nothing held, and a discontinuity counted (R58, R62, R64,
R74, R84). -/
theorem breakStream_eq (s : State) : breakStream s = { s with
    ao := { s.ao with sub := none, history := [], filters := Vector.replicate 8 .clear, channel := 0 }
    lu := { s.lu with momentary := none, shortTerm := none }
    ag := { s.ag with onCount := 0, offCount := 0 }
    su := { s.su with openEntry := s.su.openEntry.map fun e =>
      { e with discontinuities :=
          if e.discontinuities = BitVec.allOnes 16 then e.discontinuities else e.discontinuities + 1 } } } := by
  simp only [breakStream, modifyOpen, satAdd_succ (w := 16) (by decide)]
  rfl

/-! ### An accepted word, step by step (R57, R60 to R62) -/

/-- The next word lies in the rest of a frame that a stall has cut (R61, R62). -/
def inCutFrame (ao : AudioObs) : Bool := ao.sub.isNone && ao.channel != 0

/-- The report unit once the engine is MEASURING again (R56, R61). -/
def reportsResume (s : State) : Reports :=
  if s.ao.engine = .stalled then
    takeOffer (.audioState .resume .stalled .measuring s.ao.taken (s.su.openEntry.map (·.entry.id)) s.tb.time) s.tb.time s.ru
  else s.ru

/-- The time base once a frame is complete (R39). -/
def timeOfFrame (mode : Mode) (tb : TimeBase) : TimeBase :=
  if mode = .replay then
    if tb.residue < 47 then { tb with residue := tb.residue + 1 } else { tb with residue := 0, frameTick := true }
  else tb

/-- The sub-block in progress once the next sample has joined it (R62, R71). -/
def sampleJoins (v : Int) (s : State) : SubBlock :=
  addSample s.ao.channel (weightedSample s s.ao.channel v) v (s.ao.sub.getD emptySubBlock)

/-- A sub-block once a frame of it is complete (R60). -/
def frameJoins (ends : Bool) (b : SubBlock) : SubBlock := if ends then { b with frames := b.frames + 1 } else b

section

variable (s : State) (offset : Nat) (data : BitVec 32)

theorem resumeEngine_eq : resumeEngine s
    = { s with ao := { s.ao with engine := .measuring, stallCount := 0 }, ru := reportsResume s } := by
  unfold resumeEngine reportsResume
  dsimp only
  split
  · rename_i stalled
    rw [stalled]
    rfl
  · rfl

theorem acceptSample_eq (v : Int) : acceptSample v s
    = if inCutFrame s.ao then s else sumSample (s.ao.sub.getD emptySubBlock) s.ao.channel v s := by
  unfold acceptSample inCutFrame
  cases s.ao.sub with
  | none =>
    by_cases first : s.ao.channel = 0 <;> simp [first]
  | some b => rfl

theorem frameAccepted_eq : frameAccepted s = { s with tb := timeOfFrame s.cu.mode s.tb } := by
  unfold frameAccepted timeOfFrame
  (repeat' split) <;> rfl

/-- The channel index after a word (R60). -/
def nextChannel (ao : AudioObs) : Nat := if endsFrame ao then 0 else ao.channel + 1

theorem advanceFrame_none (h : s.ao.sub = none) : advanceFrame s
    = { s with ao := { s.ao with channel := nextChannel s.ao } } := by
  unfold advanceFrame nextChannel
  split
  · simp only [h]
  · rfl

theorem advanceFrame_some {b : SubBlock} (h : s.ao.sub = some b) : advanceFrame s = { s with
    ao := { s.ao with channel := nextChannel s.ao, sub := some (frameJoins (endsFrame s.ao) b) }
    tb := if endsFrame s.ao then timeOfFrame s.cu.mode s.tb else s.tb } := by
  unfold advanceFrame nextChannel frameJoins
  split
  · simp only [h, frameAccepted_eq]
  · simp only [← h]

/-- A word in the rest of a cut frame is dropped (R61, R62). -/
theorem acceptWord_cut (cut : inCutFrame s.ao = true) : acceptWord offset data s = { s with
    ao := { s.ao with
      engine := .measuring, stallCount := 0, expected := some (offset + 4), channel := nextChannel s.ao }
    ru := reportsResume s } := by
  have nothing : s.ao.sub = none := by
    simp only [inCutFrame, Bool.and_eq_true, Option.isNone_iff_eq_none] at cut
    exact cut.1
  have resumed : inCutFrame (resumeEngine s).ao = true := by rw [resumeEngine_eq]; exact cut
  unfold acceptWord
  rw [acceptSample_eq, if_pos resumed, advanceFrame_none _ (by rw [resumeEngine_eq]; exact nothing), resumeEngine_eq]
  rfl

/-- A word that is summed (R57, R60, R62, R70, R71). -/
theorem acceptWord_summed (whole : ¬ inCutFrame s.ao = true) : acceptWord offset data s = { s with
    ao := { s.ao with
      engine := .measuring, stallCount := 0, expected := some (offset + 4), channel := nextChannel s.ao
      filters := s.ao.filters.setIfInBounds s.ao.channel (filterNext s s.ao.channel (sampleValue data))
      sub := some (frameJoins (endsFrame s.ao) (sampleJoins (sampleValue data) s)) }
    tb := if endsFrame s.ao then timeOfFrame s.cu.mode s.tb else s.tb
    su := { s.su with openEntry := s.su.openEntry.map (fun e =>
      { e with saturations := satAdd e.saturations (saturationsOf s s.ao.channel (sampleValue data)) }) }
    ru := reportsResume s } := by
  have resumed : ¬ inCutFrame (resumeEngine s).ao = true := by rw [resumeEngine_eq]; exact whole
  unfold acceptWord
  rw [acceptSample_eq, if_neg resumed, advanceFrame_some _ rfl, resumeEngine_eq]
  rfl

/-- An accepted word does not look at the address that was expected (R57). -/
theorem acceptWord_expected (address : Option Nat) :
    acceptWord offset data { s with ao := { s.ao with expected := address } } = acceptWord offset data s := by
  by_cases cut : inCutFrame s.ao = true
  · rw [acceptWord_cut s _ _ cut]
    exact acceptWord_cut _ _ _ cut
  · rw [acceptWord_summed s _ _ cut]
    exact acceptWord_summed _ _ _ cut

end

/-- The sample value is the upper three bytes of a word (R57). -/
theorem sampleValue_eq (data : BitVec 32) : sampleValue data = (data.extractLsb' 8 24).toInt := by
  rw [sampleValue, signedField, BitVec.extractLsb', Nat.shiftRight_eq_div_pow]

/-- The square of a weighted sample as a magnitude (R71). -/
theorem square_toNat (z : Int) : (z * z).toNat = z.natAbs ^ 2 := by
  rw [← Int.natAbs_mul_self, Int.toNat_natCast, pow_two]

/-- A word is the last of a frame when its channel is the last of the taken descriptor (R60). -/
theorem endsFrame_iff {ao : AudioObs} {d : Descriptor} (taken : ao.taken = some d) :
    endsFrame ao = true ↔ d.channels ≤ ao.channel + 1 := by
  simp [endsFrame, channelCount, taken]

theorem inCutFrame_iff (ao : AudioObs) : inCutFrame ao = true ↔ ao.sub = none ∧ ao.channel ≠ 0 := by
  simp [inCutFrame]

end Sys2Proof.Machine

open Sys2Proof Sys2Proof.Machine in
/-- Settles O26: a word is ignored, gives up the measurement, or is accepted, and an accepted one is summed or lies in the
rest of a cut frame. -/
theorem sampleWords : Obligations.SampleWords := by
  refine ⟨fun s offset data enables rest h inbox => ?_, fun s offset data rest d h inbox measures taken place => ?_⟩
  · intro broken
    have gave (address : Option Nat) (items : List AudioItem) :
        { breakStream (handed items s) with ao := { (breakStream (handed items s)).ao with expected := address } }
          = broken address items := by
      rw [breakStream_eq]
      rfl
    refine ⟨fun idle => ?_, fun measures part => ?_, fun measures whole first other => ?_⟩
    · rw [sampleWord_head h inbox, sampleWordEvent_ignored (s := handed rest s) idle]
      rfl
    · rw [sampleWord_head h inbox, sampleWordEvent_partial (s := handed rest s) measures part, gave]
    · subst whole
      obtain ⟨a, expected, apart⟩ := other
      have misplaced : ¬ inPlace offset (handed rest s).ao = true := by
        rw [inPlace_iff, handed, expected]
        simp [first, apart]
      have ready_ : ready (broken none s.ao.inbox) = true := by
        simp only [ready, settled, Bool.and_eq_true, Bool.not_eq_true'] at h ⊢
        exact ⟨h.1, rfl, h.2.2⟩
      have accepted : acceptWord offset data (breakStream (handed rest s)) = acceptWord offset data (broken none rest) :=
        (acceptWord_expected _ _ _ none).symm.trans (congrArg (acceptWord offset data) (gave none rest))
      rw [sampleWord_head h inbox, sampleWord_head (s := broken none s.ao.inbox) ready_ inbox,
        sampleWordEvent_whole (s := handed rest s) measures, if_neg misplaced, accepted]
      exact (congrArg _ (sampleWordEvent_whole (s := broken none rest) measures)).symm
  · intro v c ends cut before f x y z sub saturated
    have row : exec .sampleWord s = .next (acceptWord offset data (handed rest s)) := by
      rw [sampleWord_head h inbox, sampleWordEvent_whole (s := handed rest s) measures,
        if_pos ((inPlace_iff offset (handed rest s).ao).mpr place)]
    have frame : endsFrame (handed rest s).ao = true ↔ ends := endsFrame_iff taken
    have value : sampleValue data = v := sampleValue_eq data
    refine ⟨_, row, ?_⟩
    have last (e : ends) : nextChannel (handed rest s).ao = 0 := if_pos (frame.mpr e)
    have inner (e : ¬ ends) : nextChannel (handed rest s).ao = c + 1 := if_neg (mt frame.mp e)
    have quiet (e : s.ao.engine = .measuring) : reportsResume (handed rest s) = s.ru := if_neg (by simp [handed, e])
    have resumes (e : s.ao.engine = .stalled) : reportsResume (handed rest s) = takeOffer
        (.audioState .resume .stalled .measuring (some d) (s.su.openEntry.map (·.entry.id)) s.tb.time) s.tb.time s.ru := by
      rw [← taken]
      exact if_pos e
    by_cases dropped : cut
    · rw [acceptWord_cut (handed rest s) _ _ ((inCutFrame_iff _).mpr dropped)]
      exact ⟨rfl, rfl, last, inner, fun _ => ⟨rfl, dropped.1, rfl, rfl⟩, fun whole => absurd dropped whole, quiet, resumes⟩
    · rw [acceptWord_summed (handed rest s) _ _ (mt (inCutFrame_iff _).mp dropped)]
      have joined : sampleJoins (sampleValue data) (handed rest s) = sub := by
        rw [value, sampleJoins, addSample, square_toNat]
        rfl
      rw [joined, value]
      refine ⟨rfl, rfl, last, inner, fun cut_ => absurd cut_ dropped, fun _ => ⟨rfl, fun e => ?_, fun e => ?_, rfl, fun e => ?_,
        fun e replay more => ?_, fun e replay full => ?_⟩, quiet, resumes⟩
      · exact congrArg some (if_pos (frame.mpr e))
      · exact congrArg some (if_neg (mt frame.mp e))
      · rcases e with inside | mode
        · exact if_neg (mt frame.mp inside)
        · exact (ite_congr rfl (fun _ => if_neg mode) fun _ => rfl).trans (ite_self _)
      · exact (if_pos (frame.mpr e)).trans ((if_pos replay).trans (if_pos more))
      · exact (if_pos (frame.mpr e)).trans ((if_pos replay).trans (if_neg (Nat.not_lt.mpr full.ge)))
end

section
set_option Elab.async false

namespace Sys2Proof.Machine

/-! ### The energy and the levels of a sub-block (R63, R65, R71, R77) -/

/-- The effective weight of a channel: its override, or the weight of its role (R65). -/
theorem effectiveWeight_eq (lu : Loudness) (d : Descriptor) (c : Nat) : effectiveWeight lu d c =
    match lu.overrides[c]? with
    | some (some w) => w
    | _ => match d.roles[c]? with
      | some .l | some .r | some .c => 1000
      | some .ls | some .rs => 1410
      | _ => 0 := by
  unfold effectiveWeight
  rcases lu.overrides[c]? with _ | _ | w
  · rcases d.roles[c]? with _ | (_ | _ | _ | _ | _ | _ | _) <;> rfl
  · rcases d.roles[c]? with _ | (_ | _ | _ | _ | _ | _ | _) <;> rfl
  · rfl

/-- The oldest energy leaves a full history (R63). -/
theorem pushHistory_eq (w : Nat) {history : List Nat} (h : history.length ≤ 30) :
    pushHistory w history = (if history.length = 30 then history.tail else history) ++ [w] := by
  unfold pushHistory Config.historyDepth
  congr 1
  split
  · rw [if_pos (by omega), List.drop_one]
  · rw [if_neg (by omega)]

/-- A block level is that of the newest energies (R72, R77). -/
theorem blockLevel_eq (n : Nat) (history : List Nat) (c : Int) : blockLevel n history c =
    if n ≤ history.length then some (levelOf (history.reverse.take n).sum (4800 * n * 1000 * 2 ^ 62) c) else none := by
  rw [blockLevel, List.take_reverse, List.sum_reverse, meanDenominator]

/-! ### What a completion counts (R76 to R80) -/

/-- The levels held after a completion (R77). -/
def levelsHeld (history : List Nat) (lu : Loudness) : Loudness :=
  { lu with momentary := blockLevel 4 history lu.calibration, shortTerm := blockLevel 30 history lu.calibration }

/-- A maximum once a level has come: the level is attributed when the open entry has completed enough sub-blocks (R78,
R79). -/
def attributedMax (least : Nat) (count : BitVec 32) (level old : Option Int) : Option Int :=
  match level with
  | some l => if least ≤ count.toNat then maxLevel old l else old
  | none => old

/-- The open entry once a sub-block has completed, but for the ceiling (R76, R78, R79). -/
def entryGrown (b : SubBlock) (momentary shortTerm : Option Int) (e : OpenEntry) : OpenEntry :=
  { e with
    subBlocks := satAdd e.subBlocks 1
    peaks := Vector.ofFn fun c => max e.peaks[c] b.peak[c]
    maxMomentary := attributedMax 4 (satAdd e.subBlocks 1) momentary e.maxMomentary
    maxShortTerm := attributedMax 30 (satAdd e.subBlocks 1) shortTerm e.maxShortTerm }

/-- An attributed short-term level meets the ceiling (R80). -/
def ceilingMet (count : BitVec 32) (shortTerm : Option Int) (s : State) : State :=
  match shortTerm with
  | some l => if 30 ≤ count.toNat then checkCeiling l s else s
  | none => s

/-- Activity and gating, after the recorder has heard of the short-term level (R83, R89, R144). -/
def levelsTold (momentary : Option Int) (attributed : Bool) (s : State) : State :=
  gateBlock momentary attributed (decideActivity momentary (noteShortTerm s))

/-- An update of the open entry, with an entry open. -/
theorem modifyOpen_some {f : OpenEntry → OpenEntry} {s : State} {e : OpenEntry} (open_ : s.su.openEntry = some e) :
    modifyOpen f s = { s with su := { s.su with openEntry := some (f e) } } := by
  rw [modifyOpen, open_, Option.map_some]

/-- An update of the open entry, with none open. -/
theorem modifyOpen_none {f : OpenEntry → OpenEntry} {s : State} (open_ : s.su.openEntry = none) : modifyOpen f s = s := by
  rw [modifyOpen, open_, Option.map_none, ← open_]

section

variable {s : State}

/-- The momentary level is held, and nothing is attributed with no entry open (R77, R78). -/
theorem momentaryStep_none (open_ : s.su.openEntry = none) : momentaryStep s
    = { s with lu := { s.lu with momentary := blockLevel 4 s.ao.history s.lu.calibration } } := by
  simp only [momentaryStep, momentaryAttributed, open_, Config.momentaryBlocks]
  cases blockLevel 4 s.ao.history s.lu.calibration <;> rfl

/-- The short-term level is held, and nothing is attributed with no entry open (R77, R79). -/
theorem shortTermStep_none (open_ : s.su.openEntry = none) : shortTermStep s
    = { s with lu := { s.lu with shortTerm := blockLevel 30 s.ao.history s.lu.calibration } } := by
  simp only [shortTermStep, shortTermAttributed, open_, Config.historyDepth]
  cases blockLevel 30 s.ao.history s.lu.calibration <;> rfl

variable {e : OpenEntry}

/-- The momentary level is held, and may be the open entry's maximum (R77, R78). -/
theorem momentaryStep_some (open_ : s.su.openEntry = some e) : momentaryStep s = { s with
    lu := { s.lu with momentary := blockLevel 4 s.ao.history s.lu.calibration }
    su := { s.su with
      openEntry := some { e with
        maxMomentary := attributedMax 4 e.subBlocks (blockLevel 4 s.ao.history s.lu.calibration) e.maxMomentary } } } := by
  simp only [momentaryStep, momentaryAttributed, open_, Config.momentaryBlocks]
  cases blockLevel 4 s.ao.history s.lu.calibration with
  | none => simp only [attributedMax, ← open_]
  | some l =>
    by_cases attributed : 4 ≤ e.subBlocks.toNat
    · simp only [attributed, decide_true, if_true, attributedMax]
      exact modifyOpen_some open_
    · simp only [attributed, decide_false, Bool.false_eq_true, if_false, attributedMax, ← open_]

/-- The short-term level is held, and may be the open entry's maximum and meet the ceiling (R77, R79, R80). -/
theorem shortTermStep_some (open_ : s.su.openEntry = some e) : shortTermStep s
    = ceilingMet e.subBlocks (blockLevel 30 s.ao.history s.lu.calibration) { s with
      lu := { s.lu with shortTerm := blockLevel 30 s.ao.history s.lu.calibration }
      su := { s.su with
        openEntry := some { e with
          maxShortTerm := attributedMax 30 e.subBlocks (blockLevel 30 s.ao.history s.lu.calibration) e.maxShortTerm } } } := by
  simp only [shortTermStep, shortTermAttributed, open_, Config.historyDepth]
  cases blockLevel 30 s.ao.history s.lu.calibration with
  | none => simp only [attributedMax, ceilingMet, ← open_]
  | some l =>
    by_cases attributed : 30 ≤ e.subBlocks.toNat
    · simp only [attributed, decide_true, if_true, attributedMax, ceilingMet]
      exact congrArg _ (modifyOpen_some open_)
    · simp only [attributed, decide_false, Bool.false_eq_true, if_false, attributedMax, ceilingMet, ← open_]

end

section

variable (b : SubBlock) (s : State)

/-- Steps 1 to 3 of a completion: the open entry counts it, and the levels are taken (R63, R76 to R80). -/
def levelsTaken : State :=
  shortTermStep (momentaryStep (modifyOpen (fun e => mergePeaks b { e with subBlocks := satAdd e.subBlocks 1 }) s))

/-- Steps 4 to 6 of a completion follow the levels taken (R83, R89, R144). -/
theorem completionTail_eq : completionTail b s
    = levelsTold (levelsTaken b s).lu.momentary (momentaryAttributed (levelsTaken b s)) (levelsTaken b s) := by
  unfold completionTail
  dsimp only
  simp only [momentaryAttributed, decideActivity_frame, noteShortTerm_frame]
  rfl

variable {s}

/-- The levels taken with no entry open (R77). -/
theorem levelsTaken_none (open_ : s.su.openEntry = none) : levelsTaken b s = { s with lu := levelsHeld s.ao.history s.lu } := by
  have step := shortTermStep_none (s := momentaryStep s) (by rw [momentaryStep_none open_]; exact open_)
  rw [levelsTaken, modifyOpen_none open_, step, momentaryStep_none open_]
  rfl

/-- What a completion does with no entry open (R63, R77, R83, R89, R144). -/
theorem completionTail_none (open_ : s.su.openEntry = none) : completionTail b s
    = levelsTold (blockLevel 4 s.ao.history s.lu.calibration) false { s with lu := levelsHeld s.ao.history s.lu } := by
  rw [completionTail_eq, levelsTaken_none b open_, momentaryAttributed, open_]
  rfl

variable {e : OpenEntry}

/-- The part once the open entry has counted a completion and the levels are held, before the ceiling is met. -/
def completionCounted (b : SubBlock) (e : OpenEntry) (s : State) : State :=
  { s with
    lu := levelsHeld s.ao.history s.lu
    su := { s.su with
      openEntry := some
        (entryGrown b (blockLevel 4 s.ao.history s.lu.calibration) (blockLevel 30 s.ao.history s.lu.calibration) e) } }

/-- Both level steps with an entry open (R77 to R80). -/
theorem levelSteps_some (open_ : s.su.openEntry = some e) : shortTermStep (momentaryStep s)
    = ceilingMet e.subBlocks (blockLevel 30 s.ao.history s.lu.calibration) { s with
      lu := levelsHeld s.ao.history s.lu
      su := { s.su with
        openEntry := some { e with
          maxMomentary := attributedMax 4 e.subBlocks (blockLevel 4 s.ao.history s.lu.calibration) e.maxMomentary
          maxShortTerm := attributedMax 30 e.subBlocks (blockLevel 30 s.ao.history s.lu.calibration) e.maxShortTerm } } } := by
  have first := momentaryStep_some open_
  rw [shortTermStep_some (congrArg (·.su.openEntry) first), first]
  rfl

/-- The levels taken with an entry open (R76 to R80). -/
theorem levelsTaken_some (open_ : s.su.openEntry = some e) : levelsTaken b s
    = ceilingMet (satAdd e.subBlocks 1) (blockLevel 30 s.ao.history s.lu.calibration) (completionCounted b e s) := by
  rw [levelsTaken, modifyOpen_some open_]
  exact levelSteps_some (e := mergePeaks b { e with subBlocks := satAdd e.subBlocks 1 }) rfl

end

/-! ### What the ceiling, gating and the recorder leave of the open entry (R80, R81, R93, R147) -/

/-- A hold request leaves the pending export (R145). -/
theorem holdRequest_pendingExport (req : HoldRequest) (s : State) :
    (holdRequest req s).rc.pendingExport = s.rc.pendingExport := by
  have one (missing : Bool) (s : State) (i : Nat) : (holdSegment req missing s i).rc.pendingExport = s.rc.pendingExport := by
    unfold holdSegment joinReason holdClosed
    dsimp only
    (repeat' split) <;> simp
  have all (missing : Bool) (l : List Nat) (s : State) :
      (l.foldl (holdSegment req missing) s).rc.pendingExport = s.rc.pendingExport := by
    induction l generalizing s with
    | nil => rfl
    | cons i l ih => rw [List.foldl_cons, ih, one]
  unfold holdRequest
  dsimp only
  (repeat' split) <;> simp [all]

/-- A hold request may mark the open entry EVIDENCE_INCOMPLETE, and changes no other field of it (R147). -/
theorem holdRequest_openEntry (req : HoldRequest) {s : State} {e : OpenEntry} (open_ : s.su.openEntry = some e) :
    ∃ mark, (holdRequest req s).su.openEntry = some { e with evidenceIncomplete := mark } := by
  unfold holdRequest markEvidence
  dsimp only
  (repeat' split)
  · simp only [holdFold_frame, open_, Option.map_some]
    split
    · exact ⟨_, rfl⟩
    · exact ⟨_, rfl⟩
  · exact ⟨_, by rw [(holdFold_frame ..).2.2.2.2.2.2.2.2.2, open_]⟩
  · exact ⟨_, open_⟩

/-- The ceiling may count the open entry over and mark it, and its hold request may mark it too (R80, R81). -/
theorem checkCeiling_openEntry (level : Int) {s : State} {e : OpenEntry} (open_ : s.su.openEntry = some e) :
    ∃ mark above count, (checkCeiling level s).su.openEntry
      = some { e with evidenceIncomplete := mark, overMark := above, overCount := count } := by
  have marked := modifyOpen_some (f := fun e => { e with overCount := satAdd e.overCount 1, overMark := true }) open_
  simp only [checkCeiling, open_]
  split
  · rw [marked]
    split
    · exact ⟨_, _, _, rfl⟩
    · unfold askHold
      split
      · obtain ⟨mark, held⟩ := holdRequest_openEntry _ (s := offer _ { s with su := { s.su with openEntry := some _ } }) rfl
        exact ⟨mark, _, _, held⟩
      · exact ⟨_, _, _, rfl⟩
  · exact ⟨_, _, _, open_⟩

theorem ceilingMet_openEntry (count : BitVec 32) (level : Option Int) {s : State} {e : OpenEntry}
    (open_ : s.su.openEntry = some e) : ∃ mark above count', (ceilingMet count level s).su.openEntry
      = some { e with evidenceIncomplete := mark, overMark := above, overCount := count' } := by
  unfold ceilingMet
  (repeat' split)
  · exact checkCeiling_openEntry _ open_
  · exact ⟨_, _, _, open_⟩
  · exact ⟨_, _, _, open_⟩

/-- What meeting the ceiling leaves alone (R80, R81). -/
theorem ceilingMet_frame (count : BitVec 32) (level : Option Int) (s : State) :
    (ceilingMet count level s).mp = s.mp ∧ (ceilingMet count level s).cu = s.cu ∧ (ceilingMet count level s).tb = s.tb
      ∧ (ceilingMet count level s).ao = s.ao ∧ (ceilingMet count level s).lu = s.lu ∧ (ceilingMet count level s).ca = s.ca
      ∧ (ceilingMet count level s).rc.pendingExport = s.rc.pendingExport := by
  have ceiling (l : Int) : (checkCeiling l s).rc.pendingExport = s.rc.pendingExport := by
    unfold checkCeiling askHold
    dsimp only
    (repeat' split) <;> simp [holdRequest_pendingExport]
  unfold ceilingMet
  (repeat' split) <;> simp [ceiling]

/-- Gating may count a missed block of the open entry (R93). -/
theorem gateBlock_openEntry (level : Option Int) (attributed : Bool) {s : State} {e : OpenEntry}
    (open_ : s.su.openEntry = some e) : ∃ missed part, (gateBlock level attributed s).su.openEntry
      = some { e with missed := missed, isPartial := part } := by
  have missed : (modifyOpen missBlock s).su.openEntry = some (missBlock e) := by rw [modifyOpen_some open_]
  unfold gateBlock
  (repeat' split)
  · exact ⟨_, _, open_⟩
  · exact ⟨_, _, missed⟩
  · exact ⟨_, _, missed⟩
  · exact ⟨_, _, open_⟩
  · exact ⟨_, _, open_⟩

/-- What activity, gating and the recorder leave alone at a completion (R83, R89, R144). -/
theorem levelsTold_frame (level : Option Int) (attributed : Bool) (s : State) :
    (levelsTold level attributed s).mp = s.mp ∧ (levelsTold level attributed s).cu = s.cu
      ∧ (levelsTold level attributed s).tb = s.tb ∧ (levelsTold level attributed s).ao = s.ao
      ∧ (levelsTold level attributed s).lu = s.lu ∧ (levelsTold level attributed s).ca = s.ca
      ∧ (levelsTold level attributed s).rc.pendingExport = s.rc.pendingExport := by
  have noted : (noteShortTerm s).rc.pendingExport = s.rc.pendingExport := by
    unfold noteShortTerm
    (repeat' split) <;> simp
  simp [levelsTold, noted]

theorem levelsTold_openEntry (level : Option Int) (attributed : Bool) {s : State} {e : OpenEntry}
    (open_ : s.su.openEntry = some e) : ∃ missed part, (levelsTold level attributed s).su.openEntry
      = some { e with missed := missed, isPartial := part } :=
  gateBlock_openEntry _ _ (by simpa using open_)

/-- Gating opens no entry. -/
theorem levelsTold_closed (level : Option Int) (attributed : Bool) {s : State} (open_ : s.su.openEntry = none) :
    (levelsTold level attributed s).su.openEntry = none := by
  have told : (decideActivity level (noteShortTerm s)).su.openEntry = none := by simpa using open_
  simp only [levelsTold, gateBlock, told]

/-- What a completion does with an entry open (R63, R76 to R80, R83, R89, R144). -/
theorem completionTail_some (b : SubBlock) {s : State} {e : OpenEntry} (open_ : s.su.openEntry = some e) :
    completionTail b s = levelsTold (blockLevel 4 s.ao.history s.lu.calibration)
      (decide (4 ≤ (satAdd e.subBlocks 1).toNat))
      (ceilingMet (satAdd e.subBlocks 1) (blockLevel 30 s.ao.history s.lu.calibration) (completionCounted b e s)) := by
  obtain ⟨-, -, -, -, lu, -⟩ := ceilingMet_frame (satAdd e.subBlocks 1) (blockLevel 30 s.ao.history s.lu.calibration)
    (completionCounted b e s)
  obtain ⟨mark, above, count, entry⟩ := ceilingMet_openEntry (satAdd e.subBlocks 1)
    (blockLevel 30 s.ao.history s.lu.calibration) (s := completionCounted b e s) rfl
  rw [completionTail_eq, levelsTaken_some b open_, lu, momentaryAttributed, entry]
  rfl

/-- A completion holds the new levels, and leaves the pending export (R77, R145). -/
theorem completionTail_levels (b : SubBlock) (s : State) : (completionTail b s).lu = levelsHeld s.ao.history s.lu
    ∧ (completionTail b s).rc.pendingExport = s.rc.pendingExport := by
  cases open_ : s.su.openEntry with
  | none =>
    rw [completionTail_none b open_]
    obtain ⟨-, -, -, -, lu, -, exports⟩ := levelsTold_frame (blockLevel 4 s.ao.history s.lu.calibration) false
      { s with lu := levelsHeld s.ao.history s.lu }
    exact ⟨lu, exports⟩
  | some e =>
    obtain ⟨-, -, -, -, lu, -, exports⟩ := ceilingMet_frame (satAdd e.subBlocks 1)
      (blockLevel 30 s.ao.history s.lu.calibration) (completionCounted b e s)
    rw [completionTail_some b open_]
    obtain ⟨-, -, -, -, lu', -, exports'⟩ := levelsTold_frame (blockLevel 4 s.ao.history s.lu.calibration)
      (decide (4 ≤ (satAdd e.subBlocks 1).toNat))
      (ceilingMet (satAdd e.subBlocks 1) (blockLevel 30 s.ao.history s.lu.calibration) (completionCounted b e s))
    exact ⟨lu'.trans lu, exports'.trans exports⟩

/-- What a completion leaves of the open entry, but for the marks of the ceiling, of gating and of the recorder (R76 to
R80, R93, R147). -/
theorem completionTail_openEntry (b : SubBlock) {s : State} {e : OpenEntry} (open_ : s.su.openEntry = some e) :
    ∃ e', (completionTail b s).su.openEntry = some e' ∧ e' = { entryGrown b
        (blockLevel 4 s.ao.history s.lu.calibration) (blockLevel 30 s.ao.history s.lu.calibration) e with
      overMark := e'.overMark, overCount := e'.overCount, missed := e'.missed, isPartial := e'.isPartial
      evidenceIncomplete := e'.evidenceIncomplete } := by
  obtain ⟨mark, above, count, entry⟩ := ceilingMet_openEntry (satAdd e.subBlocks 1)
    (blockLevel 30 s.ao.history s.lu.calibration) (s := completionCounted b e s) rfl
  rw [completionTail_some b open_]
  obtain ⟨missed, part, entry'⟩ := levelsTold_openEntry (blockLevel 4 s.ao.history s.lu.calibration)
    (decide (4 ≤ (satAdd e.subBlocks 1).toNat)) entry
  exact ⟨_, entry', rfl⟩

/-! ### Rows after the event of a word (log 5) -/

/-- The row of a completion that is due takes it (R63). -/
theorem subBlockCompletion_row {s : State} (line : s.resetAsserted = false) :
    exec .subBlockCompletion s = .next (completeSubBlock s) := by
  show Host.Outcome.next _ = _
  rw [if_neg (by simp [line])]

/-- The row of a tick takes a completion that is due first (R37, log 5). -/
theorem tick_row {s : State} (line : s.resetAsserted = false) (high : Bool) (late : TickSet) :
    exec (.tick high late) s = .next (tickRow high late (completeSubBlock s)) := by
  show Host.Outcome.next _ = _
  rw [if_neg (by simp [line])]

/-- A completion that is due (R63, R71). -/
theorem completeSubBlock_due {s : State} {b : SubBlock} {d : Descriptor} (sub : s.ao.sub = some b)
    (taken : s.ao.taken = some d) (due : 4800 ≤ b.frames) : completeSubBlock s = completionTail b
      { s with ao := { s.ao with sub := none, history := pushHistory (weightedSum s.lu d b) s.ao.history } } := by
  simp only [completeSubBlock, sub, taken]
  exact if_pos due

/-- Every other row takes first what belongs to the event of a word already taken (log 5). -/
theorem exec_settled {c : Instr} {s : State} (line : s.resetAsserted = false) (reset : c ≠ .lineReset)
    (release : ∀ straps, c ≠ .resetNRelease straps) (completion : c ≠ .subBlockCompletion)
    (tick : ∀ high late, c ≠ .tick high late) : exec c s = exec c (settleWord s) := by
  obtain ⟨-, line', mp⟩ := settleWord_frame s
  have row (event : State → State) : running s event = running (settleWord s) event := by
    have ready_ : ready (settleWord s) = true := by rw [ready, line', line, settleWord_settled]; rfl
    rw [running_of_ready event ready_, running, line]
    rfl
  cases c with
  | lineReset => exact absurd rfl reset
  | resetNRelease straps => exact absurd rfl (release straps)
  | subBlockCompletion => exact absurd rfl completion
  | tick high late => exact absurd rfl (tick high late)
  | passThroughRequest r =>
    simp only [exec, execPassThroughRequest, row]
  | memoryPortCompletion id data =>
    simp only [exec, execMemoryPortCompletion, mp, row]
  | memoryPortIssue => exact row fun s => { s with mp := arbitrate s.mp }
  | _ => exact row _

end Sys2Proof.Machine

open Sys2Proof Sys2Proof.Machine in
/-- Settles O27: a completion is its counted state, the ceiling, and what follows the levels; every other row is a row of the
settled part. -/
theorem subBlockCompletes : Obligations.SubBlockCompletes := by
  refine ⟨fun s b d line sub taken due short => ?_, fun s line frames => ?_⟩
  · intro weight energy history newest
    have summed : pushHistory (weightedSum s.lu d b) s.ao.history = history := by
      rw [pushHistory_eq _ short, weightedSum]
      simp only [effectiveWeight_eq]
      rfl
    have level (n : Nat) : blockLevel n history s.lu.calibration = newest n := blockLevel_eq ..
    have met (count : BitVec 32) (u : State) : ceilingMet count (newest 30) u = match newest 30 with
        | some l => if 30 ≤ count.toNat then checkCeiling l u else u
        | none => u := by
      cases newest 30 <;> rfl
    have row := subBlockCompletion_row line
    rw [completeSubBlock_due sub taken due, summed] at row
    let s0 : State := { s with ao := { s.ao with sub := none, history := history } }
    obtain ⟨-, -, mp, cu, tb, ao, ca⟩ := completionTail_frame b s0
    obtain ⟨lu, exports⟩ := completionTail_levels b s0
    have levels : levelsHeld history s.lu = { s.lu with momentary := newest 4, shortTerm := newest 30 } := by
      rw [levelsHeld, level, level]
    refine ⟨completionTail b s0, row, ao, lu.trans levels, mp, cu, tb, ca, exports, fun open_ => ⟨?_, ?_⟩, fun e open_ => ?_⟩
    · rw [completionTail_none b (s := s0) open_]
      exact levelsTold_closed _ _ open_
    · rw [ao, lu, completionTail_none b (s := s0) open_, level]
      rfl
    · intro count grown counted checked
      have counts : satAdd e.subBlocks 1 = count := satAdd_succ (by decide) _
      have maximum (least : Nat) (level old : Option Int) : attributedMax least count level old = match level with
          | some l => if least ≤ count.toNat then some (match old with | some m => max m l | none => l) else old
          | none => old := by
        cases level <;> cases old <;> rfl
      have grows : entryGrown b (newest 4) (newest 30) e = grown := by
        rw [entryGrown, counts, maximum, maximum] <;> rfl
      have counted_ : completionCounted b e s0 = counted := by
        rw [completionCounted, level, level, grows]
        simp only [counted, ao, lu]
        rfl
      refine ⟨?_, ?_⟩
      · rw [completionTail_some b (s := s0) open_, level, level, counts, counted_, met]
        rfl
      · rw [← grows, ← level, ← level]
        exact completionTail_openEntry b (s := s0) open_
  · obtain ⟨-, line', -, cu, tb, -⟩ := completeSubBlock_frame s
    have done := completeSubBlock_of_not_due (completeSubBlock_not_due s)
    refine ⟨completeSubBlock s, settleWord s, subBlockCompletion_row line, completeSubBlock_not_due s,
      completeSubBlock_of_not_due, by rw [tb], by rw [cu], fun high late => ?_, fun none_ => ?_, fun tick => ?_, ?_,
      fun c reset release completion tick => exec_settled line reset release completion tick⟩
    · rw [tick_row line, tick_row (line'.trans line), done]
    · rw [settleWord, takeFrameTick, tb, none_]
      rfl
    · rw [tick_row (line'.trans line), done, tickRow, if_pos (by rw [cu, frames tick])]
      rfl
    · obtain ⟨-, asserted, -⟩ := settleWord_frame s
      rw [ready, asserted, line, settleWord_settled]
      rfl
end

section
set_option Elab.async false

namespace Sys2Proof.Machine

/-! ### What the completion of a scan does not see (R96) -/

section

variable (items : List Instr) (count : Nat) (f : ScanLeft → ScanLeft)

/-- The part with another queue of rows, another prescaler count, and other bounds of the scans in flight. -/
def aside (s : State) : State :=
  mapSlots (fun c => { c with left := f c.left }) { s with pending := items, tb := { s.tb with prescale := count } }

theorem joinReason_aside (g : Segment) (reason : HoldReason) (req : Option HoldRequest) (missing : Bool) (s : State) :
    joinReason g reason req missing (aside items count f s) = aside items count f (joinReason g reason req missing s) := by
  unfold joinReason
  split <;> rfl

theorem holdSegment_aside (req : HoldRequest) (missing : Bool) (s : State) (index : Nat) :
    holdSegment req missing (aside items count f s) index = aside items count f (holdSegment req missing s index) := by
  have same : (aside items count f s).rc = s.rc := rfl
  unfold holdSegment
  rw [same]
  cases s.rc.table[index]? with
  | none => rfl
  | some g =>
    dsimp only
    split
    · rfl
    · exact joinReason_aside ..
    · exact joinReason_aside ..
    · exact joinReason_aside ..
    · split <;> rfl

theorem holdFold_aside (req : HoldRequest) (missing : Bool) (l : List Nat) (s : State) :
    l.foldl (holdSegment req missing) (aside items count f s) = aside items count f (l.foldl (holdSegment req missing) s) := by
  induction l generalizing s with
  | nil => rfl
  | cons i l ih => rw [List.foldl_cons, holdSegment_aside, ih, List.foldl_cons]

theorem markEvidence_aside (id : EntryId) (s : State) :
    markEvidence id (aside items count f s) = aside items count f (markEvidence id s) := by
  simp only [markEvidence, aside, mapSlots, Option.map_map]
  rfl

theorem holdRequest_aside (req : HoldRequest) (s : State) :
    holdRequest req (aside items count f s) = aside items count f (holdRequest req s) := by
  have takes : takesRequests (aside items count f s) = takesRequests s := rfl
  have same : (aside items count f s).rc = s.rc ∧ (aside items count f s).tb.time = s.tb.time := ⟨rfl, rfl⟩
  unfold holdRequest
  dsimp only
  rw [takes, same.1, same.2, holdFold_aside]
  split
  · split
    · exact markEvidence_aside ..
    · rfl
  · rfl

theorem buildVerdict_aside (c : ClosedEntry) (ungated integrated : Option Int) (s : State) :
    buildVerdict c ungated integrated (aside items count f s) = aside items count f (buildVerdict c ungated integrated s) := by
  have asks : asksLoudnessHold c integrated (aside items count f s) = asksLoudnessHold c integrated s := rfl
  have missing : requestIncomplete (loudnessHold c) (aside items count f s) = requestIncomplete (loudnessHold c) s := rfl
  unfold buildVerdict
  dsimp only
  rw [asks, missing, holdRequest_aside]
  split <;> rfl

/-- A freed bank. -/
def scanFreed (bank : Bank) (s : State) : State := { s with su := setSlot bank none s.su, ag := setBank bank .cleared s.ag }

/-- A scan in flight completes: its verdict, its bank freed and given to an unbanked open entry (R96, R131). -/
theorem completeScan_some {bank : Bank} {s : State} {slot : ClosingSlot} (h : slotOf s.su bank = some slot) :
    completeScan bank s = giveFreedBank bank (scanFreed bank (buildVerdict slot.closed
      (scanValues (bankOf s.ag bank).counts).1 (scanValues (bankOf s.ag bank).counts).2 s)) := by
  rw [completeScan, h]
  rfl

theorem completeScan_none {bank : Bank} {s : State} (h : slotOf s.su bank = none) : completeScan bank s = s := by
  rw [completeScan, h]

theorem slotOf_aside (bank : Bank) (s : State) : slotOf (aside items count f s).su bank
    = (slotOf s.su bank).map fun c => { c with left := f c.left } := by cases bank <;> rfl

theorem scanFreed_aside (bank : Bank) (s : State) :
    scanFreed bank (aside items count f s) = aside items count f (scanFreed bank s) := by cases bank <;> rfl

theorem giveFreedBank_aside (bank : Bank) (s : State) :
    giveFreedBank bank (aside items count f s) = aside items count f (giveFreedBank bank s) := by
  have same : (aside items count f s).su.openEntry = s.su.openEntry := rfl
  unfold giveFreedBank
  rw [same]
  cases s.su.openEntry with
  | none => rfl
  | some e =>
    dsimp only
    split <;> rfl

/-- The completion of a scan sees neither the queue of rows, nor the prescaler, nor the bounds of scans (R94, R96). -/
theorem completeScan_aside (bank : Bank) (s : State) :
    completeScan bank (aside items count f s) = aside items count f (completeScan bank s) := by
  have same : (aside items count f s).ag = s.ag := rfl
  cases h : slotOf s.su bank with
  | none =>
    rw [completeScan_none h, completeScan_none]
    rw [slotOf_aside, h, Option.map_none]
  | some slot =>
    rw [completeScan_some h, completeScan_some ((slotOf_aside ..).trans (congrArg _ h)), same, buildVerdict_aside,
      scanFreed_aside, giveFreedBank_aside]

end

/-! ### The bounds of scans in flight (R94, log 8) -/

/-- How long the scan of a bank may still take, if it is in flight. -/
def leftOf (bank : Bank) (s : State) : Option ScanLeft := (slotOf s.su bank).map (·.left)

theorem leftOf_none {bank : Bank} {s : State} : leftOf bank s = none ↔ slotOf s.su bank = none := Option.map_eq_none_iff

/-- A bound in edges is met within n more of them. -/
def edgesMet (n : Nat) : Option ScanLeft → Bool
  | some (.edges k) => k ≤ n
  | _ => false

/-- A bound in ticks is met. -/
def ticksMet : Option ScanLeft → Bool
  | some (.ticks 0) => true
  | _ => false

theorem edgeExpired_eq (n : Nat) (slot : Option ClosingSlot) : edgeExpired n slot = edgesMet n (slot.map (·.left)) := by
  rcases slot with _ | ⟨c, _ | k⟩ <;> rfl

theorem tickExpired_eq (slot : Option ClosingSlot) : tickExpired slot = ticksMet (slot.map (·.left)) := by
  rcases slot with _ | ⟨c, (_ | n) | k⟩ <;> rfl

/-- The scan of a bank completes when its bound is met. -/
def finishScan (met : Option ScanLeft → Bool) (bank : Bank) (s : State) : State :=
  if met (leftOf bank s) then completeScan bank s else s

theorem finishScan_met {met : Option ScanLeft → Bool} {bank : Bank} {s : State} (h : met (leftOf bank s) = true) :
    finishScan met bank s = completeScan bank s := if_pos h

theorem finishScan_unmet {met : Option ScanLeft → Bool} {bank : Bank} {s : State} (h : met (leftOf bank s) = false) :
    finishScan met bank s = s := if_neg (by simp [h])

/-- A verdict may mark the records that wait for a scan, and leaves the bounds of the scans. -/
theorem buildVerdict_left (c : ClosedEntry) (ungated integrated : Option Int) (bank : Bank) (s : State) :
    leftOf bank (buildVerdict c ungated integrated s) = leftOf bank s := by
  have held (req : HoldRequest) : leftOf bank (holdRequest req s) = leftOf bank s := by
    unfold holdRequest
    dsimp only
    (repeat' split)
    · cases bank <;> simp [leftOf, slotOf, markEvidence, Option.map_map, Function.comp_def]
    · simp [leftOf]
    · rfl
  unfold buildVerdict
  dsimp only
  split
  · exact held _
  · rfl

/-- A scan that completes leaves its slot empty, and the bound of the other scan as it is (R96). -/
theorem completeScan_left (bank other : Bank) (s : State) :
    leftOf other (completeScan bank s) = if other = bank then none else leftOf other s := by
  cases h : slotOf s.su bank with
  | none =>
    rw [completeScan_none h]
    split
    · rename_i same
      rw [same]
      exact leftOf_none.mpr h
    · rfl
  | some slot =>
    have gives (u : State) : leftOf other (giveFreedBank bank u) = leftOf other u := by
      unfold giveFreedBank
      (repeat' split) <;> cases other <;> rfl
    have frees (u : State) : leftOf other (scanFreed bank u) = if other = bank then none else leftOf other u := by
      cases bank <;> cases other <;> rfl
    rw [completeScan_some h, gives, frees, buildVerdict_left]

theorem finishScan_left_other (met : Option ScanLeft → Bool) {bank other : Bank} (ne : other ≠ bank) (s : State) :
    leftOf other (finishScan met bank s) = leftOf other s := by
  unfold finishScan
  split
  · rw [completeScan_left, if_neg ne]
  · rfl

/-- The scans whose bound is met complete, A before B. -/
theorem forceScans_eq {expired : Option ClosingSlot → Bool} {met : Option ScanLeft → Bool}
    (h : ∀ slot, expired slot = met (slot.map (·.left))) (s : State) :
    forceScans expired s = finishScan met .b (finishScan met .a s) := by
  unfold forceScans
  dsimp only
  rw [h, h]
  rfl

/-- With one scan's bound not met, only the other may complete. -/
theorem forceScans_one {expired : Option ClosingSlot → Bool} {met : Option ScanLeft → Bool}
    (h : ∀ slot, expired slot = met (slot.map (·.left))) {bank other : Bank} (ne : bank ≠ other) {s : State}
    (unmet : met (leftOf other s) = false) : forceScans expired s = finishScan met bank s := by
  rw [forceScans_eq h]
  cases bank <;> cases other <;> first | exact absurd rfl ne | skip
  · refine finishScan_unmet ?_
    rw [finishScan_left_other _ ne.symm, unmet]
  · rw [finishScan_unmet unmet]

/-! ### Edges of REF_CLK pass (R38, R94) -/

/-- What n edges leave of a bound. -/
def edgeLeft (n : Nat) : ScanLeft → ScanLeft
  | .ticks k => .ticks k
  | .edges k => .edges (k - n)

/-- n edges pass for the bounds of the scans. -/
def edgesPass (n : Nat) (s : State) : State := aside s.pending s.tb.prescale (edgeLeft n) s

theorem mapSlots_edgeSlot (n : Nat) (s : State) : mapSlots (edgeSlot n) s = edgesPass n s := by
  have same : edgeSlot n = fun c : ClosingSlot => { c with left := edgeLeft n c.left } := by
    funext c
    rcases c with ⟨c, k | k⟩ <;> rfl
  rw [same]
  rfl

theorem leftOf_aside (items : List Instr) (count : Nat) (f : ScanLeft → ScanLeft) (bank : Bank) (s : State) :
    leftOf bank (aside items count f s) = (leftOf bank s).map f := by
  simp only [leftOf, slotOf_aside, Option.map_map]
  rfl

theorem edgesMet_map (n m : Nat) (l : Option ScanLeft) : edgesMet m (l.map (edgeLeft n)) = edgesMet (n + m) l := by
  rcases l with _ | k | k
  · rfl
  · rfl
  · exact decide_eq_decide.mpr (by omega)

/-- A scan that n edges have left in flight completes within m more when it would within the n + m. -/
theorem finishScan_edgesPass (n m : Nat) (bank : Bank) (s : State) :
    finishScan (edgesMet m) bank (edgesPass n s) = edgesPass n (finishScan (edgesMet (n + m)) bank s) := by
  have met : edgesMet m (leftOf bank (edgesPass n s)) = edgesMet (n + m) (leftOf bank s) := by
    rw [edgesPass, leftOf_aside, edgesMet_map]
  unfold finishScan
  rw [met]
  split
  · rw [edgesPass, completeScan_aside, edgesPass, (completeScan_frame bank s).1, (completeScan_frame bank s).2.2.2.2.1]
  · rfl

theorem edgesPass_edgesPass (n m : Nat) (s : State) : edgesPass m (edgesPass n s) = edgesPass (n + m) s := by
  have two (l : ScanLeft) : edgeLeft m (edgeLeft n l) = edgeLeft (n + m) l := by
    rcases l with k | k
    · rfl
    · simp only [edgeLeft, Nat.sub_sub]
  simp only [edgesPass, aside, mapSlots, Option.map_map, ← two]
  rfl

/-- The scan that may complete first: of two begun in REPLAY, the one with the fewer edges left (R94). -/
def firstScan (s : State) : Bank := if boundsBFirst s.su then .b else .a

/-- The other bank. -/
def otherBank : Bank → Bank
  | .a => .b
  | .b => .a

theorem otherBank_ne (bank : Bank) : otherBank bank ≠ bank := by cases bank <;> decide

theorem boundsBFirst_iff (s : State) : boundsBFirst s.su = true ↔
    ∃ a b, leftOf .a s = some (.edges a) ∧ leftOf .b s = some (.edges b) ∧ b < a := by
  unfold boundsBFirst leftOf slotOf
  rcases s.su.slotA with _ | ⟨c, k | k⟩ <;> rcases s.su.slotB with _ | ⟨d, j | j⟩ <;> simp

/-- A scan that completes within n edges completes after the one before it, unless that one is not bounded by edges. -/
theorem firstScan_before {n : Nat} {s : State} (second : edgesMet n (leftOf (otherBank (firstScan s)) s) = true) :
    edgesMet n (leftOf (firstScan s) s) = true ∨ ∀ m, edgesMet m (leftOf (firstScan s) s) = false := by
  by_cases later_ : boundsBFirst s.su = true
  · obtain ⟨a, b, left, right, less⟩ := (boundsBFirst_iff s).mp later_
    simp only [firstScan, later_, if_true, otherBank, left, right, edgesMet, decide_eq_true_eq] at second ⊢
    omega
  · have first := mt (boundsBFirst_iff s).mpr later_
    simp only [firstScan, later_, Bool.false_eq_true, if_false, otherBank] at second ⊢
    rcases left : leftOf .a s with _ | k | a
    · exact .inr fun _ => rfl
    · exact .inr fun _ => rfl
    · rcases right : leftOf .b s with _ | k | b
      · rw [right] at second
        cases second
      · rw [right] at second
        cases second
      · have order : ¬ b < a := fun less => first ⟨a, b, left, right, less⟩
        simp only [right, edgesMet, decide_eq_true_eq] at second ⊢
        omega

/-- A scan whose bound was met is no longer in flight. -/
theorem finishScan_left_self {met : Option ScanLeft → Bool} (none_ : met none = false) (bank : Bank) (s : State) :
    met (leftOf bank (finishScan met bank s)) = false := by
  by_cases h : met (leftOf bank s) = true
  · rw [finishScan_met h, completeScan_left, if_pos rfl, none_]
  · have unmet : met (leftOf bank s) = false := by simpa using h
    rw [finishScan_unmet unmet, unmet]

/-- A bound met within n edges is met within more. -/
theorem finishScan_more (n m : Nat) (bank : Bank) (s : State) :
    finishScan (edgesMet (n + m)) bank (finishScan (edgesMet n) bank s) = finishScan (edgesMet (n + m)) bank s := by
  have more : edgesMet n (leftOf bank s) = true → edgesMet (n + m) (leftOf bank s) = true := by
    rcases leftOf bank s with _ | k | k
    · exact id
    · exact id
    · simp only [edgesMet, decide_eq_true_eq]
      omega
  by_cases h : edgesMet n (leftOf bank s) = true
  · rw [finishScan_met h, finishScan_met (more h), finishScan_unmet]
    rw [completeScan_left, if_pos rfl]
    rfl
  · rw [finishScan_unmet (met := edgesMet n) (by simpa using h)]

/-- n edges pass: the scans whose bound is met complete, in the order of their bounds (R94). -/
theorem passEdges_eq (n : Nat) (s : State) : passEdges n s = edgesPass n
    (finishScan (edgesMet n) (otherBank (firstScan s)) (finishScan (edgesMet n) (firstScan s) s)) := by
  unfold passEdges
  dsimp only
  rw [mapSlots_edgeSlot, forceScans_eq (edgeExpired_eq n), edgeExpired_eq]
  by_cases first : boundsBFirst s.su = true
  · simp only [firstScan, first, Bool.true_and, if_true, otherBank]
    exact congrArg _ (finishScan_unmet ((congrArg _ (finishScan_left_other _ (by decide) _)).trans
      (finishScan_left_self rfl .b s)))
  · simp only [firstScan, first, Bool.false_and, Bool.false_eq_true, if_false, otherBank]

/-- With one scan's bound not met, the order of the two does not matter. -/
theorem finishScans_one {met : Option ScanLeft → Bool} {bank : Bank} {s : State} (unmet : met (leftOf bank s) = false)
    (first : Bank) : finishScan met (otherBank first) (finishScan met first s) = finishScan met (otherBank bank) s := by
  by_cases same : first = bank
  · rw [same, finishScan_unmet unmet]
  · have other : otherBank first = bank ∧ first = otherBank bank := by cases first <;> cases bank <;> simp_all [otherBank]
    obtain ⟨back, forth⟩ := other
    rw [back, finishScan_unmet ((congrArg met (finishScan_left_other met (Ne.symm same) s)).trans unmet), forth]

/-- While neither scan completes, the same one may complete first. -/
theorem firstScan_edgesPass {n : Nat} {s : State} (a : edgesMet n (leftOf .a s) = false) (b : edgesMet n (leftOf .b s) = false) :
    firstScan (edgesPass n s) = firstScan s := by
  have same : boundsBFirst (edgesPass n s).su = boundsBFirst s.su := by
    rw [Bool.eq_iff_iff, boundsBFirst_iff, boundsBFirst_iff, edgesPass, leftOf_aside, leftOf_aside]
    rcases left : leftOf .a s with _ | k | k <;> rcases right : leftOf .b s with _ | j | j <;> simp [edgeLeft]
    simp only [left, right, edgesMet, decide_eq_false_iff_not] at a b
    omega
  rw [firstScan, same, firstScan]

/-- Edges pass one after the other (R38, R94). -/
theorem passEdges_passEdges (n m : Nat) (s : State) : passEdges m (passEdges n s) = passEdges (n + m) s := by
  rw [passEdges_eq m, passEdges_eq n, finishScan_edgesPass, finishScan_edgesPass, edgesPass_edgesPass, passEdges_eq (n + m)]
  refine congrArg _ ?_
  by_cases first : edgesMet n (leftOf (firstScan s) s) = true
  · have gone : leftOf (firstScan s) (finishScan (edgesMet n) (otherBank (firstScan s))
        (finishScan (edgesMet n) (firstScan s) s)) = none := by
      rw [finishScan_left_other _ (otherBank_ne _).symm, finishScan_met first, completeScan_left, if_pos rfl]
    rw [finishScans_one (by rw [gone]; rfl), finishScan_more, ← finishScan_more n m (firstScan s) s,
      finishScan_unmet (bank := firstScan s) (s := finishScan _ _ _)]
    rw [finishScan_met first, completeScan_left, if_pos rfl]
    rfl
  · have unmet : edgesMet n (leftOf (firstScan s) s) = false := by simpa using first
    rw [finishScan_unmet unmet]
    by_cases second : edgesMet n (leftOf (otherBank (firstScan s)) s) = true
    · have never := (firstScan_before second).resolve_left first
      rw [finishScans_one (bank := firstScan s), finishScan_more, finishScan_unmet (never (n + m))]
      rw [finishScan_left_other _ (otherBank_ne _).symm, never]
    · have unmet' : edgesMet n (leftOf (otherBank (firstScan s)) s) = false := by simpa using second
      have both : edgesMet n (leftOf .a s) = false ∧ edgesMet n (leftOf .b s) = false := by
        generalize firstScan s = bank at unmet unmet'
        cases bank
        · exact ⟨unmet, unmet'⟩
        · exact ⟨unmet', unmet⟩
      rw [finishScan_unmet unmet', firstScan_edgesPass both.1 both.2]

end Sys2Proof.Machine
end

section
set_option Elab.async false

namespace Sys2Proof.Machine

/-! ### A tick that no block begins an event of its own with (R37, R61, R86, R107, R128, R170) -/

/-- The audio observer after a tick that does not stall it (R61). -/
def countsStall (ao : AudioObs) : AudioObs :=
  if ao.engine = .measuring then { ao with stallCount := ao.stallCount + 1 } else ao

/-- The activity and gating unit after a tick that begins no dead air (R86). -/
def countsQuiet (s : State) : Activity :=
  if deadAirCounts s then { s.ag with deadTimer := capInc Config.timerCap s.ag.deadTimer } else s.ag

/-- The caption unit after a tick that begins no gap (R107). -/
def countsGap (s : State) : Caption :=
  if gapRuns s then { s.ca with gapTimer := capInc Config.timerCap s.ca.gapTimer } else s.ca

/-- The open entry after the caption unit's tick (R107). -/
def countsCovered (s : State) (e : OpenEntry) : OpenEntry := if gapRuns s then captionMs s.ca.gapTimer e else e

/-- The open entry after the schedule unit's tick (R128). -/
def countsMeasured (engine : Engine) (e : OpenEntry) : OpenEntry :=
  if engine = .measuring then { e with measuredMs := satAdd e.measuredMs 1 }
  else { e with unmeasuredMs := satAdd e.unmeasuredMs 1 }

/-- The blocks that are owed a tick after it: those that the operand names, and those that begin an event of their own with
it (log 4). -/
def owedAfter (late : TickSet) (s : State) : TickSet :=
  ⟨late.ao || stallReaches s, late.ag || deadAirReaches s, late.ca || gapReaches s, late.su, late.ru || imageReaches s.ru⟩

section

variable (s : State)

theorem observerTick_counts (h : stallReaches s = false) : observerTick s = { s with ao := countsStall s.ao } := by
  unfold observerTick countsStall
  dsimp only
  rw [h]
  split <;> rfl

theorem activityTick_counts (h : deadAirReaches s = false) : activityTick s = { s with ag := countsQuiet s } := by
  unfold activityTick countsQuiet
  dsimp only
  rw [h]
  split <;> rfl

theorem captionTick_counts (h : gapReaches s = false) : captionTick s = { s with
    ca := countsGap s, su := { s.su with openEntry := s.su.openEntry.map (countsCovered s) } } := by
  unfold captionTick countsGap
  dsimp only
  rw [h]
  split
  · rename_i runs
    have covers : countsCovered s = captionMs s.ca.gapTimer := by
      funext e
      exact if_pos runs
    rw [covers]
    rfl
  · rename_i rests
    have covers : countsCovered s = id := by
      funext e
      exact if_neg rests
    rw [covers, Option.map_id_fun]
    rfl

theorem scheduleTick_counts : scheduleTick s
    = { s with su := { s.su with openEntry := s.su.openEntry.map (countsMeasured s.ao.engine) } } := rfl

theorem reportTick_counts {ru : Reports} (h : imageReaches ru = false) :
    reportTick ru = { ru with imageTicks := ru.imageTicks + 1 } := if_neg (by simp [h])

/-- A block that is owed nothing takes nothing. -/
theorem setOwed_same {o : TickSet} (h : o = s.tb.owed) : setOwed o s = s := by rw [h]; rfl

theorem takeObserverTick_counts (h : s.tb.owed.ao = true → stallReaches s = false) : takeObserverTick s
    = setOwed { s.tb.owed with ao := false } { s with ao := if s.tb.owed.ao then countsStall s.ao else s.ao } := by
  cases owed : s.tb.owed.ao with
  | true =>
    rw [takeObserverTick, if_pos owed]
    exact observerTick_counts (setOwed _ s) (h owed)
  | false =>
    have idle : { s.tb.owed with ao := false } = s.tb.owed := by rw [← owed]
    exact (if_neg (by simp [owed])).trans (setOwed_same s idle).symm

theorem takeActivityTick_counts (h : s.tb.owed.ag = true → deadAirReaches s = false) : takeActivityTick s
    = setOwed { s.tb.owed with ag := false } { s with ag := if s.tb.owed.ag then countsQuiet s else s.ag } := by
  cases owed : s.tb.owed.ag with
  | true =>
    rw [takeActivityTick, if_pos owed]
    exact activityTick_counts (setOwed _ s) (h owed)
  | false =>
    have idle : { s.tb.owed with ag := false } = s.tb.owed := by rw [← owed]
    exact (if_neg (by simp [owed])).trans (setOwed_same s idle).symm

theorem takeCaptionTick_counts (h : s.tb.owed.ca = true → gapReaches s = false) : takeCaptionTick s
    = setOwed { s.tb.owed with ca := false } { s with
      ca := if s.tb.owed.ca then countsGap s else s.ca
      su := { s.su with openEntry := if s.tb.owed.ca then s.su.openEntry.map (countsCovered s) else s.su.openEntry } } := by
  cases owed : s.tb.owed.ca with
  | true =>
    rw [takeCaptionTick, if_pos owed]
    exact captionTick_counts (setOwed _ s) (h owed)
  | false =>
    have idle : { s.tb.owed with ca := false } = s.tb.owed := by rw [← owed]
    exact (if_neg (by simp [owed])).trans (setOwed_same s idle).symm

theorem takeScheduleTick_counts : takeScheduleTick s = setOwed { s.tb.owed with su := false } { s with su := { s.su with
    openEntry := if s.tb.owed.su then s.su.openEntry.map (countsMeasured s.ao.engine) else s.su.openEntry } } := by
  cases owed : s.tb.owed.su with
  | true =>
    rw [takeScheduleTick, if_pos owed]
    exact scheduleTick_counts (setOwed _ s)
  | false =>
    have idle : { s.tb.owed with su := false } = s.tb.owed := by rw [← owed]
    exact (if_neg (by simp [owed])).trans (setOwed_same s idle).symm

theorem takeReportTick_counts (h : s.tb.owed.ru = true → imageReaches s.ru = false) : takeReportTick s
    = setOwed { s.tb.owed with ru := false } { s with
      ru := if s.tb.owed.ru then { s.ru with imageTicks := s.ru.imageTicks + 1 } else s.ru } := by
  cases owed : s.tb.owed.ru with
  | true =>
    rw [takeReportTick, if_pos owed]
    exact congrArg (fun ru => setOwed _ { s with ru := ru }) (reportTick_counts (h owed))
  | false =>
    have idle : { s.tb.owed with ru := false } = s.tb.owed := by rw [← owed]
    exact (if_neg (by simp [owed])).trans (setOwed_same s idle).symm

/-- The stall count plays no part in whether the engine measures. -/
theorem countsStall_engine (ao : AudioObs) : (countsStall ao).engine = ao.engine := by
  unfold countsStall
  split <;> rfl

theorem countsQuiet_active : (countsQuiet s).active = s.ag.active := by
  unfold countsQuiet
  split <;> rfl

variable {s}

/-- Dead air sees the open entry, activity and the engine's state alone (R86, R87). -/
theorem deadAir_congr {t : State} (entry : t.su.openEntry = s.su.openEntry) (activity : t.ag = s.ag)
    (engine : t.ao.engine = s.ao.engine) : deadAirReaches t = deadAirReaches s ∧ countsQuiet t = countsQuiet s := by
  have counts : deadAirCounts t = deadAirCounts s := by
    unfold deadAirCounts
    rw [entry, activity, engine]
  constructor
  · unfold deadAirReaches
    rw [entry, activity, counts]
  · rw [countsQuiet, counts, activity, countsQuiet]

/-- The gap timer sees the open entry, whether there is activity, and the caption unit (R107, R108). -/
theorem gap_congr {t : State} (entry : t.su.openEntry = s.su.openEntry) (active : t.ag.active = s.ag.active)
    (caption : t.ca = s.ca) : gapReaches t = gapReaches s ∧ countsGap t = countsGap s ∧ countsCovered t = countsCovered s := by
  have runs : gapRuns t = gapRuns s := by
    unfold gapRuns
    rw [entry, active, caption]
  refine ⟨?_, ?_, ?_⟩
  · unfold gapReaches
    rw [entry, caption, runs]
  · rw [countsGap, runs, caption, countsGap]
  · funext e
    rw [countsCovered, runs, caption, countsCovered]

variable (s)

/-- The part after a tick in which no block begins an event of its own: each block that is not owed the tick has counted
it, and the others are owed it (R37, log 4). -/
def tickCounted (late : TickSet) (s : State) : State :=
  let owed := owedAfter late s
  { s with
    tb := { s.tb with owed := owed }
    ao := if owed.ao then s.ao else countsStall s.ao
    ag := if owed.ag then s.ag else countsQuiet s
    ca := if owed.ca then s.ca else countsGap s
    su := { s.su with
      openEntry := s.su.openEntry.map fun e =>
        let e := if owed.ca then e else countsCovered s e
        if owed.su then e else countsMeasured s.ao.engine e }
    ru := if owed.ru then s.ru else { s.ru with imageTicks := s.ru.imageTicks + 1 } }

/-- The blocks that are owed a tick they only count take it, one after the other (R37, log 7). -/
theorem takeOwedTicks_counts (o : TickSet) (observer : o.ao = true → stallReaches s = false)
    (activity : o.ag = true → deadAirReaches s = false) (caption : o.ca = true → gapReaches s = false)
    (reports : o.ru = true → imageReaches s.ru = false) : takeOwedTicks (setOwed o s) = setOwed .none { s with
      ao := if o.ao then countsStall s.ao else s.ao
      ag := if o.ag then countsQuiet s else s.ag
      ca := if o.ca then countsGap s else s.ca
      su := { s.su with
        openEntry := s.su.openEntry.map fun e =>
          let e := if o.ca then countsCovered s e else e
          if o.su then countsMeasured s.ao.engine e else e }
      ru := if o.ru then { s.ru with imageTicks := s.ru.imageTicks + 1 } else s.ru } := by
  let s₁ : State := { s with ao := if o.ao then countsStall s.ao else s.ao }
  let s₂ : State := { s₁ with ag := if o.ag then countsQuiet s else s.ag }
  let s₃ : State := { s₂ with
    ca := if o.ca then countsGap s else s.ca
    su := { s.su with openEntry := if o.ca then s.su.openEntry.map (countsCovered s) else s.su.openEntry } }
  let s₄ : State := { s₃ with
    su := { s.su with openEntry := if o.su then s₃.su.openEntry.map (countsMeasured s.ao.engine) else s₃.su.openEntry } }
  have engine : s₁.ao.engine = s.ao.engine := by
    dsimp only [s₁]
    split
    · exact countsStall_engine s.ao
    · rfl
  have active : s₂.ag.active = s.ag.active := by
    dsimp only [s₂]
    split
    · exact countsQuiet_active s
    · rfl
  have deadAir := deadAir_congr (s := s) (t := s₁) rfl rfl engine
  have gap := gap_congr (s := s) (t := s₂) rfl active rfl
  have h₁ : takeObserverTick (setOwed o s) = setOwed { o with ao := false } s₁ :=
    takeObserverTick_counts (setOwed o s) observer
  have h₂ : takeActivityTick (setOwed { o with ao := false } s₁) = setOwed { o with ao := false, ag := false } s₂ := by
    refine (takeActivityTick_counts (setOwed { o with ao := false } s₁) fun owed => deadAir.1.trans (activity owed)).trans ?_
    exact congrArg (fun q => setOwed _ { s₁ with ag := if o.ag then q else s.ag }) deadAir.2
  have h₃ : takeCaptionTick (setOwed { o with ao := false, ag := false } s₂)
      = setOwed { o with ao := false, ag := false, ca := false } s₃ := by
    refine (takeCaptionTick_counts (setOwed { o with ao := false, ag := false } s₂) fun owed => gap.1.trans (caption owed)).trans ?_
    exact congrArg₂ (fun g c => setOwed _ { s₂ with
      ca := if o.ca then g else s.ca
      su := { s.su with openEntry := if o.ca then s.su.openEntry.map c else s.su.openEntry } }) gap.2.1 gap.2.2
  have h₄ : takeScheduleTick (setOwed { o with ao := false, ag := false, ca := false } s₃)
      = setOwed { o with ao := false, ag := false, ca := false, su := false } s₄ := by
    refine (takeScheduleTick_counts (setOwed _ s₃)).trans ?_
    exact congrArg (fun m => setOwed _ { s₃ with
      su := { s.su with openEntry := if o.su then s₃.su.openEntry.map (countsMeasured m) else s₃.su.openEntry } }) engine
  have h₅ : takeReportTick (setOwed { o with ao := false, ag := false, ca := false, su := false } s₄)
      = setOwed .none { s₄ with ru := if o.ru then { s.ru with imageTicks := s.ru.imageTicks + 1 } else s.ru } :=
    takeReportTick_counts (setOwed _ s₄) reports
  have entry : s₄.su.openEntry = s.su.openEntry.map fun e =>
      let e := if o.ca then countsCovered s e else e
      if o.su then countsMeasured s.ao.engine e else e := by
    dsimp only [s₄, s₃]
    cases o.ca <;> cases o.su <;> cases s.su.openEntry <;> rfl
  rw [takeOwedTicks, h₁, h₂, h₃, h₄, h₅, ← entry]

/-- A tick is counted by every block that is not owed it (R37, log 4). -/
theorem offerTick_eq (late : TickSet) : offerTick late s = tickCounted late s := by
  have swap {α : Type} (b : Bool) (x y : α) : (if (!b) = true then x else y) = if b = true then y else x := by
    cases b <;> rfl
  unfold offerTick
  dsimp only
  rw [takeOwedTicks_counts]
  · simp only [setOwed, tickCounted, owedAfter, Bool.not_not, ← Bool.not_or, swap]
    rfl
  all_goals simp

end

end Sys2Proof.Machine
end

section
set_option Elab.async false

namespace Sys2Proof.Machine

/-! ### A tick with nothing left over (R37, R94) -/

section

variable {s : State}

/-- The part once station time has moved on by 1 ms and each scan has a tick fewer (R37, R94). -/
def timeAdvanced (high : Bool) (s : State) : State := mapSlots tickSlot { s with tb := advanceTime s.cu.mode high s.tb }

/-- With nothing handed or offered there is no offer to take. -/
theorem takeOffers_of_nothing (h : nothingHanded s) : takeOffers s = s := by
  obtain ⟨-, -, owed, firing, cues⟩ := h
  have ticks : takeOwedTicks s = s := by
    simp [takeOwedTicks, takeObserverTick, takeActivityTick, takeCaptionTick, takeScheduleTick, takeReportTick, owed,
      TickSet.none]
  simp [takeOffers, ticks, takeFiring, firing, cues, takeCues]

/-- While no bound in ticks is met, a tick completes no scan. -/
theorem forceScans_unmet (unmet : ∀ bank, ticksMet (leftOf bank s) = false) : forceScans tickExpired s = s := by
  rw [forceScans_eq tickExpired_eq, finishScan_unmet (unmet .a), finishScan_unmet (unmet .b)]

/-- With nothing left over and no scan at its bound, a tick moves time on and is counted (R37). -/
theorem tickEvent_eq (nothing : nothingHanded s) (unmet : ∀ bank, ticksMet (leftOf bank s) = false) (high : Bool)
    (late : TickSet) : tickEvent high late s = tickCounted late (timeAdvanced high s) := by
  unfold tickEvent
  dsimp only
  rw [takeOffers_of_nothing nothing, forceScans_unmet unmet, offerTick_eq, timeAdvanced]

theorem noScan.leftOf_none (h : noScan s) (bank : Bank) : leftOf bank s = none := by
  obtain ⟨a, b⟩ := h
  cases bank
  · exact Machine.leftOf_none.mpr a
  · exact Machine.leftOf_none.mpr b

theorem noScan.ticks_unmet (h : noScan s) (bank : Bank) : ticksMet (leftOf bank s) = false := by rw [h.leftOf_none]; rfl

/-- Edges change no slot whose scan is not bounded by edges. -/
theorem edgeLeft_of_ticks (n : Nat) (slot : Option ClosingSlot) (ticks : ∀ k, slot.map (·.left) ≠ some (.edges k)) :
    slot.map (fun c => { c with left := edgeLeft n c.left }) = slot := by
  rcases slot with _ | ⟨c, k | k⟩
  · rfl
  · rfl
  · exact absurd rfl (ticks k)

/-- While no bound is in edges, n edges change no bound (R94). -/
theorem edgesPass_of_ticks (n : Nat) (ticks : ∀ bank k, leftOf bank s ≠ some (.edges k)) : edgesPass n s = s := by
  show ({ s with su := { s.su with slotA := _, slotB := _ } } : State) = s
  rw [edgeLeft_of_ticks n s.su.slotA (ticks .a), edgeLeft_of_ticks n s.su.slotB (ticks .b)]

/-- A bound that is not in edges is not met by edges. -/
theorem edgesMet_of_ticks (n : Nat) {bank : Bank} (ticks : ∀ k, leftOf bank s ≠ some (.edges k)) :
    edgesMet n (leftOf bank s) = false := by
  rcases left : leftOf bank s with _ | k | k
  · rfl
  · rfl
  · exact absurd left (ticks k)

/-- While no bound is in edges, the edges of REF_CLK change no scan (R94). -/
theorem passEdges_of_ticks (n : Nat) (ticks : ∀ bank k, leftOf bank s ≠ some (.edges k)) : passEdges n s = s := by
  have unmet (bank : Bank) : edgesMet n (leftOf bank s) = false := edgesMet_of_ticks n (ticks bank)
  rw [passEdges_eq, finishScan_unmet (unmet _), finishScan_unmet (unmet _), edgesPass_of_ticks n ticks]

theorem noScan.passEdges_same (h : noScan s) (n : Nat) : passEdges n s = s :=
  passEdges_of_ticks n fun bank k => by simp [h.leftOf_none]

theorem noScan.mapSlots_same (h : noScan s) (f : ClosingSlot → ClosingSlot) : mapSlots f s = s := by
  obtain ⟨a, b⟩ := h
  have mapA : s.su.slotA.map f = s.su.slotA := by rw [a, Option.map_none]
  have mapB : s.su.slotB.map f = s.su.slotB := by rw [b, Option.map_none]
  rw [mapSlots, mapA, mapB]

/-! ### The rows of REF_CLK_EDGE and TICK (R37, R38) -/

theorem ready_line (h : ready s = true) : s.resetAsserted = false := by
  simp only [ready, Bool.and_eq_true, Bool.not_eq_true'] at h
  exact h.1

theorem ready_not_due (h : ready s = true) : completionDue s = false := by
  simp only [ready, settled, Bool.and_eq_true, Bool.not_eq_true'] at h
  exact h.2.1

/-- The queue of rows and the prescaler count of a part. -/
def counting (items : List Instr) (count : Nat) (s : State) : State :=
  { s with pending := items, tb := { s.tb with prescale := count } }

theorem edge_row (h : ready s = true) (high : Bool) (late : TickSet) :
    exec (.refClkEdge high late) s = .next (edgeEvent high late s) := running_of_ready _ h

/-- An edge in REPLAY passes for the scans alone (R38, R94). -/
theorem edgeEvent_replay (mode : s.cu.mode = .replay) (high : Bool) (late : TickSet) :
    edgeEvent high late s = passEdges 1 s := by
  unfold edgeEvent
  dsimp only
  rw [if_pos (by simp [mode])]

/-- An edge that finds the count below D − 1 (R38). -/
theorem edgeEvent_counts (mode : s.cu.mode ≠ .replay) (below : s.tb.prescale + 1 < s.tb.divisor) (high : Bool)
    (late : TickSet) : edgeEvent high late s = counting s.pending (s.tb.prescale + 1) (passEdges 1 s) := by
  unfold edgeEvent
  dsimp only
  rw [if_neg (by simpa using mode), if_pos (by simpa using below), counting]
  simp

/-- An edge that finds the count at D − 1 makes a tick (R38). -/
theorem edgeEvent_ticks (mode : s.cu.mode ≠ .replay) (last : s.tb.prescale + 1 = s.tb.divisor) (high : Bool)
    (late : TickSet) : edgeEvent high late s = tickEvent high late (counting s.pending 0 (passEdges 1 s)) := by
  unfold edgeEvent
  dsimp only
  rw [if_neg (by simpa using mode), if_neg (by simp [last]), counting]
  simp

/-- TICK with no completion due, by REF_CLK: the edges left to the prescaler pass, and their tick is made (R37, log 3). -/
theorem tick_row_clock (line : s.resetAsserted = false) (due : completionDue s = false) (mode : s.cu.mode ≠ .replay)
    (high : Bool) (late : TickSet) : exec (.tick high late) s
      = .next (tickEvent high late (counting s.pending 0 (passEdges (s.tb.divisor - s.tb.prescale) s))) := by
  rw [tick_row line, completeSubBlock_of_not_due due, tickRow, if_neg mode, counting]
  simp

/-- TICK with no completion due, by a frame of REPLAY (R39). -/
theorem tick_row_frame (line : s.resetAsserted = false) (due : completionDue s = false) (mode : s.cu.mode = .replay)
    (frame : s.tb.frameTick = true) (high : Bool) (late : TickSet) : exec (.tick high late) s
      = .next (tickEvent false late { s with tb := { s.tb with frameTick := false } }) := by
  rw [tick_row line, completeSubBlock_of_not_due due, tickRow, if_pos mode, takeFrameTick, if_pos frame]

/-! ### A tick is the edges it stands for (R38, log 3) -/

theorem counting_eq_aside (items : List Instr) (count : Nat) (s : State) : counting items count s = aside items count id s := by
  simp only [aside, mapSlots, id_eq, Option.map_id']
  rfl

/-- A scan that completes sees neither the queue of rows nor the prescaler (R94). -/
theorem finishScan_counting (met : Option ScanLeft → Bool) (bank : Bank) (items : List Instr) (count : Nat) (s : State) :
    finishScan met bank (counting items count s) = counting items count (finishScan met bank s) := by
  have left : leftOf bank (counting items count s) = leftOf bank s := rfl
  have completes : completeScan bank (counting items count s) = counting items count (completeScan bank s) := by
    rw [counting_eq_aside, completeScan_aside, ← counting_eq_aside]
  rw [finishScan, left, completes, finishScan]
  split <;> rfl

/-- Edges pass for the scans alone (R94). -/
theorem passEdges_counting (n : Nat) (items : List Instr) (count : Nat) (s : State) :
    passEdges n (counting items count s) = counting items count (passEdges n s) := by
  have first : firstScan (counting items count s) = firstScan s := rfl
  rw [passEdges_eq, first, finishScan_counting, finishScan_counting, passEdges_eq]
  rfl

/-- A run of one step more begins with a step. -/
theorem run_step (M : Host.Core) {s t : M.State} (h : M.step s = .next t) (n : Nat) :
    Host.Core.run M (n + 1) s = Host.Core.run M n t := by rw [Host.Core.run, h]

/-- The edges left to the prescaler, one after the other, are a tick after all of them (R38, R94). -/
theorem edges_run (high : Bool) (late : TickSet) (n : Nat) (ready_ : ready s = true) (mode : s.cu.mode ≠ .replay)
    (left : s.tb.prescale + (n + 1) = s.tb.divisor) :
    Host.Core.run Sys2Proof.core (n + 1) { s with pending := List.replicate (n + 1) (.refClkEdge high late) }
      = .next (tickEvent high late (counting [] 0 (passEdges (n + 1) s))) := by
  induction n generalizing s with
  | zero =>
    have edge : Sys2Proof.core.step { s with pending := [.refClkEdge high late] }
        = .next (tickEvent high late (counting [] 0 (passEdges 1 s))) := by
      refine (edge_row (s := counting [] s.tb.prescale s) ready_ high late).trans (congrArg _ ?_)
      rw [edgeEvent_ticks (s := counting [] s.tb.prescale s) mode left, passEdges_counting]
      rfl
    exact run_step Sys2Proof.core edge 0
  | succ n ih =>
    let items : List Instr := List.replicate (n + 1) (.refClkEdge high late)
    have below : s.tb.prescale + 1 < s.tb.divisor := by omega
    have edge : Sys2Proof.core.step { s with pending := .refClkEdge high late :: items }
        = .next (counting items (s.tb.prescale + 1) (passEdges 1 s)) := by
      refine (edge_row (s := counting items s.tb.prescale s) ready_ high late).trans (congrArg _ ?_)
      rw [edgeEvent_counts (s := counting items s.tb.prescale s) mode below, passEdges_counting]
      rfl
    let passed : State := counting [] (s.tb.prescale + 1) (passEdges 1 s)
    have still : ready passed = true := by
      simpa [passed, counting, ready, settled, completionDue] using ready_
    have rest := ih (s := passed) still (by simpa [passed, counting] using mode)
      (by simp [passed, counting]; omega)
    rw [passEdges_counting, passEdges_passEdges, Nat.add_comm 1] at rest
    exact (run_step Sys2Proof.core edge (n + 1)).trans rest

/-- TICK by REF_CLK is the edges left to the prescaler, one after the other (R38, log 3). -/
theorem edges_are_tick (high : Bool) (late : TickSet) (ready_ : ready s = true) (mode : s.cu.mode ≠ .replay)
    (below : s.tb.prescale < s.tb.divisor) (last : s.pending = []) :
    Host.Core.run Sys2Proof.core (s.tb.divisor - s.tb.prescale)
      { s with pending := List.replicate (s.tb.divisor - s.tb.prescale) (.refClkEdge high late) }
      = exec (.tick high late) s := by
  rw [tick_row_clock (ready_line ready_) (ready_not_due ready_) mode, last]
  obtain ⟨n, left⟩ : ∃ n, s.tb.divisor - s.tb.prescale = n + 1 := ⟨s.tb.divisor - s.tb.prescale - 1, by omega⟩
  rw [left]
  exact edges_run high late n ready_ mode (by omega)

/-! ### A tick in OFF -/

theorem imageReaches_eq (ru : Reports) : imageReaches ru = decide (ru.imageTicks = 99) :=
  decide_eq_decide.mpr (Nat.add_right_cancel_iff (n := 1) (k := 99))

/-- In an idle part without an open entry a tick is for station time and the report unit (R37). -/
theorem tickCounted_idle (entry : s.su.openEntry = none) (engine : s.ao.engine = .idle) :
    tickCounted .none s = { s with
      tb := { s.tb with owed := { TickSet.none with ru := s.ru.imageTicks = 99 } }
      ru := if s.ru.imageTicks = 99 then s.ru else { s.ru with imageTicks := s.ru.imageTicks + 1 } } := by
  have stall : stallReaches s = false := by simp [stallReaches, engine]
  have dead : deadAirReaches s = false := by simp [deadAirReaches, entry]
  have gap : gapReaches s = false := by simp [gapReaches, entry]
  have observer : countsStall s.ao = s.ao := if_neg (by simp [engine])
  have quiet : countsQuiet s = s.ag := if_neg (by simp [deadAirCounts, entry])
  have caption : countsGap s = s.ca := if_neg (by simp [gapRuns, entry])
  have owed : owedAfter .none s = { TickSet.none with ru := s.ru.imageTicks = 99 } := by
    simp [owedAfter, stall, dead, gap, imageReaches_eq, TickSet.none]
  rw [tickCounted, owed, observer, quiet, caption]
  simp only [TickSet.none, entry, Option.map_none, decide_eq_true_eq, if_false, Bool.false_eq_true]
  rw [← entry]

end

end Sys2Proof.Machine

open Sys2Proof Sys2Proof.Machine in
/-- Settles O21: an edge by the count it finds, the run of the edges left by induction on them, and the tick of an idle
part. -/
theorem ticksAndEdges : Obligations.TicksAndEdges := by
  refine ⟨fun s high late ready_ scans => ⟨fun mode below => ?_, fun mode last => ?_, fun mode => ?_⟩,
    fun s high late ready_ mode below last => edges_are_tick high late ready_ mode below last,
    fun s high ready_ nothing scans mode entry engine => ?_⟩
  · rw [edge_row ready_, edgeEvent_counts mode below, scans.passEdges_same]
    rfl
  · rw [edge_row ready_, edgeEvent_ticks mode last, scans.passEdges_same,
      tick_row_clock (ready_line ready_) (ready_not_due ready_) mode, scans.passEdges_same]
  · rw [edge_row ready_, edgeEvent_replay mode, scans.passEdges_same]
  · let t : State := { s with tb := { s.tb with time := BitVec.ofNat 32 (s.tb.time.toNat + 1), prescale := 0 } }
    have moved : timeAdvanced high (counting s.pending 0 s) = t := by
      have time : s.tb.time + 1 = BitVec.ofNat 32 (s.tb.time.toNat + 1) := BitVec.eq_of_toNat_eq (by simp)
      refine Eq.trans ?_ (noScan.mapSlots_same (s := t) scans tickSlot)
      dsimp only [t]
      rw [← time]
      show mapSlots tickSlot { counting s.pending 0 s with tb := advanceTime s.cu.mode high _ } = _
      rw [mode]
      rfl
    rw [tick_row_clock (ready_line ready_) (ready_not_due ready_) (by simp [mode]), scans.passEdges_same,
      tickEvent_eq (s := counting s.pending 0 s) nothing scans.ticks_unmet, moved,
      tickCounted_idle (s := t) entry engine]
end

section
set_option Elab.async false

namespace Sys2Proof.Machine

/-! ### The time base's part of a tick (R43, R44, R45) -/

section

variable (tb : TimeBase)

@[simp] theorem testCompare_frame : (testCompare tb).time = tb.time ∧ (testCompare tb).prescale = tb.prescale
    ∧ (testCompare tb).divisor = tb.divisor ∧ (testCompare tb).residue = tb.residue
    ∧ (testCompare tb).cueLevel = tb.cueLevel ∧ (testCompare tb).cueRun = tb.cueRun
    ∧ (testCompare tb).cueStart = tb.cueStart ∧ (testCompare tb).cueQ = tb.cueQ
    ∧ (testCompare tb).earlyWindow = tb.earlyWindow ∧ (testCompare tb).force = tb.force
    ∧ (testCompare tb).cues = tb.cues ∧ (testCompare tb).frameTick = tb.frameTick := by
  unfold testCompare
  (repeat' split) <;> simp

@[simp] theorem sampleCue_frame (high : Bool) : (sampleCue high tb).time = tb.time ∧ (sampleCue high tb).prescale = tb.prescale
    ∧ (sampleCue high tb).divisor = tb.divisor ∧ (sampleCue high tb).residue = tb.residue
    ∧ (sampleCue high tb).compare = tb.compare ∧ (sampleCue high tb).firing = tb.firing
    ∧ (sampleCue high tb).cueQ = tb.cueQ ∧ (sampleCue high tb).earlyWindow = tb.earlyWindow
    ∧ (sampleCue high tb).force = tb.force ∧ (sampleCue high tb).frameTick = tb.frameTick := by
  unfold sampleCue
  dsimp only
  (repeat' split) <;> simp [clearRun]

/-- The held value has been reached (R42, R43). -/
def compareReached : Prop := ∃ v, tb.compare = some v ∧ (v - tb.time).toInt ≤ 0

variable {tb}

theorem reached_iff (now start : Time) : reached now start = true ↔ (start - now).toInt ≤ 0 := by
  simp [reached, later, since]

/-- A held value that has been reached fires, and the compare is empty (R43). -/
theorem testCompare_fires (h : compareReached tb) :
    (testCompare tb).compare = none ∧ (testCompare tb).firing = tb.compare := by
  obtain ⟨v, held, past⟩ := h
  simp only [testCompare, held]
  rw [if_pos ((reached_iff ..).mpr past)]
  exact ⟨rfl, rfl⟩

/-- A held value that lies ahead stands, as an empty compare does (R43). -/
theorem testCompare_stands (h : ¬ compareReached tb) :
    (testCompare tb).compare = tb.compare ∧ (testCompare tb).firing = tb.firing := by
  unfold testCompare
  cases held : tb.compare with
  | none => exact ⟨held, rfl⟩
  | some v =>
    dsimp only
    rw [if_neg fun past => h ⟨v, held, (reached_iff ..).mp past⟩]
    exact ⟨held, rfl⟩

/-- A first sample, or one like the level, clears the run (R44). -/
theorem sampleCue_same {high : Bool} (h : tb.cueLevel = none ∨ tb.cueLevel = some high) :
    sampleCue high tb = { clearRun tb with cueLevel := some high } := by
  unfold sampleCue
  rcases h with unseeded | level
  · rw [unseeded]
  · rw [level]
    dsimp only
    rw [if_pos rfl]
    show clearRun tb = _
    rw [← level]
    rfl

/-- A sample unlike the level lengthens the run, and the one that completes it is the new level, a rise being offered with
the time of the run's first sample (R45). -/
theorem sampleCue_other {high : Bool} {start : Time} (level : tb.cueLevel = some (!high))
    (first : (tb.cueRun = 0 ∧ start = tb.time) ∨ (0 < tb.cueRun ∧ tb.cueStart = some start)) :
    sampleCue high tb = if tb.cueQ ≤ tb.cueRun + 1 then
        { clearRun tb with cueLevel := some high, cues := if high then tb.cues ++ [start] else tb.cues }
      else { tb with cueRun := tb.cueRun + 1, cueStart := some start } := by
  have begun : (if tb.cueRun = 0 then tb.time else tb.cueStart.getD tb.time) = start := by
    rcases first with ⟨zero, now⟩ | ⟨running_, held⟩
    · rw [if_pos zero, now]
    · rw [if_neg (by omega), held, Option.getD_some]
  unfold sampleCue
  rw [level]
  dsimp only
  rw [if_neg (by simp), begun]

end

/-! ### Who is owed a tick, and who counts it (R61, R86, R87, R107, R108, R170) -/

section

variable {s : State}

/-- The open entry's dead air is timed (R86). -/
def quietIn (s : State) (e : OpenEntry) : Prop :=
  0 < e.entry.deadAirLimit ∧ s.ag.active = false ∧ (s.ao.engine = .measuring ∨ s.ao.engine = .stalled)

/-- The open entry's captions are timed (R107). -/
def captionedIn (s : State) (e : OpenEntry) : Prop :=
  e.entry.required = true ∧ s.ag.active = true ∧ s.ca.windowPresent = true

theorem stallReaches_iff : stallReaches s = true ↔ s.ao.engine = .measuring ∧ s.ao.stallCount + 1 = 500 := by
  simp [stallReaches, Config.stallTicks]

theorem imageReaches_iff (ru : Reports) : imageReaches ru = true ↔ ru.imageTicks + 1 = 100 := by simp [imageReaches]

theorem deadAirCounts_iff : deadAirCounts s = true ↔ ∃ e, s.su.openEntry = some e ∧ quietIn s e := by
  unfold deadAirCounts quietIn
  cases s.su.openEntry <;> simp [and_assoc]

theorem deadAirReaches_iff : deadAirReaches s = true ↔ ∃ e, s.su.openEntry = some e ∧ quietIn s e
    ∧ capInc Config.timerCap s.ag.deadTimer = e.entry.deadAirLimit := by
  have counts := deadAirCounts_iff (s := s)
  unfold deadAirReaches
  cases entry : s.su.openEntry <;> simp_all

theorem gapRuns_iff : gapRuns s = true ↔ ∃ e, s.su.openEntry = some e ∧ captionedIn s e := by
  unfold gapRuns captionedIn
  cases s.su.openEntry <;> simp [and_assoc]

theorem gapReaches_iff : gapReaches s = true ↔ ∃ e, s.su.openEntry = some e ∧ captionedIn s e
    ∧ s.ca.gapTimer < e.entry.gapLimit ∧ capInc Config.timerCap s.ca.gapTimer = e.entry.gapLimit := by
  have runs := gapRuns_iff (s := s)
  unfold gapReaches
  cases entry : s.su.openEntry <;> simp_all [and_assoc]

/-- The caption unit's tick adds to the active and the covered ms alone (R107). -/
theorem countsCovered_frame (e : OpenEntry) : countsCovered s e
    = { e with activeMs := (countsCovered s e).activeMs, coveredMs := (countsCovered s e).coveredMs } := by
  unfold countsCovered
  split <;> rfl

/-- The schedule unit's tick adds to the measured or the unmeasured ms alone (R128). -/
theorem countsMeasured_frame (engine : Engine) (e : OpenEntry) : countsMeasured engine e
    = { e with
        measuredMs := (countsMeasured engine e).measuredMs
        unmeasuredMs := (countsMeasured engine e).unmeasuredMs } := by
  unfold countsMeasured
  split <;> rfl

theorem countsQuiet_bank (bank : Bank) : bankOf (countsQuiet s) bank = bankOf s.ag bank := by
  unfold countsQuiet
  split
  · cases bank <;> rfl
  · rfl

/-- A tick that blocks only count leaves the banks. -/
theorem tickCounted_bank (late : TickSet) (bank : Bank) : bankOf (tickCounted late s).ag bank = bankOf s.ag bank := by
  show bankOf (if _ then s.ag else countsQuiet s) bank = _
  split
  · rfl
  · exact countsQuiet_bank bank

end

/-! ### TICK by the source of the mode (R37, R38, R39) -/

section

variable {s : State}

/-- The tick has its source: a frame in REPLAY, and REF_CLK otherwise (R38, R39). -/
def tickSource (s : State) : Prop :=
  (s.cu.mode ≠ .replay ∧ s.tb.frameTick = false) ∨ (s.cu.mode = .replay ∧ s.tb.frameTick = true)

/-- The time base once the tick is taken from its source and station time has moved on (R37 to R39). -/
def timeTicked (high : Bool) (s : State) : TimeBase :=
  advanceTime s.cu.mode high
    { s.tb with prescale := if s.cu.mode = .replay then s.tb.prescale else 0, frameTick := false }

/-- TICK with nothing left over, no scan at its bound and none begun in REPLAY (R37). -/
theorem tick_row_counted (line : s.resetAsserted = false) (due : completionDue s = false) (nothing : nothingHanded s)
    (source : tickSource s) (unmet : ∀ bank, ticksMet (leftOf bank s) = false)
    (ticks : ∀ bank k, leftOf bank s ≠ some (.edges k)) (high : Bool) (late : TickSet) :
    exec (.tick high late) s = .next (tickCounted late (mapSlots tickSlot { s with tb := timeTicked high s })) := by
  rcases source with ⟨mode, frame⟩ | ⟨mode, frame⟩
  · have same : timeTicked high s = advanceTime s.cu.mode high { s.tb with prescale := 0 } := by
      rw [timeTicked, if_neg mode, ← frame]
    rw [tick_row_clock line due mode, passEdges_of_ticks _ ticks,
      tickEvent_eq (s := counting s.pending 0 s) nothing unmet, same]
    rfl
  · have same : timeTicked high s = advanceTime s.cu.mode false { s.tb with frameTick := false } := by
      rw [timeTicked, if_pos mode, mode]
      rfl
    rw [tick_row_frame line due mode frame,
      tickEvent_eq (s := { s with tb := { s.tb with frameTick := false } }) nothing unmet, same]
    rfl

/-- TICK with nothing left over and no scan in flight (R37). -/
theorem tick_row_noScan (line : s.resetAsserted = false) (due : completionDue s = false) (nothing : nothingHanded s)
    (scans : noScan s) (source : tickSource s) (high : Bool) (late : TickSet) : exec (.tick high late) s
      = .next { tickCounted late s with tb := { timeTicked high s with owed := owedAfter late s } } := by
  rw [tick_row_counted line due nothing source scans.ticks_unmet fun bank k => by simp [scans.leftOf_none]]
  rw [noScan.mapSlots_same (s := { s with tb := timeTicked high s }) scans]
  rfl

theorem tickSource_of (h : (s.cu.mode = .live ∧ s.tb.frameTick = false) ∨ (s.cu.mode = .replay ∧ s.tb.frameTick = true)) :
    tickSource s := h.imp_left fun live => ⟨by simp [live.1], live.2⟩

end

end Sys2Proof.Machine
end

section
set_option Elab.async false

namespace Sys2Proof.Machine

/-! ### The time base after TICK -/

section

variable {s : State}

/-- What a tick of an observing part moves on, before the compare is tested (R37, R44). -/
def timeSampled (high : Bool) (s : State) : TimeBase :=
  let tb := { s.tb with time := s.tb.time + 1, prescale := if s.cu.mode = .replay then s.tb.prescale else 0, frameTick := false }
  if s.cu.mode = .live then sampleCue high tb else tb

theorem timeTicked_eq (high : Bool) (mode : s.cu.mode = .live ∨ s.cu.mode = .replay) :
    timeTicked high s = testCompare (timeSampled high s) := by
  rcases mode with mode | mode <;> rw [timeTicked, timeSampled, mode] <;> rfl

theorem timeSampled_replay (high : Bool) (mode : s.cu.mode = .replay) :
    timeSampled high s = { s.tb with time := s.tb.time + 1, frameTick := false } := by
  rw [timeSampled, mode]
  rfl

/-- The time base that a sample of CUE in LIVE finds (R37, R44). -/
def beforeSample (s : State) : TimeBase := { s.tb with time := s.tb.time + 1, prescale := 0, frameTick := false }

theorem timeSampled_live (high : Bool) (mode : s.cu.mode = .live) :
    timeSampled high s = sampleCue high (beforeSample s) := by
  rw [timeSampled, mode]
  rfl

/-- Sampling CUE moves neither time nor what the settings and the compare hold. -/
theorem timeSampled_frame (high : Bool) : (timeSampled high s).time = s.tb.time + 1
    ∧ (timeSampled high s).frameTick = false ∧ (timeSampled high s).divisor = s.tb.divisor
    ∧ (timeSampled high s).residue = s.tb.residue ∧ (timeSampled high s).cueQ = s.tb.cueQ
    ∧ (timeSampled high s).earlyWindow = s.tb.earlyWindow ∧ (timeSampled high s).force = s.tb.force
    ∧ (timeSampled high s).compare = s.tb.compare ∧ (timeSampled high s).firing = s.tb.firing := by
  unfold timeSampled
  dsimp only
  split <;> simp

end

/-! ### The open entry after TICK (R107, R128) -/

section

variable (late : TickSet) (s : State) (e : OpenEntry)

/-- The open entry once the blocks that are not owed the tick have counted it. -/
def entryTicked : OpenEntry :=
  let e := if (owedAfter late s).ca then e else countsCovered s e
  if late.su then e else countsMeasured s.ao.engine e

variable {s e} in
theorem tickCounted_entry (entry : s.su.openEntry = some e) :
    (tickCounted late s).su = { s.su with openEntry := some (entryTicked late s e) } := by
  simp only [tickCounted, entry, Option.map_some]
  rfl

theorem tickCounted_noEntry (entry : s.su.openEntry = none) : (tickCounted late s).su = s.su := by
  simp only [tickCounted, entry, Option.map_none]
  rw [← entry]

/-- A tick adds to four counts of the open entry alone. -/
theorem entryTicked_frame : entryTicked late s e = { e with
    measuredMs := (entryTicked late s e).measuredMs, unmeasuredMs := (entryTicked late s e).unmeasuredMs
    activeMs := (entryTicked late s e).activeMs, coveredMs := (entryTicked late s e).coveredMs } := by
  unfold entryTicked countsCovered countsMeasured
  dsimp only
  (repeat' split) <;> rfl

variable {late s}

theorem entryTicked_owed (own : late.su = true) : (entryTicked late s e).measuredMs = e.measuredMs
    ∧ (entryTicked late s e).unmeasuredMs = e.unmeasuredMs := by
  simp only [entryTicked, own, if_true]
  split
  · exact ⟨rfl, rfl⟩
  · rw [countsCovered_frame]
    exact ⟨rfl, rfl⟩

/-- A ms is measured while the engine is MEASURING (R128). -/
theorem entryTicked_measuring (own : late.su = false) (engine : s.ao.engine = .measuring) :
    (entryTicked late s e).measuredMs = satAdd e.measuredMs 1 ∧ (entryTicked late s e).unmeasuredMs = e.unmeasuredMs := by
  simp only [entryTicked, own, countsMeasured, engine, if_true, Bool.false_eq_true, if_false]
  split
  · exact ⟨rfl, rfl⟩
  · rw [countsCovered_frame]
    exact ⟨rfl, rfl⟩

theorem entryTicked_unmeasured (own : late.su = false) (engine : s.ao.engine ≠ .measuring) :
    (entryTicked late s e).measuredMs = e.measuredMs ∧ (entryTicked late s e).unmeasuredMs = satAdd e.unmeasuredMs 1 := by
  simp only [entryTicked, own, countsMeasured, engine, Bool.false_eq_true, if_false]
  split
  · exact ⟨rfl, rfl⟩
  · rw [countsCovered_frame]
    exact ⟨rfl, rfl⟩

/-- A tick that the gap timer does not count leaves active and covered ms (R107). -/
theorem entryTicked_uncaptioned (h : (owedAfter late s).ca = true ∨ gapRuns s = false) :
    (entryTicked late s e).activeMs = e.activeMs ∧ (entryTicked late s e).coveredMs = e.coveredMs := by
  have same : (if (owedAfter late s).ca then e else countsCovered s e) = e := by
    rcases h with owed | rests
    · exact if_pos owed
    · have idle : countsCovered s e = e := if_neg (by simp [rests])
      rw [idle, ite_self]
  simp only [entryTicked, same]
  split
  · exact ⟨rfl, rfl⟩
  · rw [countsMeasured_frame]
    exact ⟨rfl, rfl⟩

/-- A tick that the gap timer counts is an active ms, and a covered one before the gap limit (R107). -/
theorem entryTicked_captioned (owed : (owedAfter late s).ca = false) (runs : gapRuns s = true) :
    (entryTicked late s e).activeMs = capInc Config.timerCap e.activeMs
      ∧ (entryTicked late s e).coveredMs
        = if s.ca.gapTimer < e.entry.gapLimit then capInc Config.timerCap e.coveredMs else e.coveredMs := by
  have counted : (if (owedAfter late s).ca then e else countsCovered s e) = captionMs s.ca.gapTimer e := by
    rw [if_neg (by simp [owed]), countsCovered, if_pos runs]
  simp only [entryTicked, counted]
  split
  · exact ⟨rfl, rfl⟩
  · rw [countsMeasured_frame]
    exact ⟨rfl, rfl⟩

end

/-! ### The other blocks after TICK (R61, R86, R107, R170) -/

section

variable {late : TickSet} {s : State}

theorem tickCounted_observer_same (h : (owedAfter late s).ao = true ∨ s.ao.engine ≠ .measuring) :
    (tickCounted late s).ao = s.ao := by
  rcases h with owed | engine
  · exact if_pos owed
  · have rests : countsStall s.ao = s.ao := if_neg engine
    simp only [tickCounted, rests, ite_self]

theorem tickCounted_observer (owed : (owedAfter late s).ao = false) (engine : s.ao.engine = .measuring) :
    (tickCounted late s).ao = { s.ao with stallCount := s.ao.stallCount + 1 } :=
  (if_neg (by simp [owed])).trans (if_pos engine)

theorem tickCounted_activity_same (h : (owedAfter late s).ag = true ∨ deadAirCounts s = false) :
    (tickCounted late s).ag = s.ag := by
  rcases h with owed | rests
  · exact if_pos owed
  · have idle : countsQuiet s = s.ag := if_neg (by simp [rests])
    simp only [tickCounted, idle, ite_self]

theorem tickCounted_activity (owed : (owedAfter late s).ag = false) (counts : deadAirCounts s = true) :
    (tickCounted late s).ag = { s.ag with deadTimer := capInc Config.timerCap s.ag.deadTimer } :=
  (if_neg (by simp [owed])).trans (if_pos counts)

theorem tickCounted_caption_same (h : (owedAfter late s).ca = true ∨ gapRuns s = false) : (tickCounted late s).ca = s.ca := by
  rcases h with owed | rests
  · exact if_pos owed
  · have idle : countsGap s = s.ca := if_neg (by simp [rests])
    simp only [tickCounted, idle, ite_self]

theorem tickCounted_caption (owed : (owedAfter late s).ca = false) (runs : gapRuns s = true) :
    (tickCounted late s).ca = { s.ca with gapTimer := capInc Config.timerCap s.ca.gapTimer } :=
  (if_neg (by simp [owed])).trans (if_pos runs)

theorem tickCounted_reports_same (owed : (owedAfter late s).ru = true) : (tickCounted late s).ru = s.ru := if_pos owed

theorem tickCounted_reports (owed : (owedAfter late s).ru = false) :
    (tickCounted late s).ru = { s.ru with imageTicks := s.ru.imageTicks + 1 } := if_neg (by simp [owed])

end

/-! ### Scans at a row of REF_CLK (R94) -/

section

variable {s : State} {bank other : Bank}

theorem both_banks {P : Bank → Prop} (ne : bank ≠ other) (one : P bank) (two : P other) (any : Bank) : P any := by
  cases bank <;> cases other <;> cases any <;> first | assumption | exact absurd rfl ne

theorem left_of {slot : ClosingSlot} (h : slotOf s.su bank = some slot) : leftOf bank s = some slot.left := by
  rw [leftOf, h, Option.map_some]

/-- A scan bounded by ticks, or none, is not bounded by edges. -/
theorem left_not_edges (h : slotOf s.su bank = none ∨ ∃ c n, slotOf s.su bank = some ⟨c, .ticks n⟩) (k : Nat) :
    leftOf bank s ≠ some (.edges k) := by
  rcases h with gone | ⟨c, n, held⟩
  · simp [leftOf, gone]
  · simp [leftOf, held]

/-- A scan with a tick left, or none, does not complete at a tick. -/
theorem left_ticks_unmet (h : slotOf s.su bank = none ∨ ∃ c n, slotOf s.su bank = some ⟨c, .ticks (n + 1)⟩) :
    ticksMet (leftOf bank s) = false := by
  rcases h with gone | ⟨c, n, held⟩
  · simp [leftOf, gone, ticksMet]
  · simp [leftOf, held, ticksMet]

theorem scan_row (h : ready s = true) : exec (.scanCompletion bank) s = .next (completeScan bank s) := running_of_ready _ h

/-- With one scan begun in REPLAY, edges pass for it alone (R94). -/
theorem passEdges_one (n : Nat) (ne : bank ≠ other) (ticks : ∀ k, leftOf other s ≠ some (.edges k)) :
    passEdges n s = edgesPass n (finishScan (edgesMet n) bank s) := by
  have back : otherBank other = bank := by cases bank <;> cases other <;> first | rfl | exact absurd rfl ne
  rw [passEdges_eq, finishScans_one (edgesMet_of_ticks n ticks), back]

/-- Edges that a scan outlasts are taken from its bound (R94). -/
theorem passEdges_outlasted {c : ClosedEntry} {k n : Nat} (ne : bank ≠ other) (ticks : ∀ k, leftOf other s ≠ some (.edges k))
    (held : slotOf s.su bank = some ⟨c, .edges k⟩) (more : n < k) :
    passEdges n s = { s with su := setSlot bank (some ⟨c, .edges (k - n)⟩) s.su } := by
  have unmet : edgesMet n (leftOf bank s) = false := by simp [left_of held, edgesMet, more]
  rw [passEdges_one n ne ticks, finishScan_unmet unmet]
  cases bank <;> cases other <;> first | exact absurd rfl ne | skip
  · show ({ s with su := { s.su with slotA := _, slotB := _ } } : State) = _
    rw [edgeLeft_of_ticks n s.su.slotB ticks, show s.su.slotA = _ from held]
    rfl
  · show ({ s with su := { s.su with slotA := _, slotB := _ } } : State) = _
    rw [edgeLeft_of_ticks n s.su.slotA ticks, show s.su.slotB = _ from held]
    rfl

/-- Once the scan of one bank has completed, only the other's may be in flight (R96). -/
theorem completeScan_ticks (ne : bank ≠ other) (ticks : ∀ k, leftOf other s ≠ some (.edges k)) :
    ∀ any k, leftOf any (completeScan bank s) ≠ some (.edges k) := by
  refine both_banks ne (fun k => ?_) fun k => ?_
  · simp [completeScan_left]
  · rw [completeScan_left, if_neg ne.symm]
    exact ticks k

/-- Edges that a scan does not outlast complete it (R94, R96). -/
theorem passEdges_completed {c : ClosedEntry} {k n : Nat} (ne : bank ≠ other) (ticks : ∀ k, leftOf other s ≠ some (.edges k))
    (held : slotOf s.su bank = some ⟨c, .edges k⟩) (less : k ≤ n) : passEdges n s = completeScan bank s := by
  have met : edgesMet n (leftOf bank s) = true := by simp [left_of held, edgesMet, less]
  rw [passEdges_one n ne ticks, finishScan_met met]
  exact edgesPass_of_ticks n (completeScan_ticks ne ticks)

theorem slotOf_mapSlots (f : ClosingSlot → ClosingSlot) (bank : Bank) (s : State) :
    slotOf (mapSlots f s).su bank = (slotOf s.su bank).map f := by cases bank <;> rfl

theorem completeScan_ready (h : ready s = true) : ready (completeScan bank s) = true := by
  simpa [ready, settled, completionDue] using h

theorem completeScan_nothing (h : nothingHanded s) : nothingHanded (completeScan bank s) := by
  simpa [nothingHanded] using h

/-- TICK by REF_CLK after a scan has completed, when none begun in REPLAY is in flight. -/
theorem tick_row_after (ready_ : ready s = true) (mode : s.cu.mode ≠ .replay) (ne : bank ≠ other)
    (ticks : ∀ k, leftOf other s ≠ some (.edges k)) (high : Bool) (late : TickSet) :
    exec (.tick high late) (completeScan bank s)
      = .next (tickEvent high late (counting s.pending 0 (completeScan bank s))) := by
  have after := completeScan_ready (bank := bank) ready_
  rw [tick_row_clock (ready_line after) (ready_not_due after) (by simpa using mode),
    passEdges_of_ticks _ (completeScan_ticks ne ticks), (completeScan_frame bank s).1]

/-- A scan that no tick is left to completes just before TICK is taken (R94, log 8). -/
theorem tick_row_completed (ready_ : ready s = true) (nothing : nothingHanded s) (mode : s.cu.mode ≠ .replay)
    (ne : bank ≠ other) (last : leftOf bank s = some (.ticks 0)) (unmet : ticksMet (leftOf other s) = false)
    (ticks : ∀ any k, leftOf any s ≠ some (.edges k)) (high : Bool) (late : TickSet) :
    exec (.tick high late) s = exec (.tick high late) (completeScan bank s) := by
  let before : State := counting s.pending 0 s
  let after : State := counting s.pending 0 (completeScan bank s)
  have completed : forceScans tickExpired before = after := by
    rw [forceScans_one tickExpired_eq ne (s := before) unmet, finishScan_counting, finishScan_met]
    rw [last]
    rfl
  have stays : forceScans tickExpired after = after := by
    refine forceScans_unmet (both_banks ne ?_ ?_)
    · show ticksMet (leftOf bank (completeScan bank s)) = false
      rw [completeScan_left, if_pos rfl]
      rfl
    · show ticksMet (leftOf other (completeScan bank s)) = false
      rw [completeScan_left, if_neg ne.symm, unmet]
  rw [tick_row_clock (ready_line ready_) (ready_not_due ready_) mode, passEdges_of_ticks _ ticks,
    tick_row_after ready_ mode ne (ticks other)]
  unfold tickEvent
  rw [takeOffers_of_nothing (s := before) nothing, takeOffers_of_nothing (s := after) (completeScan_nothing nothing),
    completed, stays]

/-- TICK by REF_CLK takes from the bound of a scan begun in REPLAY the edges that it stands for (R94, log 3). -/
theorem tick_row_outlasted {c : ClosedEntry} {k : Nat} (ready_ : ready s = true) (nothing : nothingHanded s)
    (mode : s.cu.mode ≠ .replay) (ne : bank ≠ other) (held : slotOf s.su bank = some ⟨c, .edges k⟩)
    (left : slotOf s.su other = none ∨ ∃ d n, slotOf s.su other = some ⟨d, .ticks (n + 1)⟩)
    (more : s.tb.divisor - s.tb.prescale < k) (high : Bool) (late : TickSet) :
    ∃ t, exec (.tick high late) s = .next t
      ∧ slotOf t.su bank = some ⟨c, .edges (k - (s.tb.divisor - s.tb.prescale))⟩ ∧ bankOf t.ag bank = bankOf s.ag bank := by
  let passed : State := { s with su := setSlot bank (some ⟨c, .edges (k - (s.tb.divisor - s.tb.prescale))⟩) s.su }
  have unmet : ∀ any, ticksMet (leftOf any passed) = false := by
    refine both_banks ne ?_ ?_
    · simp [passed, leftOf, ticksMet]
    · simpa [passed, leftOf, ne.symm] using left_ticks_unmet left
  have ticks := left_not_edges (left.imp_right fun ⟨d, n, held⟩ => ⟨d, n + 1, held⟩)
  rw [tick_row_clock (ready_line ready_) (ready_not_due ready_) mode, passEdges_outlasted ne ticks held more,
    tickEvent_eq (s := counting s.pending 0 passed) nothing unmet]
  refine ⟨_, rfl, ?_, tickCounted_bank late bank⟩
  show slotOf (mapSlots tickSlot passed).su bank = _
  rw [slotOf_mapSlots, slotOf_setSlot_same]
  rfl

end

end Sys2Proof.Machine

open Sys2Proof Sys2Proof.Machine in
/-- Settles O22: with nothing left over a tick moves station time on and is counted block by block (`tick_row_noScan`), and a
scan at its bound completes before it, by ticks (`tick_row_completed`) or by edges (`passEdges_completed`). -/
theorem tickInLiveAndReplay : Obligations.TickInLiveAndReplay := by
  refine ⟨?_, ?_, ?_, ?_, ?_, ?_, ?_⟩
  · intro s high late line due nothing scans source now fires
    have row := tick_row_noScan line due nothing scans (tickSource_of source) high late
    have mode : s.cu.mode = .live ∨ s.cu.mode = .replay := source.imp And.left And.left
    obtain ⟨-, -, -, firing, cues⟩ := nothing
    obtain ⟨time, frame, divisor, residue, cueQ, earlyWindow, force, compare, noFiring⟩ := timeSampled_frame (s := s) high
    have fires_iff : fires ↔ compareReached (timeSampled high s) := by
      rw [compareReached, time, compare]
    rw [timeTicked_eq high mode] at row
    refine ⟨_, row, ?_⟩
    dsimp only [tickCounted]
    simp only [testCompare_frame, time, frame, divisor, residue, cueQ, earlyWindow, force, line, true_and]
    refine ⟨rfl, fun h => ?_, fun h => ?_, fun mode => ?_,
      fun mode => ⟨?_, fun level => ?_, fun start level first => ⟨fun short => ?_, fun last => ?_⟩⟩⟩
    · rw [← compare]
      exact testCompare_fires (fires_iff.mp h)
    · rw [← compare, ← firing, ← noFiring]
      exact testCompare_stands (mt fires_iff.mpr h)
    · rw [timeSampled_replay high mode]
      exact ⟨rfl, rfl, rfl, rfl, cues⟩
    · rw [timeSampled_live high mode]
      simp [beforeSample]
    · rw [timeSampled_live high mode, sampleCue_same (tb := beforeSample s) level]
      simp [clearRun, beforeSample, cues]
    · have sampled := (sampleCue_other (tb := beforeSample s) level first).trans (if_neg (Nat.not_le.mpr short))
      rw [timeSampled_live high mode, sampled]
      simp [level, beforeSample, cues]
    · have sampled := (sampleCue_other (tb := beforeSample s) level first).trans (if_pos last.ge)
      rw [timeSampled_live high mode, sampled]
      simp [clearRun, beforeSample, cues]
  · intro s high late e line due nothing scans entry own source inc
    have inc_eq (n : BitVec 32) : satAdd n 1 = inc n := satAdd_succ (by decide) n
    have su := tickCounted_entry late entry
    refine ⟨_, entryTicked late s e, tick_row_noScan line due nothing scans (tickSource_of source) high late,
      congrArg Schedule.openEntry su, ?_, su, fun engine => ?_, fun engine => ?_⟩
    · rw [entryTicked_frame]
    · rw [← inc_eq]
      exact entryTicked_measuring e own engine
    · rw [← inc_eq]
      exact entryTicked_unmeasured e own engine
  · intro s high late line due nothing scans source inc stalls quiet dead runs gap
    have noRuns (h : ∀ e, s.su.openEntry = some e → ¬ runs e) : gapRuns s = false := by
      rw [← Bool.not_eq_true, gapRuns_iff]
      exact fun ⟨e, entry, active⟩ => h e entry active
    have noQuiet (h : ∀ e, s.su.openEntry = some e → ¬ quiet e) : deadAirCounts s = false := by
      rw [← Bool.not_eq_true, deadAirCounts_iff]
      exact fun ⟨e, entry, active⟩ => h e entry active
    refine ⟨_, tick_row_noScan line due nothing scans (tickSource_of source) high late,
      ?_, ?_, ?_, rfl, ?_, rfl, rfl, ?_, ?_, ?_, ?_, ?_, ?_, ?_, ?_, tickCounted_noEntry late s, ?_⟩
    · exact Bool.or_eq_true_iff.trans (or_congr_right stallReaches_iff)
    · exact Bool.or_eq_true_iff.trans (or_congr_right deadAirReaches_iff)
    · exact Bool.or_eq_true_iff.trans (or_congr_right gapReaches_iff)
    · exact Bool.or_eq_true_iff.trans (or_congr_right (imageReaches_iff s.ru))
    · exact fun h => tickCounted_observer_same h
    · exact fun owed engine => tickCounted_observer owed engine
    · exact fun h => tickCounted_activity_same (h.imp_right noQuiet)
    · exact fun e owed entry active => tickCounted_activity owed (deadAirCounts_iff.mpr ⟨e, entry, active⟩)
    · exact fun h => tickCounted_caption_same (h.imp_right noRuns)
    · exact fun e owed entry active => tickCounted_caption owed (gapRuns_iff.mpr ⟨e, entry, active⟩)
    · exact fun owed => tickCounted_reports_same owed
    · exact fun owed => tickCounted_reports owed
    · intro e entry
      have only (rests : ¬ runs e) : gapRuns s = false :=
        noRuns fun e' entry' => by rwa [← Option.some.inj (entry.symm.trans entry')]
      refine ⟨entryTicked late s e, tickCounted_entry late entry, entryTicked_frame late s e, entryTicked_owed e,
        fun h => entryTicked_uncaptioned e (h.imp_right only),
        fun owed active => entryTicked_captioned e owed (gapRuns_iff.mpr ⟨e, entry, active⟩)⟩
  · intro s high late line due nothing source scans
    have ticks (bank : Bank) (k : Nat) : leftOf bank s ≠ some (.edges k) :=
      left_not_edges ((scans bank).imp_right fun ⟨c, n, held⟩ => ⟨c, n + 1, held⟩) k
    refine ⟨_, tick_row_counted line due nothing source (fun bank => left_ticks_unmet (scans bank)) ticks high late, ?_⟩
    intro bank c n held
    refine ⟨?_, tickCounted_bank late bank⟩
    show slotOf (mapSlots tickSlot s).su bank = _
    rw [slotOf_mapSlots, held]
    rfl
  · intro s high late bank other c ready_ nothing mode ne held left
    have ticks : ∀ any k, leftOf any s ≠ some (.edges k) := both_banks ne (left_not_edges (.inr ⟨c, 0, held⟩))
      (left_not_edges (left.imp_right fun ⟨c, n, held⟩ => ⟨c, n + 1, held⟩))
    refine ⟨_, scan_row ready_, ?_⟩
    exact tick_row_completed ready_ nothing mode ne (left_of held) (left_ticks_unmet left) ticks high late
  · intro s high late bank other c k ready_ mode ne held
    refine ⟨fun below left => ⟨fun more => ?_, fun less => ⟨_, scan_row ready_, ?_⟩⟩,
      fun nothing left => ⟨fun more => ?_, fun less => ⟨_, scan_row ready_, ?_⟩⟩⟩
    · rw [edge_row ready_, edgeEvent_counts mode below, passEdges_outlasted ne (left_not_edges left) held more]
      rfl
    · rw [edge_row ready_, edgeEvent_counts mode below, passEdges_completed ne (left_not_edges left) held less, counting]
      simp
    · exact tick_row_outlasted ready_ nothing mode ne held left more high late
    · have ticks := left_not_edges (left.imp_right fun ⟨d, n, held⟩ => ⟨d, n + 1, held⟩)
      rw [tick_row_clock (ready_line ready_) (ready_not_due ready_) mode, passEdges_completed ne ticks held less,
        tick_row_after ready_ mode ne ticks]
  · intro s high late bank other c k ready_ mode ne held left
    refine ⟨fun more => ?_, fun less => ⟨_, scan_row ready_, ?_⟩⟩
    · rw [edge_row ready_, edgeEvent_replay mode, passEdges_outlasted ne (left_not_edges left) held more]
    · rw [edge_row ready_, edgeEvent_replay mode, passEdges_completed ne (left_not_edges left) held less]
end

section
set_option Elab.async false

namespace Sys2Proof.Machine

/-! ### A tick that stalls the stream (R61, R84) -/

section

variable {s : State}

/-- STALL takes the tick that the observer is owed (R61). -/
theorem stall_row (h : ready s = true) (owed : s.tb.owed.ao = true) :
    exec .stall s = .next (observerTick (setOwed { s.tb.owed with ao := false } s)) :=
  (running_of_ready _ h).trans (congrArg _ (if_pos owed))

/-- The entry into STALLED gives up the measurement, forces QUIET and reports the engine's new state (R61, R64, R84). -/
theorem enterStalled_eq (s : State) : enterStalled s
    = offer (.audioState .stall .measuring .stalled s.ao.taken (s.su.openEntry.map (·.entry.id)) s.tb.time) { s with
        ao := { s.ao with engine := .stalled, sub := none, history := [], filters := Vector.replicate 8 .clear }
        lu := { s.lu with momentary := none, shortTerm := none }
        ag := { s.ag with
          onCount := 0, offCount := 0, active := false
          quietStart := if s.ag.active then some s.tb.time else s.ag.quietStart } } := rfl

/-- The tick that brings the stall count to 500 enters STALLED (R61). -/
theorem observerTick_stalls (engine : s.ao.engine = .measuring) (last : s.ao.stallCount + 1 = 500) :
    observerTick s = enterStalled { s with ao := { s.ao with stallCount := 500 } } := by
  have reaches : stallReaches s = true := stallReaches_iff.mpr ⟨engine, last⟩
  rw [observerTick, if_pos engine, if_pos reaches, last]

end

end Sys2Proof.Machine

open Sys2Proof Sys2Proof.Machine in
/-- Settles O28: the owed tick stalls the stream exactly when it is the 500th of a MEASURING one, and otherwise only
counts. -/
theorem stallTick : Obligations.StallTick := by
  intro s h due owed
  have counts (before : ¬ (s.ao.engine = .measuring ∧ s.ao.stallCount + 1 = 500)) :
      exec .stall s = .next { s with tb := owed, ao := countsStall s.ao } :=
    (stall_row h due).trans (congrArg _ (observerTick_counts (setOwed _ s)
      (Bool.eq_false_iff.mpr (mt stallReaches_iff.mp before))))
  refine ⟨fun other => ?_, fun engine before => ?_, fun engine last => ?_⟩
  · rw [counts fun both => other both.1, countsStall, if_neg other]
  · rw [counts fun both => before both.2, countsStall, if_pos engine]
  · have stalls := (observerTick_stalls (s := setOwed { s.tb.owed with ao := false } s) engine last).trans (enterStalled_eq _)
    exact (stall_row h due).trans (congrArg _ stalls)
end

section
set_option Elab.async false

namespace Sys2Proof.Machine

/-! ### A beat joins the shadow (R53) -/

/-- A merged beat, byte by byte (R53). -/
theorem byte_mergeBytes (old new : Beat) (enables : BitVec 8) {j : Nat} (hj : j < 8) :
    (mergeBytes old new enables).extractLsb' (8 * j) 8
      = if enables.getLsbD j then new.extractLsb' (8 * j) 8 else old.extractLsb' (8 * j) 8 := by
  refine BitVec.eq_of_getLsbD_eq fun i hi => ?_
  have byte : (8 * j + i) / 8 = j := by omega
  rw [BitVec.getLsbD_extractLsb', getLsbD_mergeBytes _ _ _ _ (by omega), byte]
  split <;> rw [BitVec.getLsbD_extractLsb']

/-- The descriptor shadow once a beat has joined it (R53). -/
def shadowMerged (shadow : Vector Beat 8) (offset : Nat) (b : WBeat) : Vector Beat 8 :=
  shadow.setIfInBounds (offset / 8) (mergeBytes (shadow[offset / 8]?.getD 0) b.data b.enables)

theorem shadowMerged_getElem (shadow : Vector Beat 8) (offset : Nat) (b : WBeat) {k : Nat} (hk : k < 8) :
    (shadowMerged shadow offset b)[k]
      = if k = offset / 8 then mergeBytes shadow[k] b.data b.enables else shadow[k] := by
  rw [shadowMerged, Vector.getElem_setIfInBounds]
  split
  · subst k
    rw [if_pos rfl, Vector.getElem?_eq_getElem hk, Option.getD_some]
  · rw [if_neg (Ne.symm ‹_›)]

/-- Each enabled byte replaces the shadow byte at its offset (R53). -/
theorem byte_shadowMerged (shadow : Vector Beat 8) (offset : Nat) (b : WBeat) {k j : Nat} (hk : k < 8) (hj : j < 8) :
    ((shadowMerged shadow offset b)[k]).extractLsb' (8 * j) 8
      = if k = offset / 8 ∧ b.enables.getLsbD j = true then b.data.extractLsb' (8 * j) 8
        else (shadow[k]).extractLsb' (8 * j) 8 := by
  rw [shadowMerged_getElem shadow offset b hk, ite_and]
  split
  · exact byte_mergeBytes _ _ _ hj
  · rfl

/-! ### The take (R53, R55, R56) -/

/-- The part with another descriptor shadow. -/
def shadowed (shadow : Vector Beat 8) (s : State) : State := { s with ao := { s.ao with shadow := shadow } }

/-- DESCRIPTOR_BEAT takes the beat at the head of the inbox, and a whole beat at 0x38 takes the descriptor (R53). -/
theorem descriptorBeat_head {s : State} {offset : Nat} {b : WBeat} {rest : List AudioItem} (h : ready s = true)
    (inbox : s.ao.inbox = .descriptor offset b :: rest) :
    exec .descriptorBeat s = .next (
      let u := shadowed (shadowMerged s.ao.shadow offset b) (handed rest s)
      if offset = 0x38 ∧ b.enables = 0xFF then takeDescriptor u else u) := by
  refine (running_of_ready _ h).trans (congrArg _ ?_)
  rw [takeItem, inbox]
  rfl

/-- The engine measures PCM at 48000 only (R54). -/
def engineFor (d : Descriptor) : Engine := if d.coding = .pcm ∧ d.rate = .r48000 then .measuring else .unmeasurable

theorem engineFor_eq (d : Descriptor) : (if measurable d then .measuring else .unmeasurable : Engine) = engineFor d := by
  simp only [measurable, engineFor, Bool.and_eq_true, beq_iff_eq]

/-- What a take leaves: the decoded descriptor, its engine and nothing measured, reported with the engine state before
(R55, R56, R62, R64). -/
theorem takeDescriptor_eq (s : State) : takeDescriptor s
    = (let d := decodeDescriptor s.ao.shadow
       offer (.audioState .descriptor s.ao.engine (engineFor d) (some d) (s.su.openEntry.map (·.entry.id)) s.tb.time) { s with
         ao := { s.ao with
           taken := some d, engine := engineFor d, expected := none, channel := 0
           stallCount := 0, filters := Vector.replicate 8 .clear, sub := none, history := [] }
         lu := { s.lu with momentary := none, shortTerm := none }
         ag := { s.ag with onCount := 0, offCount := 0 } }) := by
  dsimp only
  rw [← engineFor_eq]
  rfl

/-! ### The codes of a descriptor (R54) -/

theorem codingOfCode_iff (n : Nat) :
    (codingOfCode n = .pcm ↔ n = 1) ∧ (codingOfCode n = .compressed ↔ n = 2) := by
  unfold codingOfCode
  split <;> simp_all

theorem rateOfCode_iff (n : Nat) : (rateOfCode n = .r32000 ↔ n = 1) ∧ (rateOfCode n = .r44100 ↔ n = 2)
    ∧ (rateOfCode n = .r48000 ↔ n = 3) := by
  unfold rateOfCode
  split <;> simp_all

theorem roleOfCode_iff (n : Nat) : (roleOfCode n = .l ↔ n = 1) ∧ (roleOfCode n = .r ↔ n = 2) ∧ (roleOfCode n = .c ↔ n = 3)
    ∧ (roleOfCode n = .lfe ↔ n = 4) ∧ (roleOfCode n = .ls ↔ n = 5) ∧ (roleOfCode n = .rs ↔ n = 6) := by
  unfold roleOfCode
  split <;> simp_all

/-! ### What a shadow decodes to (R54) -/

section

variable (shadow : Vector Beat 8)

/-- The count byte of a descriptor (R54). -/
def countByte : Nat := (shadow[0].extractLsb' 16 8).toNat

theorem countByte_eq : byteField shadow[0] 2 1 = countByte shadow := byteField_eq _ 2 1

/-- A descriptor whose count is 1 to 8 (R54). -/
theorem decodeDescriptor_counted (counted : 1 ≤ countByte shadow ∧ countByte shadow ≤ 8) :
    (decodeDescriptor shadow).channels = countByte shadow
      ∧ (decodeDescriptor shadow).coding = codingOfCode (shadow[0].extractLsb' 0 8).toNat := by
  rw [decodeDescriptor, countByte_eq, byteField_eq]
  exact ⟨if_pos counted, if_pos counted⟩

/-- A descriptor whose count is not 1 to 8 (R54). -/
theorem decodeDescriptor_uncounted (outside : ¬ (1 ≤ countByte shadow ∧ countByte shadow ≤ 8)) :
    (decodeDescriptor shadow).channels = 0 ∧ (decodeDescriptor shadow).coding = .none := by
  rw [decodeDescriptor, countByte_eq]
  exact ⟨if_neg outside, if_neg outside⟩

theorem decodeDescriptor_rate : (decodeDescriptor shadow).rate = rateOfCode (shadow[0].extractLsb' 8 8).toNat :=
  congrArg rateOfCode (byteField_eq _ 1 1)

theorem decodeDescriptor_generation : (decodeDescriptor shadow).generation = shadow[7].extractLsb' 0 16 :=
  ofNat_byteField shadow[7] 0 2

/-- The channels of a descriptor have the roles that their codes name, and the positions past them the role OTHER (R54). -/
theorem decodeDescriptor_role {k : Nat} (hk : k < 8) : (decodeDescriptor shadow).roles[k]
    = if k < (decodeDescriptor shadow).channels then roleOfCode (shadow[1].extractLsb' (8 * k) 8).toNat else .other := by
  have role : (decodeDescriptor shadow).roles[k]
      = if k < countByte shadow ∧ 1 ≤ countByte shadow ∧ countByte shadow ≤ 8
        then roleOfCode (shadow[1].extractLsb' (8 * k) 8).toNat else .other := by
    rw [decodeDescriptor, countByte_eq, Vector.getElem_ofFn, byteField_eq]
  rw [role]
  by_cases counted : 1 ≤ countByte shadow ∧ countByte shadow ≤ 8
  · rw [(decodeDescriptor_counted shadow counted).1]
    simp only [counted, and_true]
  · rw [(decodeDescriptor_uncounted shadow counted).1, if_neg fun h => counted h.2, if_neg (Nat.not_lt_zero k)]

end

end Sys2Proof.Machine

open Sys2Proof Sys2Proof.Machine in
/-- Settles O25: the beat joins the shadow byte by byte, a whole one at 0x38 takes what the shadow then decodes to, and each
field of that is read off its code. -/
theorem descriptorTaken : Obligations.DescriptorTaken := by
  refine ⟨fun s offset b rest h inbox low => ?_, fun shadow => ?_⟩
  · refine ⟨shadowMerged s.ao.shadow offset b, fun k j hk hj => byte_shadowMerged _ _ _ hk hj, fun notTaken => ?_,
      fun place whole => ?_⟩
    · rw [descriptorBeat_head h inbox, if_neg notTaken]
      rfl
    · rw [descriptorBeat_head h inbox, if_pos ⟨place, whole⟩, takeDescriptor_eq]
      rfl
  · intro code rate count d
    obtain ⟨r32000, r44100, r48000⟩ : (d.rate = .r32000 ↔ rate = 1) ∧ (d.rate = .r44100 ↔ rate = 2)
        ∧ (d.rate = .r48000 ↔ rate = 3) := decodeDescriptor_rate shadow ▸ rateOfCode_iff rate
    refine ⟨fun counted => ?_, fun outside => decodeDescriptor_uncounted shadow (fun inside => ?_), r32000, r44100, r48000,
      decodeDescriptor_generation shadow, fun k hk => ⟨fun past => ?_, fun within => ?_⟩⟩
    · obtain ⟨channels, coding⟩ := decodeDescriptor_counted shadow counted
      exact ⟨channels, coding ▸ codingOfCode_iff code⟩
    · obtain ⟨low, high⟩ : 1 ≤ count ∧ count ≤ 8 := inside
      omega
    · rw [decodeDescriptor_role shadow hk, if_neg (Nat.not_lt.mpr past)]
    · rw [decodeDescriptor_role shadow hk, if_pos within]
      exact roleOfCode_iff _
end

section
set_option Elab.async false

namespace Sys2Proof.Machine

/-! ### A weighting stage (R66 to R68) -/

/-- The rounding is to a nearest integer, and to an even one from halfway (R67). -/
theorem roundHalfEven_nearest (n : Int) {d : Nat} (hd : 0 < d) :
    2 * (n - roundHalfEven n d * d).natAbs ≤ d ∧ (2 * (n - roundHalfEven n d * d).natAbs = d → 2 ∣ roundHalfEven n d) := by
  have rest : n - n / d * d = n % d := by rw [Int.emod_def, mul_comm]
  have next : n - (n / d + 1) * d = n % d - d := by rw [add_mul, one_mul, ← sub_sub, rest]
  have low : 0 ≤ n % d := Int.emod_nonneg n (by omega)
  have high : n % d < d := Int.emod_lt_of_pos n (by omega)
  unfold roundHalfEven
  dsimp only
  split
  · rw [rest]
    omega
  · split
    · rw [next]
      omega
    · split
      · rw [rest]
        omega
      · rw [next]
        omega

/-- A multiple of the unit is rounded to itself (R67). -/
theorem roundHalfEven_mul (n : Int) {d : Nat} (hd : 0 < d) : roundHalfEven (d * n) d = n := by
  have unit : (d : Int) ≠ 0 := by omega
  simp only [roundHalfEven, Int.mul_ediv_cancel_left n unit, Int.mul_emod_right, mul_zero]
  exact if_pos (by omega)

section

variable {c : StageCoeffs} {st : StageState} {x : Int}

theorem stageSaturates_iff : stageSaturates c st x = true ↔ stageMax < stageRounded c st x ∨ stageRounded c st x < stageMin := by
  rw [stageSaturates, Bool.or_eq_true, decide_eq_true_iff, decide_eq_true_iff]

/-- A sum that fits is the output as rounded (R67). -/
theorem stageOut_fits (low : stageMin ≤ stageRounded c st x) (high : stageRounded c st x ≤ stageMax) :
    stageOut c st x = stageRounded c st x ∧ stageSaturates c st x = false := by
  refine ⟨?_, Bool.eq_false_iff.mpr (mt stageSaturates_iff.mp ?_)⟩
  · rw [stageOut, min_eq_right high, max_eq_right low]
  · exact not_or.mpr ⟨high.not_gt, low.not_gt⟩

/-- A sum above the largest output saturates to it (R67). -/
theorem stageOut_above (above : stageMax < stageRounded c st x) :
    stageOut c st x = stageMax ∧ stageSaturates c st x = true := by
  refine ⟨?_, stageSaturates_iff.mpr (.inl above)⟩
  rw [stageOut, min_eq_left above.le]
  rfl

/-- A sum below the smallest output saturates to it (R67). -/
theorem stageOut_below (below : stageRounded c st x < stageMin) :
    stageOut c st x = stageMin ∧ stageSaturates c st x = true :=
  ⟨max_eq_left ((min_le_right _ _).trans below.le), stageSaturates_iff.mpr (.inr below)⟩

end

/-- The coefficients after line reset round an input to itself (R68). -/
theorem stageRounded_passThrough (st : StageState) (x : Int) : stageRounded .passThrough st x = x := by
  have unit : (0x40000000#32).toInt = ((2 ^ 30 : Nat) : Int) := by decide
  have sum : stageSum .passThrough st x = ((2 ^ 30 : Nat) : Int) * x := by
    simp only [stageSum, StageCoeffs.passThrough, BitVec.ofNat_eq_ofNat, unit, BitVec.toInt_zero, zero_mul, add_zero, sub_zero]
  rw [stageRounded, sum, roundHalfEven_mul x (Nat.two_pow_pos 30)]

end Sys2Proof.Machine

open Sys2Proof Sys2Proof.Machine in
/-- Settles O30: the rounded sum is the nearest count, which fits or is cut off at either end, and the coefficients after line
reset give back a sample, which always fits. -/
theorem weightingStage : Obligations.WeightingStage := by
  refine ⟨fun c st x => ?_, fun s c v _ => rfl, fun st v low high => ?_⟩
  · obtain ⟨nearest, even⟩ := roundHalfEven_nearest (stageSum c st x) (Nat.two_pow_pos 30)
    exact ⟨stageRounded c st x, nearest, even, stageOut_fits, stageOut_above, stageOut_below, rfl⟩
  · have same := stageRounded_passThrough st (v * 2 ^ 8)
    have fits := stageOut_fits (c := .passThrough) (st := st) (x := v * 2 ^ 8)
    rw [same, stageMin, stageMax] at fits
    exact (fits (by omega) (by omega)).1
end

section
set_option Elab.async false

namespace Sys2Proof.Machine

/-! ### The search for the greatest number (R73) -/

/-- The search stops at the last number that passes, within the numbers it can reach. -/
theorem greatest_eq {p : Nat → Bool} {last : Int} (passes : ∀ n, p n = true ↔ (n : Int) ≤ last) (bits acc : Nat) :
    (greatest p bits acc : Int) = max (acc : Int) (min last (acc + 2 ^ bits - 1)) := by
  induction bits generalizing acc with
  | zero => rw [greatest]; omega
  | succ bits ih =>
    have double : (2 : Int) ^ (bits + 1) = 2 * 2 ^ bits := pow_succ' 2 bits
    have positive : (0 : Int) < 2 ^ bits := by positivity
    have reached := passes (acc + 2 ^ bits)
    push_cast at reached
    rw [greatest, ih]
    split
    · have within := reached.mp ‹_›
      push_cast
      omega
    · have beyond := mt reached.mpr ‹_›
      omega

/-! ### Levels as roundings of logarithms (R73, R75) -/

section

variable {p q : Nat}

/-- The comparison of integer powers compares 10^e with (p/q)^k. -/
theorem powAtMost_iff_zpow_le (k : Nat) (hq : 0 < q) (e : Int) :
    powAtMost k p q e = true ↔ (10 : ℝ) ^ e ≤ ((p : ℝ) / q) ^ k := by
  have denominator : (0 : ℝ) < (q : ℝ) ^ k := by positivity
  rw [powAtMost, div_pow, le_div_iff₀ denominator]
  split
  case isTrue up =>
    obtain ⟨n, rfl⟩ := Int.eq_ofNat_of_zero_le up
    rw [Int.toNat_natCast, zpow_natCast, decide_eq_true_iff]
    exact_mod_cast Iff.rfl
  case isFalse down =>
    obtain ⟨n, rfl⟩ := Int.exists_eq_neg_ofNat (Int.not_le.mp down).le
    rw [neg_neg, Int.toNat_natCast, zpow_neg, zpow_natCast, decide_eq_true_iff, inv_mul_le_iff₀ (by positivity), mul_comm]
    exact_mod_cast Iff.rfl

/-- The comparison of integer powers compares e with k·log10(p/q). -/
theorem powAtMost_iff (k : Nat) (hp : 0 < p) (hq : 0 < q) (e : Int) :
    powAtMost k p q e = true ↔ (e : ℝ) ≤ k * Real.logb 10 (p / q) := by
  have mean : (0 : ℝ) < (p : ℝ) / q := by positivity
  rw [powAtMost_iff_zpow_le k hq, ← Real.logb_pow, Real.le_logb_iff_rpow_le (by norm_num) (pow_pos mean k),
    Real.rpow_intCast]

/-- The level rounding is the nearest tenth to c + h·log10(p/q), halves upward, kept within −999 and `top` (R73). -/
theorem roundedLog_eq (h : Nat) (hp : 0 < p) (hq : 0 < q) (c : Int) {top : Int} (low : -999 ≤ top) (high : top ≤ 1048) :
    roundedLog (2 * h) p q c top = max (-999) (min top ⌊(c : ℝ) + h * Real.logb 10 (p / q) + 1 / 2⌋) := by
  have reached (n : Nat) : powAtMost (2 * h) p q (2 * ((n : Int) - 999) - 2 * c - 1) = true
      ↔ (n : Int) ≤ ⌊(c : ℝ) + h * Real.logb 10 (p / q) + 1 / 2⌋ + 999 := by
    rw [powAtMost_iff _ hp hq, ← sub_le_iff_le_add, Int.le_floor]
    push_cast
    constructor <;> intro _ <;> linarith
  rw [roundedLog, greatest_eq reached]
  omega

/-- The level of a mean above 0 (R73). -/
theorem levelOf_eq (hp : 0 < p) (hq : 0 < q) (c : Int) :
    levelOf p q c = max (-999) (min 200 ⌊(c : ℝ) + 100 * Real.logb 10 (p / q) + 1 / 2⌋) :=
  (if_neg hp.ne').trans (roundedLog_eq 100 hp hq c (by decide) (by decide))

/-- The sample peak of a magnitude above 0 (R75). -/
theorem peakOf_eq {m : Nat} (hm : 0 < m) :
    peakOf m = max (-999) (min 0 ⌊200 * Real.logb 10 ((m : ℝ) / 2 ^ 23) + 1 / 2⌋) := by
  have rounded := roundedLog_eq 200 hm (Nat.two_pow_pos 23) 0 (top := 0) (by decide) (by decide)
  rw [Int.cast_zero, zero_add, Nat.cast_pow, Nat.cast_ofNat, Nat.cast_ofNat] at rounded
  exact (if_neg hm.ne').trans rounded

/-- A magnitude up to full scale has no tenth above 0 (R75). -/
theorem peakTenth_nonpos {m : Nat} (full : m ≤ 8388608) : ⌊200 * Real.logb 10 ((m : ℝ) / 2 ^ 23) + 1 / 2⌋ ≤ 0 := by
  have ratio : (m : ℝ) / 2 ^ 23 ≤ 1 := by
    rw [div_le_one (by positivity)]
    exact_mod_cast full
  have nonpos : Real.logb 10 ((m : ℝ) / 2 ^ 23) ≤ 0 := Real.logb_nonpos (by norm_num) (by positivity) ratio
  refine Int.lt_add_one_iff.mp (Int.floor_lt.mpr ?_)
  push_cast
  linarith

end

end Sys2Proof.Machine

open Sys2Proof Sys2Proof.Machine in
/-- Settles O31: tenth t is reached exactly when 10^(2t − 2C − 1) is at most the power of the ratio, that is when t is at
most the exact value and a half, so the search ends at its floor. -/
theorem levelAndPeakRounding : Obligations.LevelAndPeakRounding := by
  refine ⟨fun p q c hq => ⟨fun zero => if_pos zero, fun hp => levelOf_eq hp hq c⟩,
    fun m full => ⟨fun zero => if_pos zero, fun hm => ?_⟩⟩
  rw [peakOf_eq hm, min_eq_right (peakTenth_nonpos full)]
  exact ⟨rfl, max_le (by decide) (peakTenth_nonpos full)⟩
end

section
set_option Elab.async false

namespace Sys2Proof.Machine

/-! ### The short-term ceiling (R80, R81) -/

section

variable {s : State} {e : OpenEntry} {level : Int}

/-- An open entry that has counted one more exceedance (R80). -/
def overCounted (e : OpenEntry) : OpenEntry := { e with overCount := satAdd e.overCount 1, overMark := true }

/-- The part once its open entry has counted an exceedance. -/
def ceilingCounted (e : OpenEntry) (s : State) : State := { s with su := { s.su with openEntry := some (overCounted e) } }

/-- Without a margin, or up to the ceiling, nothing is counted (R80). -/
theorem checkCeiling_within (open_ : s.su.openEntry = some e)
    (within : e.entry.margin = 0 ∨ level ≤ e.entry.target + e.entry.margin) : checkCeiling level s = s := by
  have notOver : ¬ (0 < e.entry.margin ∧ e.entry.target + e.entry.margin < level) := by omega
  simp only [checkCeiling, open_, if_neg notOver]

/-- An exceedance is counted, and the first of an entry is reported and asks for a hold (R80, R81). -/
theorem checkCeiling_over (open_ : s.su.openEntry = some e) (margin : 0 < e.entry.margin)
    (above : e.entry.target + e.entry.margin < level) : checkCeiling level s
      = if e.overMark then ceilingCounted e s
        else askHold e .shortTerm (s.tb.time - 3000)
          (offer (.shortTermOver e.entry.id level (e.entry.target + e.entry.margin) s.tb.time) (ceilingCounted e s)) := by
  have counts : modifyOpen (fun e => { e with overCount := satAdd e.overCount 1, overMark := true }) s = ceilingCounted e s :=
    modifyOpen_some open_
  simp only [checkCeiling, open_, if_pos (And.intro margin above), counts]
  rfl

end

end Sys2Proof.Machine

open Sys2Proof Sys2Proof.Machine in
/-- Settles O32: up to the ceiling nothing happens, and above it the over mark decides between counting alone and the report
with its hold. -/
theorem ceilingExceeded : Obligations.CeilingExceeded := by
  intro s e level open_ ceiling count counted reported
  have counts : ceilingCounted e s = counted := by
    rw [ceilingCounted, overCounted, satAdd_succ (by decide)]
  refine ⟨checkCeiling_within open_, fun margin above marked => ?_, fun margin above unmarked => ?_⟩
  · rw [checkCeiling_over open_ margin above, if_pos marked, counts]
  · rw [checkCeiling_over open_ margin above, unmarked, counts]
    rfl
end

section
set_option Elab.async false

namespace Sys2Proof.Machine

/-! ### The maximum sample peak of a verdict (R76) -/

section

variable (e : OpenEntry)

/-- The largest magnitude is the maximum of the eight. -/
theorem largestPeak_isMax : largestPeak e ∈ e.peaks.toList ∧ ∀ m ∈ e.peaks.toList, m ≤ largestPeak e := by
  have nonempty : e.peaks.toList ≠ [] := List.ne_nil_of_length_pos (by simp)
  have largest : e.peaks.toList.max? = some (largestPeak e) := by
    rw [largestPeak, List.foldl_max_eq_max nonempty, Nat.zero_max, List.max?_eq_some_max nonempty]
  exact List.max?_eq_some_iff.mp largest

variable {e}

/-- The verdict of an entry with a completed sub-block names the lowest channel that holds the largest magnitude (R76). -/
theorem verdictPeak_lowest (completed : e.subBlocks ≠ 0) : ∃ (c : Nat) (hc : c < 8),
    verdictPeakChannel e = c ∧ verdictPeak e = some (peakOf e.peaks[c]) ∧ (∀ (k : Nat) (hk : k < 8), e.peaks[k] ≤ e.peaks[c])
      ∧ ∀ (k : Nat) (hk : k < c), e.peaks[k] < e.peaks[c] := by
  obtain ⟨held, largest⟩ := largestPeak_isMax e
  have atMost (k : Nat) (hk : k < 8) : e.peaks[k] ≤ largestPeak e := largest _ (by simp)
  have found : e.peaks.toList.findIdx (· == largestPeak e) < e.peaks.toList.length :=
    List.findIdx_lt_length_of_exists ⟨_, held, beq_self_eq_true _⟩
  have hc : e.peaks.toList.findIdx (· == largestPeak e) < 8 := by rwa [Vector.length_toList] at found
  have holds : e.peaks[e.peaks.toList.findIdx (· == largestPeak e)] = largestPeak e := by
    simpa using List.findIdx_getElem (w := found)
  refine ⟨_, hc, if_neg completed, ?_, fun k hk => ?_, fun k hk => ?_⟩
  · rw [verdictPeak, if_neg completed, holds]
  · rw [holds]
    exact atMost k hk
  · have other := List.not_of_lt_findIdx hk
    rw [holds]
    refine lt_of_le_of_ne (atMost k (hk.trans hc)) ?_
    simpa using other

/-! ### The short-term and dead-air outcomes (R133) -/

/-- A count of at least 1 is one that is not 0. -/
theorem one_le_count_iff (n : BitVec 16) : 1 ≤ n ↔ n ≠ 0 := by bv_omega

theorem shortTermOutcome_eq (e : OpenEntry) : shortTermOutcome e
    = if e.entry.margin = 0 ∨ e.maxShortTerm = none then .notChecked else if 1 ≤ e.overCount then .fail else .pass := by
  simp only [one_le_count_iff]
  rfl

theorem deadAirOutcome_eq (e : OpenEntry) : deadAirOutcome e
    = if e.entry.deadAirLimit = 0 then .notChecked else if 1 ≤ e.deadAirCount then .fail else .pass := by
  simp only [one_le_count_iff]
  rfl

end

/-! ### The LOUDNESS hold and the verdict (R130, R131, R133) -/

section

variable {c : ClosedEntry} {integrated : Option Int} {s : State}

theorem asksLoudnessHold_iff : asksLoudnessHold c integrated s = true
    ↔ (loudnessOutcome c integrated = .failHigh ∨ loudnessOutcome c integrated = .failLow)
      ∧ policyHolds s c.record.entry.cls .loudness = true ∧ c.record.replay = false := by
  rw [asksLoudnessHold, Bool.and_eq_true, Bool.and_eq_true, Bool.or_eq_true, beq_iff_eq, beq_iff_eq, Bool.not_eq_true',
    and_assoc]

/-- A closed record whose evidence mark takes in what the recorder found (R130). -/
def evidenceMarked (missing : Bool) (c : ClosedEntry) : ClosedEntry :=
  { c with record := { c.record with evidenceIncomplete := c.record.evidenceIncomplete || missing } }

theorem evidenceMarked_eq (missing : Bool) (c : ClosedEntry) : evidenceMarked missing c
    = if missing then { c with record := { c.record with evidenceIncomplete := true } } else c := by
  cases missing with
  | false => rw [evidenceMarked, Bool.or_false]; rfl
  | true => rw [evidenceMarked, Bool.or_true]; rfl

/-- The verdict is offered after its hold request, with the mark of the recorder's answer (R130, R133). -/
theorem buildVerdict_asks (ungated : Option Int) (asks : asksLoudnessHold c integrated s = true) :
    buildVerdict c ungated integrated s
      = offer (.verdict (verdictOf (evidenceMarked (requestIncomplete (loudnessHold c) s) c) ungated integrated))
        (holdRequest (loudnessHold c) s) := by
  rw [buildVerdict, if_pos asks, evidenceMarked_eq]

/-- A verdict that asks for no hold is offered alone (R131). -/
theorem buildVerdict_offers (ungated : Option Int) (silent : ¬ asksLoudnessHold c integrated s = true) :
    buildVerdict c ungated integrated s = offer (.verdict (verdictOf c ungated integrated)) s :=
  if_neg silent

end

/-! ### VERDICT_FAIL (R133, R158) -/

/-- A flag is set in the flags that hold it. -/
theorem flagSet_setFlag_self (f : Flag) (ru : Reports) : flagSet (setFlag f ru) f = true := by
  cases f <;> simp [flagSet, Flag.set, Flag.code]

theorem verdictFails_iff (v : Verdict) : verdictFails v = true
    ↔ v.loudness = .failHigh ∨ v.loudness = .failLow ∨ v.shortTerm = .fail ∨ v.caption = .fail ∨ v.deadAir = .fail := by
  simp only [verdictFails, Bool.or_eq_true, beq_iff_eq, or_assoc]

/-- The offer of a verdict sets VERDICT_FAIL when one of its outcomes is a failure, and leaves it otherwise (R133, R158). -/
theorem verdictFail_noteOffer (v : Verdict) (ru : Reports) :
    flagSet (noteOffer (.verdict v) ru) .verdictFail = (flagSet ru .verdictFail || verdictFails v) := by
  cases fails : verdictFails v with
  | true =>
    rw [Bool.or_true, noteOffer, reportFlag, if_pos fails]
    exact flagSet_setFlag_self .verdictFail ru
  | false =>
    rw [Bool.or_false, noteOffer, reportFlag, if_neg (Bool.eq_false_iff.mp fails)]
    rfl

end Sys2Proof.Machine

open Sys2Proof Sys2Proof.Machine in
/-- Settles O45: the fields are those of the closed record, and the verdict is offered after its hold request, which changes
no more than the evidence mark. -/
theorem verdictBuilt : Obligations.VerdictBuilt := by
  intro s c ungated integrated v e asks hold marked v'
  refine ⟨rfl, rfl, rfl, shortTermOutcome_eq e, deadAirOutcome_eq e, fun uncompleted => ⟨if_pos uncompleted, if_pos uncompleted⟩,
    verdictPeak_lowest, fun silent => ?_, fun asking => ?_, fun ru => ?_⟩
  · exact buildVerdict_offers ungated (mt asksLoudnessHold_iff.mp silent)
  · exact buildVerdict_asks ungated (asksLoudnessHold_iff.mpr asking)
  · rw [verdictFail_noteOffer, Bool.or_eq_true, verdictFails_iff]
end

section
set_option Elab.async false

namespace Sys2Proof.Machine

/-! ### The activity decision (R83, R88) -/

section

variable {s : State} {l : Int}

/-- The part once a dead-air episode that is running is reported as ended (R88, log 30). -/
def deadAirEnded (s : State) : State :=
  match s.su.openEntry with
  | some e =>
    if 0 < e.entry.deadAirLimit ∧ e.entry.deadAirLimit ≤ s.ag.deadTimer then
      offer (.deadAirEnd e.entry.id (s.ag.quietStart.getD s.tb.time) s.ag.deadTimer s.tb.time) s
    else s
  | none => s

theorem deadAirRunning_iff (e : OpenEntry) (ag : Activity) : deadAirRunning e ag = true
    ↔ 0 < e.entry.deadAirLimit ∧ e.entry.deadAirLimit ≤ ag.deadTimer := by
  rw [deadAirRunning, Bool.and_eq_true, decide_eq_true_iff, decide_eq_true_iff]

/-- Activity becomes ACTIVE with both counts, the quiet start and the dead-air timer cleared (R83, R88). -/
theorem becomeActive_eq (s : State) : becomeActive s = { deadAirEnded s with ag := { s.ag with
    onCount := 0, offCount := 0, active := true, quietStart := none, deadTimer := 0 } } := by
  cases open_ : s.su.openEntry with
  | none =>
    simp only [becomeActive, deadAirEnded, open_]
    rfl
  | some e =>
    simp only [becomeActive, deadAirEnded, open_, deadAirRunning_iff]
    split <;> rfl

/-- A level at or above T_on lengthens the run of loud levels, and the Q_on-th makes ACTIVE (R83). -/
theorem decideActivity_loud (loud : s.ag.tOn ≤ l) : decideActivity (some l) s
    = if s.ag.active then { s with ag := { s.ag with offCount := 0 } }
      else if s.ag.onCount + 1 < s.ag.qOn then { s with ag := { s.ag with onCount := s.ag.onCount + 1, offCount := 0 } }
      else becomeActive s :=
  if_pos loud

/-- A level between the thresholds cancels both runs (R83). -/
theorem decideActivity_between (low : s.ag.tOff ≤ l) (high : l < s.ag.tOn) :
    decideActivity (some l) s = { s with ag := { s.ag with onCount := 0, offCount := 0 } } :=
  (if_neg (not_le.mpr high)).trans (if_pos low)

/-- A level below T_off lengthens the run of quiet levels, and the Q_off-th makes QUIET (R83). -/
theorem decideActivity_quiet (quiet : l < s.ag.tOff) (below : l < s.ag.tOn) : decideActivity (some l) s
    = if s.ag.active then
        if s.ag.offCount + 1 < s.ag.qOff then { s with ag := { s.ag with onCount := 0, offCount := s.ag.offCount + 1 } }
        else becomeQuiet s
      else { s with ag := { s.ag with onCount := 0 } } :=
  (if_neg (not_le.mpr below)).trans (if_neg (not_le.mpr quiet))

end

end Sys2Proof.Machine

open Sys2Proof Sys2Proof.Machine in
/-- Settles O33: the level's place among the two thresholds, activity, and whether the run is complete pick the clause. -/
theorem activityDecided : Obligations.ActivityDecided := by
  intro s level counts ended
  refine ⟨fun absent => absent ▸ rfl, fun l present => present ▸ ⟨decideActivity_between, fun loud active => ?_,
    fun loud quiet before => ?_, fun loud quiet last => ?_, fun low below quiet => ?_, fun low below active before => ?_,
    fun low below active last => ?_⟩⟩
  · rw [decideActivity_loud loud, if_pos active]
  · rw [decideActivity_loud loud, quiet, if_neg Bool.false_ne_true, if_pos before]
  · rw [decideActivity_loud loud, quiet, if_neg Bool.false_ne_true, if_neg (not_lt.mpr last), becomeActive_eq]
    rfl
  · rw [decideActivity_quiet low below, quiet, if_neg Bool.false_ne_true]
  · rw [decideActivity_quiet low below, if_pos active, if_pos before]
  · rw [decideActivity_quiet low below, if_pos active, if_neg (not_lt.mpr last)]
    rfl
end

section
set_option Elab.async false

namespace Sys2Proof.Machine

/-! ### The dead-air timer and its episode (R86, R87) -/

section

variable {s : State} {e : OpenEntry}

/-- DEAD_AIR takes the tick that the activity and gating unit is owed (R86). -/
theorem deadAir_row (h : ready s = true) (owed : s.tb.owed.ag = true) :
    exec .deadAir s = .next (activityTick (setOwed { s.tb.owed with ag := false } s)) :=
  (running_of_ready _ h).trans (congrArg _ (if_pos owed))

/-- The dead-air timer of an entry whose dead air is timed (R86). -/
theorem countsQuiet_timed (open_ : s.su.openEntry = some e) (timed : quietIn s e) :
    countsQuiet s = { s.ag with deadTimer := capInc Config.timerCap s.ag.deadTimer } :=
  if_pos (deadAirCounts_iff.mpr ⟨e, open_, timed⟩)

/-- The dead-air timer stands still while no open entry's dead air is timed (R86). -/
theorem countsQuiet_untimed (untimed : ∀ e, s.su.openEntry = some e → ¬ quietIn s e) : countsQuiet s = s.ag :=
  if_neg fun counts =>
    have ⟨e, open_, timed⟩ := deadAirCounts_iff.mp counts
    untimed e open_ timed

/-- A tick that does not bring the timer to the limit of an entry whose dead air is timed begins no episode (R87). -/
theorem deadAirReaches_false
    (before : ∀ e, s.su.openEntry = some e → quietIn s e → capInc Config.timerCap s.ag.deadTimer ≠ e.entry.deadAirLimit) :
    deadAirReaches s = false := by
  refine Bool.eq_false_iff.mpr (mt deadAirReaches_iff.mp ?_)
  rintro ⟨e, open_, timed, reached⟩
  exact before e open_ timed reached

/-- An open entry that has counted one more dead-air episode (R87). -/
def deadAirCounted (e : OpenEntry) : OpenEntry := { e with deadAirCount := satAdd e.deadAirCount 1 }

/-- An episode is counted and reported, and the hold is asked for from the quiet start on (R87). -/
theorem beginDeadAir_eq {quiet : Time} (open_ : s.su.openEntry = some e) (started : s.ag.quietStart = some quiet) :
    beginDeadAir s = askHold e .deadAir quiet (offer (.deadAir e.entry.id quiet e.entry.deadAirLimit s.tb.time)
      { s with su := { s.su with openEntry := some (deadAirCounted e) } }) := by
  have since_ : quietStartOf s = quiet := by rw [quietStartOf, started, Option.getD_some]
  have counted : modifyOpen (fun e => { e with deadAirCount := satAdd e.deadAirCount 1 }) s
      = { s with su := { s.su with openEntry := some (deadAirCounted e) } } := modifyOpen_some open_
  rw [← since_, ← counted, beginDeadAir, open_]
  rfl

/-- The tick that brings the timer to the limit begins an episode (R86, R87). -/
theorem activityTick_begins {quiet : Time} (open_ : s.su.openEntry = some e) (timed : quietIn s e)
    (started : s.ag.quietStart = some quiet) (last : capInc Config.timerCap s.ag.deadTimer = e.entry.deadAirLimit) :
    activityTick s = askHold e .deadAir quiet (offer (.deadAir e.entry.id quiet e.entry.deadAirLimit s.tb.time) { s with
      ag := { s.ag with deadTimer := capInc Config.timerCap s.ag.deadTimer }
      su := { s.su with openEntry := some (deadAirCounted e) } }) := by
  rw [activityTick, if_pos (deadAirCounts_iff.mpr ⟨e, open_, timed⟩)]
  refine (if_pos (deadAirReaches_iff.mpr ⟨e, open_, timed, last⟩)).trans ?_
  exact beginDeadAir_eq (s := { s with ag := { s.ag with deadTimer := capInc Config.timerCap s.ag.deadTimer } }) open_
    started

end

end Sys2Proof.Machine

open Sys2Proof Sys2Proof.Machine in
/-- Settles O34: the owed tick only counts, if at all, unless it brings the timer to the limit. -/
theorem deadAirTick : Obligations.DeadAirTick := by
  intro s h due owed counts
  let u : State := setOwed { s.tb.owed with ag := false } s
  have only_counts (before : ∀ e, s.su.openEntry = some e → counts e →
      capInc Config.timerCap s.ag.deadTimer ≠ e.entry.deadAirLimit) :
      exec .deadAir s = .next { s with tb := owed, ag := countsQuiet u } :=
    (deadAir_row h due).trans (congrArg _ (activityTick_counts u (deadAirReaches_false before)))
  refine ⟨fun untimed => ?_, fun e open_ timed => ?_⟩
  · rw [only_counts fun e open_ timed => absurd timed (untimed e open_), countsQuiet_untimed (s := u) untimed]
    rfl
  · have ticked : countsQuiet u = { s.ag with deadTimer := capInc Config.timerCap s.ag.deadTimer } :=
      countsQuiet_timed (s := u) open_ timed
    have only_ticks (before : capInc Config.timerCap s.ag.deadTimer ≠ e.entry.deadAirLimit) : exec .deadAir s
        = .next { s with tb := owed, ag := { s.ag with deadTimer := capInc Config.timerCap s.ag.deadTimer } } := by
      rw [only_counts fun e' other _ => Option.some.inj (open_.symm.trans other) ▸ before, ticked]
    have counted (room : s.ag.deadTimer < 2147483647) :
        capInc Config.timerCap s.ag.deadTimer = s.ag.deadTimer + 1 := if_pos room
    refine ⟨fun full limit => ?_, fun room before => ?_, fun quiet started last room => ?_⟩
    · have stays : capInc Config.timerCap s.ag.deadTimer = s.ag.deadTimer := if_neg (by rw [full]; decide)
      rw [stays, full] at only_ticks
      rw [only_ticks limit.ne', ← full]
    · rw [counted room] at only_ticks
      exact only_ticks before
    · intro count reported
      have entry : deadAirCounted e = { e with deadAirCount := count } := by
        rw [deadAirCounted, satAdd_succ (by decide)]
      have begins := activityTick_begins (s := u) open_ timed started ((counted room).trans last)
      have ticks : capInc Config.timerCap u.ag.deadTimer = s.ag.deadTimer + 1 := counted room
      rw [deadAir_row h due, begins, entry, ticks]
      rfl
end

section
set_option Elab.async false

namespace Sys2Proof.Machine

/-! ### The gating of a block (R89, R92, R93) -/

section

variable {s : State} {e : OpenEntry} {l : Int}

/-- The bin of a level that passes the absolute gate, the last bin taking the levels above it (R89). -/
theorem binOf_gated (gate : -699 ≤ l) : binOf l = if l ≤ 100 then (l + 699).toNat else 799 := by
  unfold binOf
  split <;> omega

/-- A block with no level, one that is not attributed and one below the absolute gate count nowhere (R89). -/
theorem gateBlock_skips {level : Option Int} {attributed : Bool}
    (skip : level = none ∨ attributed = false ∨ ∃ l, level = some l ∧ l < -699) : gateBlock level attributed s = s := by
  unfold gateBlock
  split
  · refine if_neg fun counts => ?_
    simp only [Bool.and_eq_true, passesGate, decide_eq_true_iff] at counts
    obtain ⟨attributed, gate⟩ := counts
    obtain absent | unattributed | ⟨l, is, low⟩ := skip
    · cases absent
    · exact Bool.false_ne_true (unattributed.symm.trans attributed)
    · cases is
      omega
  · rfl

/-- A gated block is counted where its bin of the open entry's bank has room (R89, R92). -/
theorem gateBlock_counts {bank : Bank} (open_ : s.su.openEntry = some e) (gate : -699 ≤ l) (banked : e.bank = some bank)
    (room : binCount (bankOf s.ag bank).counts (binOf l) < Config.binCap) :
    gateBlock (some l) true s = { s with ag := countBlock bank (binOf l) s.ag } := by
  have passes : (true && passesGate l) = true := decide_eq_true gate
  simp only [gateBlock, open_, if_pos passes, banked, if_pos room]

/-- A gated block is missed where the open entry has no bank or its bin is full (R93). -/
theorem gateBlock_misses (open_ : s.su.openEntry = some e) (gate : -699 ≤ l)
    (full : ∀ bank, e.bank = some bank → Config.binCap ≤ binCount (bankOf s.ag bank).counts (binOf l)) :
    gateBlock (some l) true s = { s with su := { s.su with openEntry := some (missBlock e) } } := by
  have passes : (true && passesGate l) = true := decide_eq_true gate
  rw [← modifyOpen_some open_]
  cases banked : e.bank with
  | none => simp only [gateBlock, open_, if_pos passes, banked]
  | some bank => simp only [gateBlock, open_, if_pos passes, banked, if_neg (not_lt.mpr (full bank banked))]

/-- A counted block goes into one bank and into the running sums (R89, R92). -/
theorem countBlock_eq (bank : Bank) (bin : Nat) (ag : Activity) : countBlock bank bin ag
    = { setBank bank (bankOf (countBlock bank bin ag) bank) ag with
        sumN := ag.sumN + 1, sumS := (countBlock bank bin ag).sumS } := by
  cases bank <;> rfl

theorem bankOf_countBlock (bank : Bank) (bin : Nat) (ag : Activity) : bankOf (countBlock bank bin ag) bank
    = { bankOf ag bank with counts := binAdd (bankOf ag bank).counts bin } := by
  cases bank <;> rfl

theorem countBlock_sumS (bank : Bank) (bin : Nat) (ag : Activity) : (countBlock bank bin ag).sumS = binAdd ag.sumS bin := by
  cases bank <;> rfl

end

end Sys2Proof.Machine

open Sys2Proof Sys2Proof.Machine in
/-- Settles O35: a gated block is counted where its bin has room and missed otherwise. -/
theorem blockGated : Obligations.BlockGated := by
  intro s e level attributed open_ canonical sums count missed
  have missed_eq : { s with su := { s.su with openEntry := some (missBlock e) } } = missed := by
    rw [missBlock, satAdd_succ (by decide)]
  refine ⟨gateBlock_skips, ?_⟩
  rintro l rfl rfl gate bin
  have misses := gateBlock_misses (s := s) open_ gate
  have counts {bank : Bank} := gateBlock_counts (s := s) (bank := bank) open_ gate
  rw [missed_eq, binOf_gated gate] at misses
  rw [binOf_gated gate] at counts
  refine ⟨fun unbanked => misses ?_, fun bank banked => ⟨fun full => misses ?_, fun room => ?_⟩⟩
  · rw [unbanked]
    exact fun _ other => nomatch other
  · rw [banked]
    rintro _ ⟨⟩
    exact full
  · refine ⟨_, counts banked room, countBlock_eq .., ?_, fun b => ⟨?_, ?_⟩⟩
    · rw [bankOf_countBlock]
    · rw [bankOf_countBlock, binCount_binAdd (canonical bank)]
    · rw [countBlock_sumS, binCount_binAdd sums]
end

section
set_option Elab.async false

namespace Sys2Proof.Machine

/-! ### Powers of ten at a precision of p bits (R92, log 27) -/

/-- 10^(e/200), the energy at e halves of a tenth above the first bin's level. -/
noncomputable def halfTenths (e : Nat) : ℝ := (10 : ℝ) ^ ((e : ℝ) / 200)

theorem halfTenths_pos (e : Nat) : 0 < halfTenths e := Real.rpow_pos_of_pos (by norm_num) _

theorem halfTenths_mono {e f : Nat} (le : e ≤ f) : halfTenths e ≤ halfTenths f :=
  Real.rpow_le_rpow_of_exponent_le (by norm_num) (by gcongr)

theorem halfTenths_zero : halfTenths 0 = 1 := by rw [halfTenths, Nat.cast_zero, zero_div, Real.rpow_zero]

theorem halfTenths_pow (e : Nat) : halfTenths e ^ 200 = 10 ^ e := by
  rw [halfTenths, ← Real.rpow_mul_natCast (by norm_num), Nat.cast_ofNat, div_mul_cancel₀ _ (by norm_num), Real.rpow_natCast]

/-- The search for a root has bits enough: 10 is below 2^4. -/
theorem halfTenths_lt (e : Nat) : halfTenths e < 2 ^ (e / 50 + 1) := by
  refine lt_of_pow_lt_pow_left₀ 200 (by positivity) ?_
  calc halfTenths e ^ 200 = 10 ^ e := halfTenths_pow e
    _ ≤ (2 ^ 4) ^ e := by gcongr; norm_num
    _ = 2 ^ (4 * e) := (pow_mul ..).symm
    _ < 2 ^ ((e / 50 + 1) * 200) := pow_lt_pow_right₀ (by norm_num) (by omega)
    _ = (2 ^ (e / 50 + 1)) ^ 200 := pow_mul ..

/-- The search for a root finds the power of ten in units of 2^−p, rounded downward. -/
theorem tenPower_eq (p e : Nat) : tenPower p e = ⌊halfTenths e * 2 ^ p⌋₊ := by
  have nonneg : 0 ≤ halfTenths e * 2 ^ p := by have := halfTenths_pos e; positivity
  have passes (n : Nat) : decide (n ^ 200 ≤ 10 ^ e * 2 ^ (200 * p)) = true
      ↔ (n : Int) ≤ (⌊halfTenths e * 2 ^ p⌋₊ : Int) := by
    rw [decide_eq_true_iff, Nat.cast_le, Nat.le_floor_iff nonneg,
      ← pow_le_pow_iff_left₀ (by positivity) nonneg (n := 200) (by norm_num), mul_pow, halfTenths_pow, ← pow_mul, mul_comm p,
      ← Nat.cast_le (α := ℝ)]
    push_cast
    rfl
  have bound : ⌊halfTenths e * 2 ^ p⌋₊ < 2 ^ (p + e / 50 + 1) := by
    rw [Nat.floor_lt nonneg]
    push_cast
    rw [add_assoc, pow_add, mul_comm]
    gcongr
    exact halfTenths_lt e
  have reach : (⌊halfTenths e * 2 ^ p⌋₊ : Int) ≤ (0 : Nat) + 2 ^ (p + e / 50 + 1) - 1 := by
    have := Int.ofNat_lt.mpr bound
    push_cast at this ⊢
    omega
  have found := greatest_eq passes (p + e / 50 + 1) 0
  rw [min_eq_left reach, max_eq_right (by positivity)] at found
  exact Int.ofNat_inj.mp found

theorem tenPower_le (p e : Nat) : (tenPower p e : ℝ) ≤ halfTenths e * 2 ^ p := by
  have := halfTenths_pos e
  exact tenPower_eq p e ▸ Nat.floor_le (by positivity)

theorem lt_tenPower_succ (p e : Nat) : halfTenths e * 2 ^ p < tenPower p e + 1 :=
  tenPower_eq p e ▸ Nat.lt_floor_add_one _

/-! ### The energy sum of a histogram (R92) -/

/-- The energies of the counted blocks, 10^(b/100) for a block of bin b, summed. -/
noncomputable def energySum (h : Histogram) : ℝ := (h.map fun x => (x.2 : ℝ) * halfTenths (2 * x.1)).sum

theorem energySum_cons (x : Nat × Nat) (h : Histogram) :
    energySum (x :: h) = x.2 * halfTenths (2 * x.1) + energySum h := List.sum_cons

theorem binTotal_cons (x : Nat × Nat) (h : Histogram) : binTotal (x :: h) = x.2 + binTotal h := List.sum_cons

theorem sumBelow_cons (p : Nat) (x : Nat × Nat) (h : Histogram) :
    sumBelow p (x :: h) = x.2 * tenPower p (2 * x.1) + sumBelow p h := List.sum_cons

/-- The energies of blocks of levels in a range sum to a mean in that range. -/
theorem energySum_le {h : Histogram} {e : Nat} (le : ∀ x ∈ h, 2 * x.1 ≤ e) : energySum h ≤ binTotal h * halfTenths e := by
  induction h with
  | nil => simp [energySum, binTotal]
  | cons x h ih =>
    have rest := ih fun y hy => le y (List.mem_cons_of_mem x hy)
    have first := mul_le_mul_of_nonneg_left (halfTenths_mono (le x List.mem_cons_self)) (Nat.cast_nonneg (α := ℝ) x.2)
    rw [energySum_cons, binTotal_cons]
    push_cast
    linarith

theorem total_le_energySum (h : Histogram) : (binTotal h : ℝ) ≤ energySum h := by
  induction h with
  | nil => simp [energySum, binTotal]
  | cons x h ih =>
    have least : 1 ≤ halfTenths (2 * x.1) := halfTenths_zero ▸ halfTenths_mono (Nat.zero_le _)
    have first := le_mul_of_one_le_right (Nat.cast_nonneg (α := ℝ) x.2) least
    rw [energySum_cons, binTotal_cons]
    push_cast
    linarith

/-- The lower bound of the energy sum is short by less than 2^−p for each block. -/
theorem sumBelow_bounds (p : Nat) (h : Histogram) :
    (sumBelow p h : ℝ) ≤ energySum h * 2 ^ p ∧ energySum h * 2 ^ p ≤ sumBelow p h + binTotal h := by
  induction h with
  | nil => simp [energySum, binTotal, sumBelow]
  | cons x h ih =>
    obtain ⟨low, high⟩ := ih
    have first := mul_le_mul_of_nonneg_left (tenPower_le p (2 * x.1)) (Nat.cast_nonneg (α := ℝ) x.2)
    have second := mul_le_mul_of_nonneg_left (lt_tenPower_succ p (2 * x.1)).le (Nat.cast_nonneg (α := ℝ) x.2)
    rw [energySum_cons, binTotal_cons, sumBelow_cons]
    push_cast
    constructor <;> linarith

/-! ### The comparison of the energy sum with a halfway point (R92, log 27) -/

section

variable {h : Histogram} {e p : Nat}

/-- A precision that finds the halfway point reached is right. -/
theorem lt_energySum (total : 0 < binTotal h) (reached : binTotal h * (tenPower p e + 1) ≤ sumBelow p h) :
    binTotal h * halfTenths e < energySum h := by
  have unit : (0 : ℝ) < 2 ^ p := by positivity
  refine lt_of_mul_lt_mul_right ?_ unit.le
  calc binTotal h * halfTenths e * 2 ^ p = binTotal h * (halfTenths e * 2 ^ p) := mul_assoc ..
    _ < binTotal h * (tenPower p e + 1) := by gcongr; exact lt_tenPower_succ p e
    _ ≤ sumBelow p h := by exact_mod_cast reached
    _ ≤ energySum h * 2 ^ p := (sumBelow_bounds p h).1

/-- A precision that finds the halfway point missed is right. -/
theorem energySum_le_of_missed (missed : sumBelow p h + binTotal h ≤ binTotal h * tenPower p e) :
    energySum h ≤ binTotal h * halfTenths e := by
  have unit : (0 : ℝ) < 2 ^ p := by positivity
  refine le_of_mul_le_mul_right ?_ unit
  calc energySum h * 2 ^ p ≤ sumBelow p h + binTotal h := (sumBelow_bounds p h).2
    _ ≤ binTotal h * tenPower p e := by exact_mod_cast missed
    _ ≤ binTotal h * (halfTenths e * 2 ^ p) := by gcongr; exact tenPower_le p e
    _ = binTotal h * halfTenths e * 2 ^ p := (mul_assoc ..).symm

/-- A precision that does not decide has the sum within 2^(1−p) of the halfway point for each block. -/
theorem energySum_near (reached : ¬ binTotal h * (tenPower p e + 1) ≤ sumBelow p h)
    (missed : ¬ sumBelow p h + binTotal h ≤ binTotal h * tenPower p e) :
    |energySum h - binTotal h * halfTenths e| * 2 ^ p ≤ binTotal h * 2 := by
  obtain ⟨low, high⟩ := sumBelow_bounds p h
  have ten := mul_le_mul_of_nonneg_left (tenPower_le p e) (Nat.cast_nonneg (α := ℝ) (binTotal h))
  have ten' := mul_le_mul_of_nonneg_left (lt_tenPower_succ p e).le (Nat.cast_nonneg (α := ℝ) (binTotal h))
  have under : (sumBelow p h : ℝ) ≤ binTotal h * (tenPower p e + 1) := by exact_mod_cast (not_le.mp reached).le
  have above : (binTotal h : ℝ) * tenPower p e ≤ sumBelow p h + binTotal h := by exact_mod_cast (not_le.mp missed).le
  have unit : (0 : ℝ) < 2 ^ p := by positivity
  rw [← abs_of_pos unit, ← abs_mul, abs_le]
  constructor <;> linarith

/-- A halfway point that the search finds reached is passed. -/
theorem lt_energySum_of_sumReaches (total : 0 < binTotal h) {fuel : Nat}
    (reaches : sumReaches h (binTotal h) e fuel p = true) : binTotal h * halfTenths e < energySum h := by
  induction fuel generalizing p with
  | zero => cases reaches
  | succ fuel ih =>
    rw [sumReaches] at reaches
    split at reaches
    · exact lt_energySum total ‹_›
    · split at reaches
      · cases reaches
      · exact ih reaches

/-- One precision of the search is right where it decides, and leaves the rest to the next. -/
theorem sumReaches_succ_iff (total : 0 < binTotal h) (apart : energySum h ≠ binTotal h * halfTenths e) {fuel : Nat}
    (next : |energySum h - binTotal h * halfTenths e| * 2 ^ p ≤ binTotal h * 2 →
      (sumReaches h (binTotal h) e fuel (2 * p) = true ↔ binTotal h * halfTenths e ≤ energySum h)) :
    sumReaches h (binTotal h) e (fuel + 1) p = true ↔ binTotal h * halfTenths e ≤ energySum h := by
  rw [sumReaches]
  split
  case isTrue reached => exact iff_of_true rfl (lt_energySum total reached).le
  case isFalse reached =>
    split
    case isTrue missed =>
      exact iff_of_false Bool.false_ne_true (not_le.mpr ((energySum_le_of_missed missed).lt_of_ne apart))
    case isFalse missed => exact next (energySum_near reached missed)

/-- The search decides when the sum is clear of the halfway point at its last precision. -/
theorem sumReaches_iff (total : 0 < binTotal h) {fuel : Nat}
    (clear : binTotal h * 2 < |energySum h - binTotal h * halfTenths e| * 2 ^ (p * 2 ^ fuel)) :
    sumReaches h (binTotal h) e (fuel + 1) p = true ↔ binTotal h * halfTenths e ≤ energySum h := by
  have apart : energySum h ≠ binTotal h * halfTenths e := by
    intro same
    rw [same, sub_self, abs_zero, zero_mul] at clear
    exact absurd clear (not_lt.mpr (by positivity))
  induction fuel generalizing p with
  | zero =>
    rw [pow_zero, mul_one] at clear
    exact sumReaches_succ_iff total apart fun near => absurd near (not_le.mpr clear)
  | succ fuel ih =>
    rw [pow_succ', ← mul_assoc, mul_comm p] at clear
    exact sumReaches_succ_iff total apart fun _ => ih clear

end

end Sys2Proof.Machine
end

section
set_option Elab.async false

namespace Sys2Proof.Machine

/-! ### The search for the level of a histogram (R92, R95) -/

/-- The search tries no number but those above where it starts. -/
theorem greatest_congr {p q : Nat → Bool} (same : ∀ n, 0 < n → p n = q n) (bits acc : Nat) :
    greatest p bits acc = greatest q bits acc := by
  induction bits generalizing acc with
  | zero => rfl
  | succ bits ih => rw [greatest, greatest, same _ (Nat.add_pos_right acc (Nat.two_pow_pos bits)), ih]

/-- The search ends where it starts or at a number that passes. -/
theorem greatest_passes (p : Nat → Bool) (bits acc : Nat) :
    greatest p bits acc = acc ∨ p (greatest p bits acc) = true := by
  induction bits generalizing acc with
  | zero => exact .inl rfl
  | succ bits ih =>
    rw [greatest]
    obtain stays | passes := ih (if p (acc + 2 ^ bits) then acc + 2 ^ bits else acc)
    · rw [stays]
      split
      · exact .inr ‹_›
      · exact .inl rfl
    · exact .inr passes

/-- The bins of a canonical histogram are below 800 and count at least one block. -/
theorem wf_mem {h : Histogram} (canonical : Histogram.wf h = true) {x : Nat × Nat} (hx : x ∈ h) : x.1 < 800 ∧ 0 < x.2 := by
  rw [Histogram.wf, Bool.and_eq_true, List.all_eq_true] at canonical
  obtain ⟨bins, -⟩ := canonical
  simpa using bins x hx

section

variable {h : Histogram}

/-- The tenth above the first bin's level that is nearest to the mean energy, halves upward (R95). -/
noncomputable def levelTenth (h : Histogram) : Int := ⌊100 * Real.logb 10 (energySum h / binTotal h) + 1 / 2⌋

/-- The halfway point below tenth n. -/
theorem halfTenths_halfway {n : Nat} (hn : 0 < n) : halfTenths (2 * n - 1) = (10 : ℝ) ^ ((2 * (n : ℝ) - 1) / 200) := by
  rw [halfTenths, Nat.cast_sub (by omega)]
  push_cast
  rfl

/-- Tenth n is reached exactly when the halfway point below it is. -/
theorem le_levelTenth_iff (total : 0 < binTotal h) {n : Nat} (hn : 0 < n) :
    (n : Int) ≤ levelTenth h ↔ binTotal h * halfTenths (2 * n - 1) ≤ energySum h := by
  have blocks : (0 : ℝ) < binTotal h := Nat.cast_pos.mpr total
  have mean : 0 < energySum h / binTotal h := div_pos (blocks.trans_le (total_le_energySum h)) blocks
  rw [mul_comm, ← le_div_iff₀ blocks, halfTenths_halfway hn, ← Real.le_logb_iff_rpow_le (by norm_num) mean, levelTenth,
    Int.le_floor]
  push_cast
  constructor <;> intro _ <;> linarith

/-- The mean energy lies among the levels of the bins. -/
theorem levelTenth_range (canonical : Histogram.wf h = true) (total : 0 < binTotal h) :
    0 ≤ levelTenth h ∧ levelTenth h < 1024 := by
  have blocks : (0 : ℝ) < binTotal h := Nat.cast_pos.mpr total
  constructor
  · have mean : 1 ≤ energySum h / binTotal h := (one_le_div blocks).mpr (total_le_energySum h)
    have nonneg := Real.logb_nonneg (b := 10) (by norm_num) mean
    exact Int.floor_nonneg.mpr (by positivity)
  · have high : energySum h ≤ binTotal h * halfTenths 1598 := energySum_le fun x hx => by
      have := wf_mem canonical hx
      omega
    have below : halfTenths 1598 < halfTenths (2 * 1024 - 1) :=
      Real.rpow_lt_rpow_of_exponent_lt (by norm_num) (by norm_num)
    refine not_le.mp fun reached => ?_
    have sum := (le_levelTenth_iff total (n := 1024) (by norm_num)).mp reached
    exact absurd (le_of_mul_le_mul_left (sum.trans high) blocks) (not_le.mpr below)

/-- The level of a histogram is that of the mean energy of its blocks, where the sum is clear of every halfway point (R95,
log 27). -/
theorem histogramLevel_eq (canonical : Histogram.wf h = true) (total : 0 < binTotal h)
    (clear : ∀ n, 0 < n → binTotal h * 2 < |energySum h - binTotal h * halfTenths (2 * n - 1)| * 2 ^ 32768) :
    histogramLevel h = some (levelTenth h - 699) := by
  have reaches (n : Nat) (hn : 0 < n) :
      sumReaches h (binTotal h) (2 * n - 1) 10 64 = decide ((n : Int) ≤ levelTenth h) := by
    rw [Bool.eq_iff_iff, decide_eq_true_iff, le_levelTenth_iff total hn]
    exact sumReaches_iff (p := 64) (fuel := 9) total (clear n hn)
  obtain ⟨low, high⟩ := levelTenth_range canonical total
  rw [histogramLevel, if_neg total.ne', greatest_congr reaches, greatest_eq (last := levelTenth h) (by simp)]
  congr 2
  omega

/-- A histogram has a level exactly when it has counted a block (R95). -/
theorem histogramLevel_eq_none_iff : histogramLevel h = none ↔ binTotal h = 0 := by
  unfold histogramLevel
  split <;> simp [*]

/-- A level is that of the first bin or a tenth that the search finds reached (R95). -/
theorem histogramLevel_some {u : Int} (level : histogramLevel h = some u) : 0 < binTotal h
    ∧ ∃ n : Nat, u = n - 699 ∧ (n = 0 ∨ sumReaches h (binTotal h) (2 * n - 1) 10 64 = true) := by
  unfold histogramLevel at level
  split at level
  · cases level
  · obtain rfl := Option.some.inj level
    exact ⟨Nat.pos_of_ne_zero ‹_›, _, rfl, greatest_passes _ 10 0⟩

/-- The level of a histogram is at most that of the highest of its bins: a halfway point above every bin is not reached. -/
theorem exists_bin_ge_level {u : Int} (level : histogramLevel h = some u) : ∃ x ∈ h, u ≤ (x.1 : Int) - 699 := by
  obtain ⟨total, n, rfl, zero | reached⟩ := histogramLevel_some level
  · have counted : h ≠ [] := fun none_ => total.ne' (none_ ▸ rfl)
    obtain ⟨x, hx⟩ := List.exists_mem_of_ne_nil h counted
    exact ⟨x, hx, by omega⟩
  · by_contra! below
    have low : energySum h ≤ binTotal h * halfTenths (2 * n - 1) := energySum_le fun x hx => by
      have := below x hx
      omega
    exact absurd low (not_le.mpr (lt_energySum_of_sumReaches total reached))

/-- Some counted block is strictly above the relative gate (R95). -/
theorem aboveGate_total {u : Int} (canonical : Histogram.wf h = true) (level : histogramLevel h = some u) :
    binTotal (aboveGate u h) ≠ 0 := by
  obtain ⟨x, hx, high⟩ := exists_bin_ge_level level
  have counts : x.2 ∈ (aboveGate u h).map (·.2) :=
    List.mem_map_of_mem (List.mem_filter.mpr ⟨hx, decide_eq_true (by omega)⟩)
  exact ((wf_mem canonical hx).2.trans_le (List.single_le_sum (fun _ _ => Nat.zero_le _) _ counts)).ne'

/-- The ungated value of a scan is the level of all its counts (R95). -/
theorem scanValues_ungated (h : Histogram) : (scanValues h).1 = histogramLevel h := by
  unfold scanValues
  split <;> simp [*]

theorem scanValues_some {u : Int} (level : histogramLevel h = some u) :
    scanValues h = (some u, histogramLevel (aboveGate u h)) := by
  rw [scanValues, level]

theorem scanValues_none (level : histogramLevel h = none) : scanValues h = (none, none) := by
  rw [scanValues, level]

/-! ### The levels of the bins in tenths (R95) -/

/-- The energies at bin level b − 699 tenths are those of the bins, less by one factor. -/
theorem energySum_tenths (h : Histogram) :
    (h.map fun x => (x.2 : ℝ) * (10 : ℝ) ^ (((x.1 : ℝ) - 699) / 100)).sum = energySum h * (10 : ℝ) ^ (-699 / 100 : ℝ) := by
  rw [energySum, ← List.sum_map_mul_right]
  refine congrArg List.sum (List.map_congr_left fun x _ => ?_)
  rw [halfTenths, mul_assoc, ← Real.rpow_add (by norm_num)]
  congr 2
  push_cast
  ring

/-- The tenth of the mean energy at the levels of the bins. -/
theorem levelTenth_tenths (total : 0 < binTotal h) :
    ⌊100 * Real.logb 10 (energySum h * (10 : ℝ) ^ (-699 / 100 : ℝ) / binTotal h) + 1 / 2⌋ = levelTenth h - 699 := by
  have blocks : (0 : ℝ) < binTotal h := Nat.cast_pos.mpr total
  have mean : 0 < energySum h / binTotal h := div_pos (blocks.trans_le (total_le_energySum h)) blocks
  have shifted : 100 * Real.logb 10 (energySum h * (10 : ℝ) ^ (-699 / 100 : ℝ) / binTotal h) + 1 / 2
      = 100 * Real.logb 10 (energySum h / binTotal h) + 1 / 2 - (699 : Int) := by
    rw [mul_div_right_comm, Real.logb_mul mean.ne' (by positivity), Real.logb_rpow (by norm_num) (by norm_num)]
    push_cast
    ring
  rw [shifted, Int.floor_sub_intCast, levelTenth]

/-- A part in 2^32000 is more than the last precision of the search needs. -/
theorem clear_of_part {t d : ℝ} (ht : 0 < t) (part : t * (2 : ℝ) ^ (-32000 : ℤ) ≤ d) : t * 2 < d * 2 ^ 32768 := by
  have scale : (2 : ℝ) ^ (-32000 : ℤ) * 2 ^ 32768 = 2 ^ 768 := by
    rw [← zpow_natCast, ← zpow_natCast, ← zpow_add₀ (by norm_num)]
    rfl
  calc t * 2 < t * 2 ^ 768 := mul_lt_mul_of_pos_left (lt_self_pow₀ (by norm_num) (by norm_num)) ht
    _ = t * (2 : ℝ) ^ (-32000 : ℤ) * 2 ^ 32768 := by rw [mul_assoc, scale]
    _ ≤ d * 2 ^ 32768 := by gcongr

end

end Sys2Proof.Machine

open Sys2Proof Sys2Proof.Machine in
/-- Settles O36: the search over tenths ends at the floor where every halfway point is decided, and no halfway point above
the highest bin is ever reached, so the relative gate leaves some block. -/
theorem scanValuesRounded : Obligations.ScanValuesRounded := by
  refine ⟨fun h canonical counted => ?_, fun h canonical => ⟨fun empty => ?_, fun u level => ?_⟩, fun s banks => ?_⟩
  · intro total sum clear
    have blocks : 0 < binTotal h := Nat.pos_of_ne_zero counted
    have scaled : sum = energySum h * (10 : ℝ) ^ (-699 / 100 : ℝ) := energySum_tenths h
    have factor : (10 : ℝ) ^ (-699 / 100 : ℝ) ≠ 0 := (Real.rpow_pos_of_pos (by norm_num) _).ne'
    rw [scaled, mul_div_cancel_right₀ _ factor] at clear
    rw [scaled, levelTenth_tenths blocks]
    refine histogramLevel_eq canonical blocks fun n hn => clear_of_part (Nat.cast_pos.mpr blocks) ?_
    rw [halfTenths_halfway hn]
    exact clear n
  · exact scanValues_none (histogramLevel_eq_none_iff.mpr empty)
  · have gated := mt histogramLevel_eq_none_iff.mp (aboveGate_total canonical level)
    obtain ⟨i, integrated⟩ := Option.ne_none_iff_exists'.mp gated
    rw [scanValues_some level]
    exact ⟨rfl, i, integrated⟩
  · obtain ⟨-, sums, collecting, unbanked⟩ := banks
    have running_ : runningValue s = histogramLevel s.ag.sumS := by
      rw [runningValue, sums, ite_eq_right_iff]
      exact fun empty => (histogramLevel_eq_none_iff.mpr empty).symm
    refine ⟨rfl, fun bank open_ => ?_, fun closed => ?_⟩
    · rw [running_, collecting bank open_, scanValues_ungated]
    · rw [running_, unbanked closed]
      rfl
end

section
set_option Elab.async false

namespace Sys2Proof.Machine

/-! ### A completed scan and its bank (R96) -/

section

variable {s : State} {e : OpenEntry}

theorem setBank_setBank (bank : Bank) (h h' : HistBank) (ag : Activity) :
    setBank bank h (setBank bank h' ag) = setBank bank h ag := by
  cases bank <;> rfl

/-- A freed bank stays FREE unless an unbanked entry is open (R96). -/
theorem giveFreedBank_keeps (bank : Bank) (banked : ∀ e, s.su.openEntry = some e → e.bank ≠ none) :
    giveFreedBank bank s = s := by
  unfold giveFreedBank
  split
  · exact if_neg (banked _ ‹_›)
  · rfl

/-- A freed bank collects for an unbanked open entry (R96). -/
theorem giveFreedBank_gives (bank : Bank) (open_ : s.su.openEntry = some e) (unbanked : e.bank = none) :
    giveFreedBank bank s = { s with
      su := { s.su with openEntry := some { e with bank := some bank } }
      ag := setBank bank ⟨.collecting, []⟩ s.ag } := by
  rw [giveFreedBank, open_]
  exact if_pos unbanked

/-- A verdict leaves the open entry its bank, or none (R96, R131). -/
theorem buildVerdict_openBank (c : ClosedEntry) (ungated integrated : Option Int) (s : State) :
    (buildVerdict c ungated integrated s).su.openEntry.map (·.bank) = s.su.openEntry.map (·.bank) :=
  congrArg Standing.entry (buildVerdict_still c ungated integrated s)

end

end Sys2Proof.Machine

open Sys2Proof Sys2Proof.Machine in
/-- Settles O37: the verdict leaves the open entry its bank, so the freed bank is given exactly when the entry that was open
had none. -/
theorem scanCompletes : Obligations.ScanCompletes := by
  intro s bank slot h held values v freed
  have verdict : v.su.openEntry.map (·.bank) = s.su.openEntry.map (·.bank) := buildVerdict_openBank ..
  obtain ⟨-, -, -, -, -, -, -, activity, -⟩ := buildVerdict_frame slot.closed values.1 values.2 s
  have row : exec (.scanCompletion bank) s = .next (giveFreedBank bank freed) := by
    rw [scan_row h, completeScan_some held, scanFreed]
    exact congrArg (fun ag => Host.Outcome.next (giveFreedBank bank { freed with ag := setBank bank .cleared ag })) activity
  have entry : freed.su.openEntry = v.su.openEntry := setSlot_openEntry ..
  by_cases banked : ∀ e, s.su.openEntry = some e → e.bank ≠ none
  · refine .inl ⟨banked, row.trans (congrArg _ (giveFreedBank_keeps bank fun e' open_ => ?_))⟩
    rw [entry] at open_
    rw [open_, Option.map_some, eq_comm, Option.map_eq_some_iff] at verdict
    obtain ⟨e, was, same⟩ := verdict
    exact same ▸ banked e was
  · push Not at banked
    obtain ⟨e, open_, unbanked⟩ := banked
    rw [open_, Option.map_some, Option.map_eq_some_iff] at verdict
    obtain ⟨e', now, same⟩ := verdict
    refine .inr ⟨e, e', open_, unbanked, now, row.trans (congrArg _ ?_)⟩
    rw [giveFreedBank_gives bank (entry.trans now) (same.trans unbanked), setBank_setBank]
end

section
set_option Elab.async false

namespace Sys2Proof.Machine

/-! ### The fields of a caption header (R101, 11 section 11.5) -/

/-- The codes 1 to 3 name the kinds, and no other code names one (R101). -/
theorem captionKindOfCode_cases : ∀ n : Nat, ((n = 0 ∨ 3 < n) ∧ captionKindOfCode n = none)
    ∨ (1 ≤ n ∧ n ≤ 3) ∧ ∃ kind, (kind, n) ∈ [(CaptionKind.text, 1), (.clear, 2), (.style, 3)]
      ∧ captionKindOfCode n = some kind
  | 0 => .inl ⟨by decide, rfl⟩
  | 1 => .inr ⟨by decide, .text, by simp, rfl⟩
  | 2 => .inr ⟨by decide, .clear, by simp, rfl⟩
  | 3 => .inr ⟨by decide, .style, by simp, rfl⟩
  | n + 4 => .inl ⟨by omega, rfl⟩

section

variable (offset : Nat) (b : WBeat)

/-- The length of a caption header (R101). -/
def headerLength : Nat := (b.data.extractLsb' 0 16).toNat

/-- The kind code of a caption header (R101). -/
def headerCode : Nat := (b.data.extractLsb' 16 8).toNat

/-- The service of a caption header (R101). -/
def headerService : Nat := (b.data.extractLsb' 24 6).toNat

/-- The number of characters of a caption header (R101). -/
def headerChars : Nat := (b.data.extractLsb' 32 16).toNat

/-- A beat that begins no unit: partial, or with a field of its header out of range (R101). -/
def headerMalformed : Prop :=
  b.enables ≠ 0xFF ∨ headerLength b < 16 ∨ 1024 < headerLength b ∨ ¬ 8 ∣ headerLength b ∨ headerCode b = 0
    ∨ 3 < headerCode b ∨ headerService b = 0 ∨ 500 < headerChars b

/-- The service takes the low 6 bits of its byte. -/
theorem headerService_eq : byteField b.data 3 1 % 64 = headerService b := by
  rw [byteField_eq, headerService, BitVec.extractLsb'_toNat, BitVec.extractLsb'_toNat]
  exact Nat.mod_mod_of_dvd _ (by decide)

/-- A header is read field by field (R101). -/
theorem headerUnit_eq : headerUnit offset b = (captionKindOfCode (headerCode b)).bind fun kind =>
    if b.enables = 0xFF ∧ 16 ≤ headerLength b ∧ headerLength b ≤ 1024 ∧ headerLength b % 8 = 0 ∧ headerService b ≠ 0
      ∧ headerChars b ≤ 500 then
      some ⟨offset, headerLength b, kind, headerService b, headerChars b, none, 1⟩
    else none := by
  have length : byteField b.data 0 2 = headerLength b := byteField_eq ..
  have code : byteField b.data 2 1 = headerCode b := byteField_eq ..
  have chars : byteField b.data 4 2 = headerChars b := byteField_eq ..
  rw [headerUnit, length, code, headerService_eq, chars]
  cases captionKindOfCode (headerCode b) <;> rfl

variable {b}

/-- A malformed beat begins no unit (R101). -/
theorem headerUnit_malformed (malformed : headerMalformed b) : headerUnit offset b = none := by
  rw [headerUnit_eq]
  rcases captionKindOfCode_cases (headerCode b) with ⟨-, unnamed⟩ | ⟨known, kind, -, named⟩
  · rw [unnamed]
    rfl
  · rw [named]
    refine if_neg fun ⟨whole, fits⟩ => ?_
    rcases malformed with part | outside
    · exact part whole
    · omega

/-- A beat that is not malformed begins the unit that its header describes (R101). -/
theorem headerUnit_wellFormed (wellFormed : ¬ headerMalformed b) :
    ∃ kind, (kind, headerCode b) ∈ [(CaptionKind.text, 1), (.clear, 2), (.style, 3)]
      ∧ headerUnit offset b = some ⟨offset, headerLength b, kind, headerService b, headerChars b, none, 1⟩ := by
  simp only [headerMalformed, not_or, not_not] at wellFormed
  obtain ⟨whole, longEnough, shortEnough, eights, code, codeKnown, service, chars⟩ := wellFormed
  rcases captionKindOfCode_cases (headerCode b) with ⟨unknown, -⟩ | ⟨-, kind, coded, named⟩
  · omega
  · refine ⟨kind, coded, ?_⟩
    rw [headerUnit_eq, named]
    exact if_pos ⟨whole, by omega, by omega, by omega, service, by omega⟩

end

/-! ### CAPTION_BEAT by the state of the assembler (R98, R100 to R103) -/

section

variable {s : State} {offset : Nat} {b : WBeat} {rest : List CaptionBeat} {u : UnitShadow}

/-- The part with other beats handed to the caption unit. -/
def captionsHanded (beats : List CaptionBeat) (s : State) : State := { s with ca := { s.ca with inbox := beats } }

/-- CAPTION_BEAT takes the beat at the head of the inbox (R12). -/
theorem captionBeat_head (h : ready s = true) (inbox : s.ca.inbox = ⟨offset, b⟩ :: rest) :
    exec .captionBeat s = .next (captionBeatEvent ⟨offset, b⟩ (captionsHanded rest s)) := by
  refine (running_of_ready _ h).trans (congrArg _ ?_)
  rw [takeCaption, inbox]
  rfl

/-- A beat with no byte enabled is passed over (R100). -/
theorem captionBeatEvent_empty (empty : b.enables = 0) : captionBeatEvent ⟨offset, b⟩ s = s := if_pos empty

/-- In WAIT_HEADER a beat is taken as a header (R101). -/
theorem captionBeat_waiting (h : ready s = true) (inbox : s.ca.inbox = ⟨offset, b⟩ :: rest) (enabled : b.enables ≠ 0)
    (waiting : s.ca.collecting = false) :
    exec .captionBeat s = .next (takeHeader offset b (captionsHanded rest s)) := by
  have state_ : (captionsHanded rest s).ca.collecting = false := waiting
  rw [captionBeat_head h inbox, captionBeatEvent, if_neg enabled, state_]

/-- In COLLECTING a whole beat at the expected address continues the unit, and any other tears it and is taken as a header
(R102, R103). -/
theorem captionBeat_collecting (h : ready s = true) (inbox : s.ca.inbox = ⟨offset, b⟩ :: rest) (enabled : b.enables ≠ 0)
    (collecting : s.ca.collecting = true) (shadow : s.ca.shadow = some u) : exec .captionBeat s = .next (
      let t := captionsHanded rest s
      if b.enables = 0xFF ∧ s.ca.expected = some offset then continueUnit u offset b t
      else takeHeader offset b (tearUnit u offset t)) := by
  have state_ : (captionsHanded rest s).ca.collecting = true ∧ (captionsHanded rest s).ca.shadow = some u :=
    ⟨collecting, shadow⟩
  rw [captionBeat_head h inbox, captionBeatEvent, if_neg enabled, state_.1, state_.2]
  rfl

end

/-! ### A tear (R102, R106) -/

section

variable {s : State} {u : UnitShadow} {e : OpenEntry}

/-- An open entry that has counted one more tear (R106). -/
def tornCounted (e : OpenEntry) : OpenEntry := { e with tornCount := satAdd e.tornCount 1, tornMark := true }

/-- A tear gives up the unit and is counted, and the first of the entry is reported (R102, R106). -/
theorem tearUnit_eq (offset : Nat) (open_ : s.su.openEntry = some e) : tearUnit u offset s
    = (let torn : State := { s with ca := waitHeader s.ca, su := { s.su with openEntry := some (tornCounted e) } }
       if e.tornMark then torn else offer (.captionTorn e.entry.id u offset s.tb.time) torn) := by
  have counts : modifyOpen (fun e => { e with tornCount := satAdd e.tornCount 1, tornMark := true })
      { s with ca := waitHeader s.ca }
        = { s with ca := waitHeader s.ca, su := { s.su with openEntry := some (tornCounted e) } } := modifyOpen_some open_
  simp only [tearUnit, open_, counts]

end

end Sys2Proof.Machine

open Sys2Proof Sys2Proof.Machine in
/-- Settles O38: a header is judged by its fields, and a beat that tears a unit is then the same beat in WAIT_HEADER. -/
theorem captionHeaderAndTear : Obligations.CaptionHeaderAndTear := by
  refine ⟨fun s offset b rest h inbox => ?_, fun s offset b rest u e h inbox collecting shadow enabled breaks open_ => ?_⟩
  · intro length code service chars malformed count
    refine ⟨fun empty => ?_, fun waiting enabled bad => ?_, fun waiting good => ?_⟩
    · rw [captionBeat_head h inbox, captionBeatEvent_empty empty]
      rfl
    · have counts : (fun e : OpenEntry => { e with malformed := satAdd e.malformed 1 })
          = fun e => { e with malformed := count e } := funext fun e => by rw [satAdd_succ (by decide)]
      rw [captionBeat_waiting h inbox enabled waiting, takeHeader, headerUnit_malformed offset bad, counts]
      rfl
    · have whole : b.enables = 0xFF := not_not.mp (not_or.mp good).1
      have enabled : b.enables ≠ 0 := by rw [whole]; decide
      obtain ⟨kind, coded, begun⟩ := headerUnit_wellFormed offset good
      refine ⟨kind, coded, ?_⟩
      rw [captionBeat_waiting h inbox enabled waiting, takeHeader, begun]
      rfl
  · intro count torn
    have counted : tornCounted e = { e with tornCount := count, tornMark := true } := by
      rw [tornCounted, satAdd_succ (by decide)]
    have tears := tearUnit_eq (s := captionsHanded rest s) (u := u) offset open_
    rw [counted] at tears
    rw [captionBeat_collecting h inbox enabled collecting shadow]
    refine (congrArg _ (if_neg (not_and_or.mpr breaks))).trans ?_
    rw [tears]
    cases e.tornMark with
    | true => exact (captionBeat_waiting (s := torn) h inbox enabled rfl).symm
    | false =>
      exact (captionBeat_waiting (s := offer (.captionTorn e.entry.id u offset s.tb.time) torn) h inbox enabled rfl).symm
end

section
set_option Elab.async false

namespace Sys2Proof.Machine

/-! ### The gap start (R109) -/

theorem latest_eq (a b : Time) : latest a b = if 0 < (a - b).toInt then a else b := by
  have later_ : later a b = true ↔ 0 < (a - b).toInt := decide_eq_true_iff
  simp only [latest, later_]

/-- The gap start is the last qualifying time when that is later than the actual start (R109). -/
theorem gapStart_eq (e : OpenEntry) (ca : Caption) : gapStart e ca = match ca.lastQualifying with
    | none => e.actualStart
    | some t => if 0 < (t - e.actualStart).toInt then t else e.actualStart := by
  cases last : ca.lastQualifying with
  | none => simp only [gapStart, last]
  | some t => simp only [gapStart, last, latest_eq]

/-! ### A unit grows (R103) -/

section

variable {s : State} {u : UnitShadow} {e : OpenEntry}

/-- The low 4 bytes of the second beat are the decoder time (R103). -/
theorem growUnit_eq (u : UnitShadow) (b : WBeat) : growUnit u b = { u with
    collected := u.collected + 1
    decoderTime := if u.collected = 1 then some (b.data.extractLsb' 0 32) else u.decoderTime } := by
  have stamp : BitVec.ofNat 32 (byteField b.data 0 4) = b.data.extractLsb' 0 32 := ofNat_byteField b.data 0 4
  rw [growUnit, stamp]

/-- A unit with beats still to come waits for the next (R103). -/
theorem continueUnit_incomplete {b : WBeat} (offset : Nat) (more : u.collected + 1 < u.length / 8) :
    continueUnit u offset b s
      = { s with ca := { s.ca with shadow := some (growUnit u b), expected := some (offset + 8) } } :=
  if_neg more.not_ge

/-- A unit with its last beat is judged in WAIT_HEADER (R103). -/
theorem continueUnit_complete {b : WBeat} (offset : Nat) (last : u.length / 8 ≤ u.collected + 1) :
    continueUnit u offset b s = commitUnit (growUnit u b) { s with ca := waitHeader s.ca } :=
  if_pos last

/-! ### A complete unit is judged (R104, R105, R110) -/

theorem qualifies_iff : qualifies u e = true ↔ u.kind = .text ∧ 1 ≤ u.chars ∧ u.service = e.entry.service := by
  rw [qualifies, Bool.and_eq_true, Bool.and_eq_true, beq_iff_eq, beq_iff_eq, decide_eq_true_iff, and_assoc]

theorem gapRunning_iff {ca : Caption} :
    gapRunning e ca = true ↔ e.entry.required = true ∧ e.entry.gapLimit ≤ ca.gapTimer := by
  rw [gapRunning, Bool.and_eq_true, decide_eq_true_iff]

/-- The part once a qualifying unit has restarted the gap timer and is counted (R105, R110). -/
def unitCounted (e : OpenEntry) (s : State) : State := { s with
  ca := { s.ca with gapTimer := 0, lastQualifying := some s.tb.time }
  su := { s.su with openEntry := some { e with unitCount := satAdd e.unitCount 1 } } }

/-- A qualifying unit ends the gap episode that is running, and is counted (R104, R105, R110). -/
theorem commitUnit_qualifying (open_ : s.su.openEntry = some e) (fits : qualifies u e = true) : commitUnit u s
    = if gapRunning e s.ca then
        offer (.captionGapEnd e.entry.id (gapStart e s.ca) s.ca.gapTimer s.tb.time (u.decoderTime.getD Config.absentStamp))
          (unitCounted e s)
      else unitCounted e s := by
  have counts : modifyOpen (fun e => { e with unitCount := satAdd e.unitCount 1 })
      { s with ca := { s.ca with gapTimer := 0, lastQualifying := some s.tb.time } } = unitCounted e s := modifyOpen_some open_
  simp only [commitUnit, open_, if_pos fits, takeQualifying]
  split
  · rw [← counts]
    rfl
  · exact counts

/-- A unit of another service is counted as such (R104, R110). -/
theorem commitUnit_otherService (open_ : s.su.openEntry = some e) (other : u.service ≠ e.entry.service) : commitUnit u s
    = { s with su := { s.su with openEntry := some { e with otherService := satAdd e.otherService 1 } } } := by
  have unfit : ¬ qualifies u e = true := fun fits => other (qualifies_iff.mp fits).2.2
  simp only [commitUnit, open_, if_neg unfit, if_pos other, modifyOpen_some open_]

/-- A unit of the entry's service that does not qualify changes nothing (R104). -/
theorem commitUnit_unfit (open_ : s.su.openEntry = some e) (own : u.service = e.entry.service)
    (unfit : ¬ qualifies u e = true) : commitUnit u s = s := by
  simp only [commitUnit, open_, if_neg unfit, own, ne_eq, not_true_eq_false, if_false]

end

end Sys2Proof.Machine

open Sys2Proof Sys2Proof.Machine in
/-- Settles O39: the beat continues the unit, which waits for more or is judged by its service and by whether it qualifies. -/
theorem captionUnitCollected : Obligations.CaptionUnitCollected := by
  intro s offset data rest u e h inbox collecting shadow expected open_ stamp waiting inc start gap qualified
  let grown : UnitShadow := { u with collected := u.collected + 1, decoderTime := stamp }
  let t : State := { s with ca := waiting }
  have whole : (0xFF : BitVec 8) ≠ 0 := by decide
  have row : exec .captionBeat s = .next (continueUnit u offset ⟨data, 0xFF⟩ (captionsHanded rest s)) :=
    (captionBeat_collecting h inbox whole collecting shadow).trans (congrArg _ (if_pos ⟨rfl, expected⟩))
  have grows : growUnit u ⟨data, 0xFF⟩ = grown := growUnit_eq ..
  have inc_eq (n : BitVec 16) : satAdd n 1 = inc n := satAdd_succ (by decide) n
  refine ⟨fun more => ?_, fun last => ?_⟩
  · rw [row, continueUnit_incomplete offset more, grows]
    rfl
  · have judged : exec .captionBeat s = .next (commitUnit grown t) := by
      rw [row, continueUnit_complete offset last, grows]
      rfl
    have counted : unitCounted e t = qualified := by
      rw [unitCounted, inc_eq]
    have begins : gapStart e t.ca = start := gapStart_eq e t.ca
    have running_ : gapRunning e t.ca = true ↔ gap := gapRunning_iff
    have fits : qualifies grown e = true ↔ u.kind = .text ∧ 1 ≤ u.chars ∧ u.service = e.entry.service := qualifies_iff
    refine ⟨fun text chars own noGap => ?_, fun text chars own ends => ?_, fun other => ?_, fun own unfit => ?_⟩
    · rw [judged, commitUnit_qualifying (s := t) open_ (fits.mpr ⟨text, chars, own⟩), if_neg (mt running_.mp noGap), counted]
    · rw [judged, commitUnit_qualifying (s := t) open_ (fits.mpr ⟨text, chars, own⟩), if_pos (running_.mpr ends), counted,
        begins]
    · rw [judged, commitUnit_otherService (s := t) (u := grown) open_ other, inc_eq]
    · have unqualified : ¬ qualifies grown e = true := fun qualifies_ =>
        have ⟨text, chars, _⟩ := fits.mp qualifies_
        unfit.elim (· text) (Nat.one_le_iff_ne_zero.mp chars)
      rw [judged, commitUnit_unfit (s := t) (u := grown) open_ own unqualified]
end

section
set_option Elab.async false

namespace Sys2Proof.Machine

/-! ### The gap timer and its episode (R107 to R109) -/

section

variable {s : State} {e : OpenEntry}

/-- CAPTION_GAP takes the tick that the caption unit is owed (R107). -/
theorem captionGap_row (h : ready s = true) (owed : s.tb.owed.ca = true) :
    exec .captionGap s = .next (captionTick (setOwed { s.tb.owed with ca := false } s)) :=
  (running_of_ready _ h).trans (congrArg _ (if_pos owed))

/-- A tick while no open entry's captions are timed leaves the part as it is (R107). -/
theorem captionTick_untimed (untimed : ∀ e, s.su.openEntry = some e → ¬ captionedIn s e) : captionTick s = s :=
  if_neg fun runs =>
    have ⟨e, open_, timed⟩ := gapRuns_iff.mp runs
    untimed e open_ timed

/-- The part once a tick has counted for the captions of its open entry (R107). -/
def gapTicked (e : OpenEntry) (s : State) : State := { s with
  ca := { s.ca with gapTimer := capInc Config.timerCap s.ca.gapTimer }
  su := { s.su with openEntry := some (captionMs s.ca.gapTimer e) } }

/-- An open entry that has counted one more gap episode (R108). -/
def gapCounted (e : OpenEntry) : OpenEntry := { e with gapCount := satAdd e.gapCount 1 }

/-- An episode is counted and reported, and the hold is asked for from the gap start on (R108, R109). -/
theorem beginGap_eq (open_ : s.su.openEntry = some e) : beginGap s = askHold e .caption (gapStart e s.ca)
    (offer (.captionGap e.entry.id e.entry.service (gapStart e s.ca) e.entry.gapLimit s.tb.time)
      { s with su := { s.su with openEntry := some (gapCounted e) } }) := by
  have counts : modifyOpen (fun e => { e with gapCount := satAdd e.gapCount 1 }) s
      = { s with su := { s.su with openEntry := some (gapCounted e) } } := modifyOpen_some open_
  simp only [beginGap, open_, counts]
  rfl

/-- A tick that is timed is counted, and begins an episode when it brings the timer to the limit (R107, R108). -/
theorem captionTick_timed (open_ : s.su.openEntry = some e) (timed : captionedIn s e) :
    captionTick s = if gapReaches s then beginGap (gapTicked e s) else gapTicked e s := by
  have counts : modifyOpen (captionMs s.ca.gapTimer) s
      = { s with su := { s.su with openEntry := some (captionMs s.ca.gapTimer e) } } := modifyOpen_some open_
  simp only [captionTick, if_pos (gapRuns_iff.mpr ⟨e, open_, timed⟩), counts]
  rfl

/-- The tick that brings a timed entry's timer to the limit is taken 1 below it (R108). -/
theorem gapReaches_timed (open_ : s.su.openEntry = some e) (timed : captionedIn s e) :
    gapReaches s = true ↔ s.ca.gapTimer + 1 = e.entry.gapLimit ∧ e.entry.gapLimit ≤ Config.timerCap := by
  rw [gapReaches_iff]
  constructor
  · rintro ⟨e', other, -, below, reached⟩
    obtain rfl : e = e' := Option.some.inj (open_.symm.trans other)
    rw [capInc] at reached
    split at reached <;> omega
  · rintro ⟨last, limit⟩
    refine ⟨e, open_, timed, by omega, ?_⟩
    rwa [capInc, if_pos (by omega)]

end

end Sys2Proof.Machine

open Sys2Proof Sys2Proof.Machine in
/-- Settles O40: the owed tick counts for a REQUIRED entry whose captions are timed, and begins an episode exactly when it
brings the timer to the limit. -/
theorem captionGapTick : Obligations.CaptionGapTick := by
  intro s h due owed runs inc ticked
  let u : State := setOwed { s.tb.owed with ca := false } s
  have row : exec .captionGap s = .next (captionTick u) := captionGap_row h due
  refine ⟨fun untimed => ?_, fun e open_ timed => ?_⟩
  · rw [row, captionTick_untimed (s := u) untimed]
    rfl
  · intro e' start
    have tick := captionTick_timed (s := u) open_ timed
    have counted : gapTicked e u = { ticked with su := { s.su with openEntry := some e' } } := rfl
    refine ⟨fun before => ?_, fun last limit => ?_⟩
    · rw [row, tick, if_neg (fun reaches => before ((gapReaches_timed (s := u) open_ timed).mp reaches).1), counted]
    · intro count reported
      have entry : gapCounted e' = { e' with gapCount := count } := by
        rw [gapCounted, satAdd_succ (by decide)]
      have begins : gapStart e' ticked.ca = start := gapStart_eq e' ticked.ca
      have reaches := (gapReaches_timed (s := u) open_ timed).mpr
        ⟨last, limit.trans (by decide)⟩
      rw [row, tick, if_pos reaches, counted, beginGap_eq rfl, entry, begins]
      rfl
end

section
set_option Elab.async false

namespace Sys2Proof.Machine

/-! ### The bounds of a closed record (R111, R129) -/

/-- A part of a 32-bit count is written back as it is. -/
theorem toNat_ofNat_part {n : BitVec 32} {k : Nat} (le : k ≤ n.toNat) : (BitVec.ofNat 32 k).toNat = k := by
  rw [BitVec.toNat_ofNat, Nat.mod_eq_of_lt (le.trans_lt n.isLt)]

section

variable (duration : Nat) (e : OpenEntry)

theorem boundRecord_measuredMs : (boundRecord duration e).measuredMs.toNat = min e.measuredMs.toNat duration :=
  toNat_ofNat_part (min_le_left _ duration)

theorem boundRecord_unmeasuredMs : (boundRecord duration e).unmeasuredMs.toNat
    = min e.unmeasuredMs.toNat (duration - (boundRecord duration e).measuredMs.toNat) := by
  rw [boundRecord_measuredMs]
  exact toNat_ofNat_part (min_le_left _ _)

end

/-! ### Coverage and the outcomes of captions and loudness (R112, R113, R132) -/

section

variable {e : OpenEntry} {c : ClosedEntry} {i : Int}

theorem coverageOf_idle (idle : e.activeMs = 0) : coverageOf e = 1000 := if_pos idle

/-- The covered permille is rounded down (R112). -/
theorem coverageOf_bounds (active : 0 < e.activeMs) : coverageOf e * e.activeMs ≤ e.coveredMs * 1000
    ∧ e.coveredMs * 1000 < (coverageOf e + 1) * e.activeMs := by
  rw [coverageOf, if_neg active.ne']
  exact ⟨Nat.div_mul_le_self .., (Nat.div_lt_iff_lt_mul active).mp (Nat.lt_add_one _)⟩

/-- No more than all of the active ms is covered (R112). -/
theorem coverageOf_le (within : e.coveredMs ≤ e.activeMs) : coverageOf e ≤ 1000 := by
  rcases Nat.eq_zero_or_pos e.activeMs with idle | active
  · exact (coverageOf_idle idle).le
  · rw [coverageOf, if_neg active.ne']
    exact Nat.div_le_of_le_mul (Nat.mul_le_mul_right 1000 within)

theorem captionOutcome_free (free : e.entry.required = false) : captionOutcome e = .notRequired := by
  rw [captionOutcome, free]
  rfl

/-- A REQUIRED entry is judged by its coverage only when a CAPTION window was installed at its opening (R113). -/
theorem captionOutcome_required (required : e.entry.required = true) : captionOutcome e
    = if e.captionPresent then if e.entry.permille ≤ coverageOf e then .pass else .fail else .unchecked := by
  rw [captionOutcome, required]
  cases e.captionPresent <;> rfl

theorem loudnessOutcome_unmeasured (half : c.record.measuredMs.toNat * 2 < c.duration) (integrated : Option Int) :
    loudnessOutcome c integrated = .undetermined := by
  cases integrated with
  | none => rfl
  | some i => exact if_pos half

/-- With an integrated value and half of the duration measured, the distance from the target decides (R132). -/
theorem loudnessOutcome_measured (measured : ¬ c.record.measuredMs.toNat * 2 < c.duration) : loudnessOutcome c (some i)
    = if |i - c.record.entry.target| ≤ c.record.entry.tolerance then .pass
      else if c.record.entry.target < i then .failHigh else .failLow := by
  rw [loudnessOutcome, if_neg measured, Int.abs_eq_natAbs]
  simp only [Nat.cast_le]

end

end Sys2Proof.Machine

open Sys2Proof Sys2Proof.Machine in
/-- Settles O44: each field of the closed record and of the verdict is read off its rule. -/
theorem outcomesDecided : Obligations.OutcomesDecided := by
  refine ⟨fun e actualEnd aborted forward => ?_, fun c ungated integrated => ?_, fun c ungated integrated => ?_⟩
  · exact ⟨Int.toNat_of_nonneg forward, rfl, rfl, rfl, rfl, rfl, boundRecord_measuredMs .., boundRecord_unmeasuredMs ..⟩
  · refine ⟨coverageOf_idle, coverageOf_bounds, coverageOf_le, captionOutcome_free, fun required absent => ?_,
      fun required present => ?_⟩
    · exact (captionOutcome_required required).trans (if_neg (by rw [absent]; decide))
    · exact (captionOutcome_required required).trans (if_pos present)
  · refine ⟨?_, fun i value measured => ?_⟩
    · rintro (rfl | half)
      · rfl
      · exact loudnessOutcome_unmeasured half integrated
    · subst value
      have outcome := loudnessOutcome_measured (i := i) measured
      refine ⟨fun near => ?_, fun far above => ?_, fun far below => ?_⟩
      · exact outcome.trans (if_pos near)
      · exact outcome.trans ((if_neg far.not_ge).trans (if_pos above))
      · exact outcome.trans ((if_neg far.not_ge).trans (if_neg below.not_gt))
end

section
set_option Elab.async false

namespace Sys2Proof.Machine

/-! ### HOLD_POLICY (R120) -/

/-- The class named by each code below 4. -/
theorem classOfCode_named {n : Nat} (h : n ≤ 3) : ∃ c : EntryClass, classOfCode n = some c ∧ c.code = n :=
  match n with
  | 0 => ⟨.programme, rfl, rfl⟩
  | 1 => ⟨.advert, rfl, rfl⟩
  | 2 => ⟨.promo, rfl, rfl⟩
  | 3 => ⟨.live, rfl, rfl⟩
  | _ + 4 => absurd h (by omega)

theorem EntryClass.code_lt (c : EntryClass) : c.code < 4 := by cases c <;> decide

/-- HOLD_POLICY with a code that names no class (R120). -/
theorem ownHoldPolicy_past {it : CmdItem} (s : State) (past : 3 < it.arg.toNat % 2 ^ 8) :
    ownHoldPolicy it s = .error .badValue := by
  rw [ownHoldPolicy, argField_zero, classOfCode_past past]

/-- HOLD_POLICY replaces the line of the class it names (R120). -/
theorem ownHoldPolicy_named {it : CmdItem} (s : State) (named : it.arg.toNat % 2 ^ 8 ≤ 3) :
    ownHoldPolicy it s = .ok ({ s with su := { s.su with
      policy := s.su.policy.setIfInBounds (it.arg.toNat % 2 ^ 8) (it.arg.extractLsb' 8 4) } }, 0) := by
  obtain ⟨c, class_, code⟩ := classOfCode_named named
  simp only [ownHoldPolicy, argField_zero, class_, code, ofNat_argField]

/-- A replaced line is the one that its class follows, and no other class does (R120). -/
theorem policyHolds_replaced {s t : State} {code : Nat} {line : BitVec 4}
    (policy : t.su.policy = s.su.policy.setIfInBounds code line) (cls : EntryClass) (reason : HoldReason) :
    policyHolds t cls reason = if cls.code = code then line.getLsbD reason.code else policyHolds s cls reason := by
  rw [policyHolds, policyHolds, policy, Vector.getElem?_setIfInBounds]
  by_cases same : cls.code = code
  · subst same
    rw [if_pos rfl, if_pos rfl, if_pos cls.code_lt, Option.getD_some]
  · rw [if_neg (Ne.symm same), if_neg same]

/-! ### DEFAULT_ENTRY (R119, R174) -/

/-- A DEFAULT_ENTRY item as the row of one part takes it (log 31). -/
theorem isDefaultPart_of {it : CmdItem} {rest : List CmdItem} {s : State} {part : Nat} (h : headIs .defaultEntry it rest s)
    (taken : partCode it = part ∨ partCode it = 0 ∨ 3 < partCode it) : isDefaultPart part it = true := by
  simp only [isDefaultPart, h.isKind, Bool.true_and, Bool.or_eq_true, beq_iff_eq, decide_eq_true_eq]
  tauto

section

variable (it : CmdItem) (s : State)

theorem partCode_eq : partCode it = (it.arg.extractLsb' 0 8).toNat := argField_eq it.arg 0 8

/-- DEFAULT_ENTRY with part LOUDNESS (R119). -/
theorem ownDefaultEntry_loudness (part : partCode it = 1) : ownDefaultEntry it s =
    (let target : Int := (it.arg.extractLsb' 8 16).toInt
     let tolerance := (it.arg.extractLsb' 24 8).toNat
     let margin := (it.arg.extractLsb' 32 8).toNat
     if -600 ≤ target ∧ target ≤ 0 ∧ tolerance ≤ 100 ∧ margin ≤ 100 then
       .ok ({ s with su := { s.su with
         defaults := { s.su.defaults with target := target, tolerance := tolerance, margin := margin } } }, 0)
     else .error .badValue) := by
  have level : signedField 16 (argField it.arg 8 16) = (it.arg.extractLsb' 8 16).toInt :=
    congrArg BitVec.toInt (ofNat_argField it.arg 8 16)
  rw [ownDefaultEntry, if_pos part]
  simp only [setDefaultLoudness, loudnessRange, level, argField_eq it.arg _ 8, Bool.and_eq_true, decide_eq_true_eq, and_assoc]

/-- DEFAULT_ENTRY with part CAPTION (R119). -/
theorem ownDefaultEntry_caption (part : partCode it = 2) : ownDefaultEntry it s =
    (let obligation := (it.arg.extractLsb' 8 4).toNat
     let service := (it.arg.extractLsb' 12 6).toNat
     let permille := (it.arg.extractLsb' 18 10).toNat
     let gapLimit := (it.arg.extractLsb' 28 20).toNat
     if obligation ≤ 1 ∧ 1 ≤ service ∧ service ≤ 63 ∧ permille ≤ 1000 ∧ 1 ≤ gapLimit ∧ gapLimit ≤ 600000 then
       .ok ({ s with su := { s.su with defaults := { s.su.defaults with
         required := obligation == 1, service := service, permille := permille, gapLimit := gapLimit } } }, 0)
     else .error .badValue) := by
  rw [ownDefaultEntry, if_neg (by omega), if_pos part]
  simp only [setDefaultCaption, argField_eq, obligationOfCode_eq]
  by_cases known : (it.arg.extractLsb' 8 4).toNat ≤ 1
  · have range {service gapLimit permille : Nat} : captionRange service gapLimit permille = true
        ↔ 1 ≤ service ∧ service ≤ 63 ∧ permille ≤ 1000 ∧ 1 ≤ gapLimit ∧ gapLimit ≤ 600000 := by
      simp only [captionRange, Bool.and_eq_true, decide_eq_true_eq]
      tauto
    simp only [known, range, if_true, true_and]
    rfl
  · simp only [known, false_and, if_false]

/-- DEFAULT_ENTRY with part DEAD_AIR (R119). -/
theorem ownDefaultEntry_deadAir (part : partCode it = 3) : ownDefaultEntry it s =
    (let limit := (it.arg.extractLsb' 8 20).toNat
     if limit ≤ 600000 then .ok ({ s with su := { s.su with defaults := { s.su.defaults with deadAirLimit := limit } } }, 0)
     else .error .badValue) := by
  rw [ownDefaultEntry, if_neg (by omega), if_neg (by omega), if_pos part]
  simp only [setDefaultDeadAir, deadAirRange, argField_eq, decide_eq_true_eq]

/-- DEFAULT_ENTRY with a code that names no part (R119, log 31). -/
theorem ownDefaultEntry_unknown (part : partCode it = 0 ∨ 3 < partCode it) : ownDefaultEntry it s = .error .badValue := by
  rw [ownDefaultEntry, if_neg (by omega), if_neg (by omega), if_neg (by omega)]

end

end Sys2Proof.Machine

open Sys2Proof Sys2Proof.Machine in
/-- Settles O43: each owner's answer by the code it reads, then by the ranges of its fields. -/
theorem policyAndDefaults : Obligations.PolicyAndDefaults := by
  refine ⟨fun s it rest h => ⟨fun past => ?_, fun named => ?_⟩, fun s it rest h => ?_⟩
  · exact command_refused h h.isKind (ownHoldPolicy_past _ past)
  · exact ⟨_, command_done h h.isKind (ownHoldPolicy_named _ named), rfl,
      fun cls reason _ => policyHolds_replaced rfl cls reason⟩
  · intro a part target tolerance margin obligation service permille gapLimit limit d done refused
    have code : partCode it = part := partCode_eq it
    have ranged {n : Nat} {fits : Prop} [Decidable fits] {d : DefaultEntry} (named : part = n)
        (answer : ownDefaultEntry it (withQueue rest s) = if fits
          then .ok ({ withQueue rest s with su := { s.su with defaults := d } }, 0) else .error .badValue) :
        running s (carryOut (isDefaultPart n) ownDefaultEntry) = .next (if fits then done d else refused) := by
      have own := isDefaultPart_of h (.inl (code.trans named))
      split
      · exact command_done h own (answer.trans (if_pos ‹_›))
      · exact command_refused h own (answer.trans (if_neg ‹_›))
    have unnamed {n : Nat} (unknown : part = 0 ∨ 3 < part) :
        running s (carryOut (isDefaultPart n) ownDefaultEntry) = .next refused :=
      command_refused h (isDefaultPart_of h (.inr (code ▸ unknown))) (ownDefaultEntry_unknown it _ (code ▸ unknown))
    exact ⟨fun loudness => ranged loudness (ownDefaultEntry_loudness it _ (code.trans loudness)),
      fun caption => ranged caption (ownDefaultEntry_caption it _ (code.trans caption)),
      fun deadAir => ranged deadAir (ownDefaultEntry_deadAir it _ (code.trans deadAir)),
      fun unknown => ⟨unnamed unknown, unnamed unknown, unnamed unknown⟩⟩
end

section
set_option Elab.async false

namespace Sys2Proof.Machine

/-! ### Sorting -/

section

variable {α : Type} {before : α → α → Bool}

theorem insertBy_eq_orderedInsert (x : α) (l : List α) : insertBy before x l = l.orderedInsert (before · ·) x := by
  induction l with
  | nil => rfl
  | cons y ys ih => rw [insertBy, ih, List.orderedInsert_cons]

theorem sortBy_eq_insertionSort (l : List α) : sortBy before l = l.insertionSort (before · ·) := by
  induction l with
  | nil => rfl
  | cons x xs ih => rw [sortBy, insertBy_eq_orderedInsert, ih, List.insertionSort_cons]

theorem sortBy_perm (l : List α) : (sortBy before l).Perm l :=
  sortBy_eq_insertionSort l ▸ List.perm_insertionSort _ l

theorem insertBy_pairwise (asymm : ∀ x y, before x y = true → before y x = false)
    (trans : ∀ x y z, before y x = false → before z y = false → before z x = false) (x : α) {l : List α}
    (sorted : l.Pairwise fun y z => before z y = false) : (insertBy before x l).Pairwise fun y z => before z y = false := by
  induction l with
  | nil => exact List.pairwise_singleton ..
  | cons y ys ih =>
    obtain ⟨first, sorted⟩ := List.pairwise_cons.mp sorted
    rw [insertBy]
    split
    · rename_i ahead
      have head := asymm x y ahead
      exact .cons (List.forall_mem_cons.mpr ⟨head, fun z hz => trans x y z head (first z hz)⟩) (.cons first sorted)
    · rename_i behind
      refine .cons (fun z hz => ?_) (ih sorted)
      rw [insertBy_eq_orderedInsert, List.mem_orderedInsert] at hz
      rcases hz with rfl | hz
      · exact Bool.eq_false_iff.mpr behind
      · exact first z hz

/-- By a strict weak order nothing comes before an element that the sort places ahead of it. -/
theorem sortBy_pairwise (asymm : ∀ x y, before x y = true → before y x = false)
    (trans : ∀ x y z, before y x = false → before z y = false → before z x = false) (l : List α) :
    (sortBy before l).Pairwise fun y z => before z y = false := by
  induction l with
  | nil => exact .nil
  | cons x xs ih => exact insertBy_pairwise asymm trans x ih

end

/-! ### The order in which segments are treated (R146) -/

section

variable {now : Time} {table : List Segment}

theorem treatedBefore_iff {g h : Segment} : treatedBefore now g h = true
    ↔ rank now g < rank now h ∨ (rank now g = rank now h ∧ h.index < g.index) := by
  simp only [treatedBefore, Bool.or_eq_true, Bool.and_eq_true, decide_eq_true_eq, beq_iff_eq]

theorem not_treatedBefore_iff {g h : Segment} : treatedBefore now h g = false
    ↔ rank now g < rank now h ∨ (rank now g = rank now h ∧ h.index ≤ g.index) := by
  rw [← Bool.not_eq_true, treatedBefore_iff]
  omega

theorem mem_ranked {g : Segment} : g ∈ ranked now table ↔ g ∈ table ∧ g.state ≠ .free := by
  rw [ranked, (sortBy_perm _).mem_iff, List.mem_filter, bne_iff_ne]

theorem ranked_pairwise (now : Time) (table : List Segment) :
    (ranked now table).Pairwise fun g h => treatedBefore now h g = false := by
  refine sortBy_pairwise (fun g h ahead => ?_) (fun g h k gh hk => ?_) _
  · rw [treatedBefore_iff] at ahead
    rw [not_treatedBefore_iff]
    omega
  · rw [not_treatedBefore_iff] at *
    omega

/-- Segments that have indices of their own are treated in a strict order (R146). -/
theorem ranked_strict (indexed : ∀ (i : Nat) (g : Segment), table[i]? = some g → g.index = i) :
    (ranked now table).Pairwise fun g h => treatedBefore now g h = true := by
  have apart : table.Pairwise fun g h => g.index ≠ h.index := List.pairwise_iff_getElem.mpr fun i j hi hj lt => by
    rw [indexed i _ (List.getElem?_eq_getElem hi), indexed j _ (List.getElem?_eq_getElem hj)]
    exact lt.ne
  have own : (ranked now table).Pairwise fun g h => g.index ≠ h.index :=
    (sortBy_perm _).symm.pairwise (apart.sublist List.filter_sublist) Ne.symm
  refine ((ranked_pairwise now table).and own).imp fun {g h} ⟨order, ne⟩ => ?_
  rw [not_treatedBefore_iff] at order
  rw [treatedBefore_iff]
  omega

/-- The last of the ranked segments has the greatest rank (R146, R147). -/
theorem rank_le_of_getLast? {o g : Segment} (last : (ranked now table).getLast? = some o) (hg : g ∈ ranked now table) :
    rank now g ≤ rank now o := by
  obtain ⟨before, ranked_⟩ := List.getLast?_eq_some_iff.mp last
  have order := ranked_pairwise now table
  rw [ranked_] at hg order
  rcases List.mem_append.mp hg with hg | hg
  · obtain ⟨-, -, ahead⟩ := List.pairwise_append.mp order
    have behind := not_treatedBefore_iff.mp (ahead g hg o (List.mem_singleton_self o))
    omega
  · rw [List.mem_singleton.mp hg]

/-! ### The overlap set and the evidence of a request (R145 to R147) -/

variable {req : HoldRequest}

theorem mem_overlapSet {g : Segment} : g ∈ overlapSet now req table ↔ g ∈ table ∧ g.state ≠ .free
    ∧ (req.start - spanEnd now g).toInt ≤ 0 ∧ (g.start.getD now - req.finish).toInt ≤ 0 := by
  have notLater (a b : Time) : later a b = false ↔ (a - b).toInt ≤ 0 := decide_eq_false_iff_not.trans not_lt
  simp only [overlapSet, List.mem_filter, mem_ranked, overlaps, Bool.and_eq_true, Bool.not_eq_true', notLater, and_assoc]

/-- Equal ranks are equal starts (R42, R146). -/
theorem start_eq_of_rank_eq {g h : Segment} (same : rank now g = rank now h) : g.start.getD now = h.start.getD now :=
  sub_right_inj.mp (BitVec.toInt_inj.mp same)

/-- A request lacks evidence when no segment is in use, or it starts before the oldest that is (R147). -/
theorem evidenceMissing_iff : evidenceMissing now req table = true ↔ (∀ g ∈ table, g.state = .free)
    ∨ ∃ o ∈ table, o.state ≠ .free ∧ (req.start - o.start.getD now).toInt < 0
        ∧ ∀ g ∈ table, g.state ≠ .free → rank now g ≤ rank now o := by
  rw [evidenceMissing]
  cases last : (ranked now table).getLast? with
  | none =>
    have empty : ranked now table = [] := List.getLast?_eq_none_iff.mp last
    refine iff_of_true rfl (.inl fun g hg => ?_)
    by_contra used
    exact List.not_mem_nil (empty ▸ mem_ranked.mpr ⟨hg, used⟩)
  | some o =>
    obtain ⟨ho, used⟩ := mem_ranked.mp (List.mem_of_getLast? last)
    have oldest (g : Segment) (hg : g ∈ table) (used : g.state ≠ .free) : rank now g ≤ rank now o :=
      rank_le_of_getLast? last (mem_ranked.mpr ⟨hg, used⟩)
    have early : earlier req.start (o.start.getD now) = true ↔ (req.start - o.start.getD now).toInt < 0 := decide_eq_true_iff
    refine early.trans ⟨fun before => .inr ⟨o, ho, used, before, oldest⟩, ?_⟩
    rintro (idle | ⟨p, hp, inUse, before, greatest⟩)
    · exact absurd (idle o ho) used
    · rwa [start_eq_of_rank_eq (le_antisymm (greatest o ho used) (oldest p hp inUse))]

end

/-! ### A request is taken or ignored (R130, R145) -/

section

variable {s : State} {req : HoldRequest}

theorem takesRequests_iff : takesRequests s = true ↔ s.cu.mode ≠ .replay ∧ s.rc.table ≠ [] := by
  simp only [takesRequests, Bool.and_eq_true, bne_iff_ne, Bool.not_eq_true', List.isEmpty_eq_false_iff]

/-- In REPLAY and without a RECORD window a request changes nothing (R145). -/
theorem holdRequest_ignored (ignores : s.cu.mode = .replay ∨ s.rc.table = []) : holdRequest req s = s :=
  if_neg (by rw [takesRequests_iff]; tauto)

/-- A request that is taken is applied to its overlap set, and marks the records of its id when it lacks evidence (R130). -/
theorem holdRequest_taken (mode : s.cu.mode ≠ .replay) (window : s.rc.table ≠ []) : holdRequest req s
    = let missing := evidenceMissing s.tb.time req s.rc.table
      let applied := ((overlapSet s.tb.time req s.rc.table).map (·.index)).foldl (holdSegment req missing) s
      if missing then markEvidence req.id applied else applied :=
  if_pos (takesRequests_iff.mpr ⟨mode, window⟩)

/-! ### A request at one segment (R146) -/

variable {g : Segment} (missing : Bool) {i : Nat}

theorem holdSegment_free (found : s.rc.table[i]? = some g) (state : g.state = .free) : holdSegment req missing s i = s := by
  simp only [holdSegment, found, state]

/-- A CLOSED segment becomes HELD when there is room (R138, R146). -/
theorem holdSegment_closed (found : s.rc.table[i]? = some g) (state : g.state = .closed) : holdSegment req missing s i
    = if holdCount s.rc.table < s.rc.table.length - 2 then holdClosed g req.reason (some req) missing s
      else offer (.deniedRequest g.index req (holdCount s.rc.table) missing) s := by
  simp only [holdSegment, found, state, hasRoom, decide_eq_true_eq, Nat.lt_sub_iff_add_lt]

theorem holdSegment_joins (found : s.rc.table[i]? = some g)
    (state : g.state = .filling ∨ g.state = .held ∨ g.state = .exporting) :
    holdSegment req missing s i = joinReason g req.reason (some req) missing s := by
  rcases state with state | state | state <;> simp only [holdSegment, found, state]

theorem holdClosed_eq (reason : HoldReason) (asked : Option HoldRequest) : holdClosed g reason asked missing s
    = (let held : Segment := { g with state := .held, reasons := reason.set, blockedMark := false, beforeExportHeld := none }
       let table := s.rc.table.set g.index held
       offer (.holdPlaced held reason asked (holdCount table) missing) { s with rc := { s.rc with table := table } }) := rfl

theorem HoldReason.set_ne_zero (reason : HoldReason) : reason.set ≠ 0 := by cases reason <;> decide

theorem joinReason_known {reason : HoldReason} (known : g.reasons.getLsbD reason.code = true) (asked : Option HoldRequest) :
    joinReason g reason asked missing s = s := if_pos known

/-- A new reason joins; the before-export state of an EXPORT segment is then HELD (R137). -/
theorem joinReason_new {reason : HoldReason} (new : g.reasons.getLsbD reason.code = false) (asked : Option HoldRequest) :
    joinReason g reason asked missing s
      = (let joined : Segment := { g with
           reasons := g.reasons ||| reason.set, beforeExportHeld := if g.state = .exporting then some true else none }
         let table := s.rc.table.set g.index joined
         offer (.holdPlaced joined reason asked (holdCount table) missing) { s with rc := { s.rc with table := table } }) := by
  have some_ : (g.reasons ||| reason.set != 0) = true :=
    bne_iff_ne.mpr fun none_ => reason.set_ne_zero (BitVec.or_eq_zero_iff.mp none_).2
  refine (if_neg (Bool.eq_false_iff.mp new)).trans ?_
  simp only [withReasons, some_]
  rfl

end

end Sys2Proof.Machine

open Sys2Proof Sys2Proof.Machine in
/-- Settles O49: the request as a whole by its overlap set and its evidence, then its effect by the state of one segment. -/
theorem holdRequests : Obligations.HoldRequests := by
  refine ⟨fun s req => ?_, fun s req missing i g found index => ?_⟩
  · intro d stop set missing applied mark markSlot
    have applied_su : applied.su = s.su := by simp only [applied, holdFold_frame]
    refine ⟨holdRequest_ignored, fun mode window whole => ?_, fun mode window lacking => ?_, fun g => mem_overlapSet,
      fun indexed => ?_, evidenceMissing_iff⟩
    · exact (holdRequest_taken mode window).trans (if_neg (Bool.eq_false_iff.mp whole))
    · rw [← applied_su]
      exact (holdRequest_taken mode window).trans (if_pos lacking)
    · exact ((ranked_strict indexed).sublist List.filter_sublist).imp treatedBefore_iff.mp
  · subst index
    intro placed
    refine ⟨holdSegment_free missing found, fun closed room => ?_, fun closed full => ?_,
      fun used => ⟨fun known => ?_, fun new => ?_⟩⟩
    · exact (holdSegment_closed missing found closed).trans ((if_pos room).trans (holdClosed_eq ..))
    · exact (holdSegment_closed missing found closed).trans (if_neg full.not_gt)
    · exact (holdSegment_joins missing found used).trans (joinReason_known missing known _)
    · exact (holdSegment_joins missing found used).trans (joinReason_new missing new _)
end

section
set_option Elab.async false

namespace Sys2Proof.Machine

/-! ### The segment table under the change of one record (R137, R138) -/

/-- The clauses of `RecorderOk` that speak of the segment table alone. -/
structure TableOk (table : List Segment) : Prop where
  records : ∀ (i : Nat) (g : Segment), table[i]? = some g → g.index = i ∧ segmentOk g
  room : table ≠ [] → holdCount table + 2 ≤ table.length
  filling : table.countP isFilling ≤ 1

section

variable {s t : State} {table : List Segment} {f g h : Segment} {i : Nat}

theorem recorderOk_iff (s : State) : RecorderOk s ↔ TableOk s.rc.table
    ∧ ∀ p, s.rc.pendingExport = some p → ∃ g, s.rc.table[p.segment]? = some g ∧ isFilling g :=
  ⟨fun ⟨records, room, filling, export_⟩ => ⟨⟨records, room, filling⟩, export_⟩,
    fun ⟨⟨records, room, filling⟩, export_⟩ => ⟨records, room, filling, export_⟩⟩

/-- Only the recorder's own fields matter. -/
theorem RecorderOk.same (ok : RecorderOk s) (rc : t.rc = s.rc := by simp) : RecorderOk t := by
  unfold RecorderOk
  rw [rc]
  exact ok

/-- Either branch of a choice may be taken. -/
theorem RecorderOk.ite {c : Prop} [Decidable c] (hs : RecorderOk s) (ht : RecorderOk t) :
    RecorderOk (if c then s else t) := by split <;> assumption

theorem RecorderOk.indexed (ok : RecorderOk s) : ∀ (i : Nat) (g : Segment), s.rc.table[i]? = some g → g.index = i :=
  fun i g found => (ok.1 i g found).1

/-- A record stands at its own index. -/
theorem RecorderOk.found (ok : RecorderOk s) (at_ : s.rc.table[i]? = some g) : s.rc.table[g.index]? = some g := by
  rw [ok.indexed i g at_]
  exact at_

theorem RecorderOk.segment (ok : RecorderOk s) (at_ : s.rc.table[i]? = some g) : segmentOk g = true := (ok.1 i g at_).2

theorem isFilling_iff : isFilling g = true ↔ g.state = .filling := beq_iff_eq

theorem not_isFilling (state : g.state ≠ .filling) : isFilling g = false := beq_eq_false_iff_ne.mpr state

theorem hasRoom_iff : hasRoom table = true ↔ holdCount table + 2 < table.length := decide_eq_true_iff

/-- A count over a table after the change of one record. -/
theorem countP_set_add (p : Segment → Bool) (found : table[i]? = some g) (h : Segment) :
    (table.set i h).countP p + (if p g then 1 else 0) = table.countP p + if p h then 1 else 0 := by
  obtain ⟨there, rfl⟩ := List.getElem?_eq_some_iff.mp found
  have counted := List.boole_getElem_le_countP (p := p) there
  rw [List.countP_set there]
  omega

/-- A count stays within a bound when a record that joins it replaces one that was counted, or finds the count below the bound. -/
theorem countP_set_le {p : Segment → Bool} {n : Nat} (found : table[i]? = some g) (most : table.countP p ≤ n)
    (joins : p h = true → p g = true ∨ table.countP p < n) : (table.set i h).countP p ≤ n := by
  have count := countP_set_add p found h
  by_cases new : p h = true
  · rw [if_pos new] at count
    rcases joins new with was | below
    · rw [if_pos was] at count
      omega
    · omega
  · rw [if_neg new] at count
    omega

/-- A record may be replaced by one that agrees with its state, if a segment that becomes HELD or EXPORT finds room and one
that begins to fill finds no other. -/
theorem TableOk.set (ok : TableOk table) (found : table[i]? = some g) (index : h.index = i) (fits : segmentOk h = true)
    (room : isKept h = true → isKept g = true ∨ hasRoom table = true)
    (filling : isFilling h = true → isFilling g = true ∨ table.countP isFilling = 0) : TableOk (table.set i h) := by
  refine ⟨fun j k at_ => ?_, fun _ => ?_, ?_⟩
  · rw [List.getElem?_set] at at_
    split at at_
    · rename_i here
      split at at_
      · obtain rfl := Option.some.inj at_
        exact ⟨index.trans here, fits⟩
      · cases at_
    · exact ok.records j k at_
  · have before := ok.room (List.ne_nil_of_mem (List.mem_of_getElem? found))
    have most : holdCount (table.set i h) ≤ table.length - 2 :=
      countP_set_le found (Nat.le_sub_of_add_le before) fun kept =>
        (room kept).imp_right fun free => Nat.lt_sub_of_add_lt (hasRoom_iff.mp free)
    rw [List.length_set]
    omega
  · exact countP_set_le found ok.filling fun fills => (filling fills).imp_right Nat.lt_one_iff.mpr

/-- A record may be replaced by one that is FILLING exactly when it was, if a segment that becomes HELD or EXPORT finds room;
the pending export then still names the FILLING segment. -/
theorem RecorderOk.put (ok : RecorderOk s) (found : s.rc.table[h.index]? = some g) (fits : segmentOk h = true)
    (filling : isFilling h = isFilling g) (room : isKept h = true → isKept g = true ∨ hasRoom s.rc.table = true) :
    RecorderOk (putSegment h s) := by
  obtain ⟨table, export_⟩ := (recorderOk_iff s).mp ok
  refine (recorderOk_iff _).mpr ⟨table.set found rfl fits room fun fills => .inl (filling ▸ fills), fun p pending => ?_⟩
  obtain ⟨f, names, fills⟩ := export_ p pending
  by_cases same : h.index = p.segment
  · obtain rfl := Option.some.inj ((same ▸ found).symm.trans names)
    exact ⟨h, by simp [← same, (List.getElem?_eq_some_iff.mp found).1], filling.trans fills⟩
  · exact ⟨f, by simpa [same] using names, fills⟩

/-- With no segment FILLING no export is pending (R153). -/
theorem RecorderOk.pendingExport_none (ok : RecorderOk s) (idle : s.rc.table.countP isFilling = 0) :
    s.rc.pendingExport = none := by
  refine Option.eq_none_iff_forall_not_mem.mpr fun p pending => ?_
  obtain ⟨f, names, fills⟩ := ((recorderOk_iff s).mp ok).2 p pending
  exact List.countP_eq_zero.mp idle f (List.mem_of_getElem? names) fills

/-! ### The FILLING segment -/

/-- At most one segment is FILLING, so it is the one that is found. -/
theorem RecorderOk.fillingOf_eq (ok : RecorderOk s) (mem : f ∈ s.rc.table) (fills : f.state = .filling) :
    fillingOf s.rc.table = some f := by
  have few := ok.2.2.1
  have listed : f ∈ s.rc.table.filter isFilling := List.mem_filter.mpr ⟨mem, isFilling_iff.mpr fills⟩
  rw [List.countP_eq_length_filter] at few
  have alone : s.rc.table.filter isFilling = [f] := by
    obtain ⟨k, only⟩ := List.length_eq_one_iff.mp (few.antisymm (List.length_pos_of_mem listed))
    rw [only] at listed ⊢
    rw [List.mem_singleton.mp listed]
  exact (List.head?_filter ..).symm.trans (congrArg List.head? alone)

theorem fillingOf_none_iff : fillingOf table = none ↔ ∀ g ∈ table, g.state ≠ .filling := by
  simp only [fillingOf, List.find?_eq_none, beq_iff_eq, ne_eq]

/-- What is found is FILLING and stands at its index. -/
theorem RecorderOk.of_fillingOf (ok : RecorderOk s) (found : fillingOf s.rc.table = some f) :
    s.rc.table[f.index]? = some f ∧ f.state = .filling :=
  ⟨getElem?_of_indexed ok.indexed (List.mem_of_find?_eq_some found), isFilling_iff.mp (List.find?_some found)⟩

end

end Sys2Proof.Machine
end

section
set_option Elab.async false

namespace Sys2Proof.Machine

/-! ### Records that agree with their state (R137) -/

section

variable {s : State} {f g : Segment} {i : Nat}

theorem segmentOk_filling (state : g.state = .filling) : segmentOk g = true
    ↔ g.entries.length ≤ 4 ∧ g.start.isSome = true ∧ g.finish = none ∧ g.beforeExportHeld = none := by
  simp [segmentOk, state, and_assoc]

/-- A segment that has closed has a start and an end. -/
theorem segmentOk_ended (ok : segmentOk g = true) (state : g.state = .closed ∨ g.state = .held ∨ g.state = .exporting) :
    g.entries.length ≤ 4 ∧ g.start.isSome = true ∧ g.finish.isSome = true := by
  rcases state with state | state | state <;> simp only [segmentOk, state, Bool.and_eq_true, decide_eq_true_eq] at ok <;> tauto

/-- A segment enters a state with its start and end, HELD with reasons and CLOSED with none. -/
theorem withState_ok {state : SegState} (ended : g.entries.length ≤ 4 ∧ g.start.isSome = true ∧ g.finish.isSome = true)
    (reasons : (state = .closed ∧ g.reasons = 0) ∨ (state = .held ∧ g.reasons ≠ 0) ∨ state = .exporting) :
    segmentOk (withState state g) = true := by
  rcases reasons with ⟨rfl, none_⟩ | ⟨rfl, some_⟩ | rfl <;> simp_all [segmentOk, withState]

/-- A change of reasons leaves a HELD segment with some. -/
theorem withReasons_ok {set : ReasonSet} (ok : segmentOk g = true) (used : g.state ≠ .free ∧ g.state ≠ .closed)
    (held : g.state = .held → set ≠ 0) : segmentOk (withReasons set g) = true := by
  obtain ⟨notFree, notClosed⟩ := used
  cases state : g.state with
  | free => exact absurd state notFree
  | closed => exact absurd state notClosed
  | filling =>
    obtain ⟨entries, start, finish, -⟩ := (segmentOk_filling state).mp ok
    simp [segmentOk, withReasons, state, entries, start, finish]
  | held =>
    obtain ⟨entries, start, finish⟩ := segmentOk_ended ok (.inr (.inl state))
    have some_ : (set != 0) = true := bne_iff_ne.mpr (held state)
    simp only [segmentOk, withReasons, state, entries, start, finish, some_]
    rfl
  | exporting =>
    obtain ⟨entries, start, finish⟩ := segmentOk_ended ok (.inr (.inr state))
    simp [segmentOk, withReasons, state, entries, start, finish]

/-! ### What the recorder's operations on one segment keep (R138, R146, R150 to R154) -/

theorem joinReason_recorderOk (reason : HoldReason) (req : Option HoldRequest) (missing : Bool) (ok : RecorderOk s)
    (found : s.rc.table[g.index]? = some g) (used : g.state ≠ .free ∧ g.state ≠ .closed) :
    RecorderOk (joinReason g reason req missing s) := by
  have some_ : g.reasons ||| reason.set ≠ 0 := fun none_ => reason.set_ne_zero (BitVec.or_eq_zero_iff.mp none_).2
  unfold joinReason
  exact .ite ok ((ok.put (h := withReasons (g.reasons ||| reason.set) g) found
    (withReasons_ok (ok.segment found) used fun _ => some_) rfl .inl).same rfl)

theorem holdClosed_recorderOk (reason : HoldReason) (req : Option HoldRequest) (missing : Bool) (ok : RecorderOk s)
    (found : s.rc.table[g.index]? = some g) (closed : g.state = .closed) (room : hasRoom s.rc.table = true) :
    RecorderOk (holdClosed g reason req missing s) := by
  have ended := segmentOk_ended (ok.segment found) (.inl closed)
  have fits : segmentOk (withState .held { g with reasons := reason.set }) = true :=
    withState_ok ended (.inr (.inl ⟨rfl, reason.set_ne_zero⟩))
  have still : isFilling g = false := not_isFilling (by rw [closed]; decide)
  exact (ok.put (h := withState .held { g with reasons := reason.set }) found fits still.symm fun _ => .inr room).same rfl

theorem holdSegment_recorderOk (req : HoldRequest) (missing : Bool) (i : Nat) (ok : RecorderOk s) :
    RecorderOk (holdSegment req missing s i) := by
  unfold holdSegment
  split
  · exact ok
  · rename_i g at_
    have found := ok.found at_
    split
    · exact ok
    case h_5 closed =>
      split
      · exact holdClosed_recorderOk _ _ _ ok found closed ‹_›
      · exact ok.same
    all_goals exact joinReason_recorderOk _ _ _ ok found (by simp_all)

/-- A hold request leaves the segment table in order (R145 to R147). -/
theorem holdRequest_recorderOk (req : HoldRequest) (ok : RecorderOk s) : RecorderOk (holdRequest req s) := by
  have applied (missing : Bool) (l : List Nat) {s : State} (ok : RecorderOk s) :
      RecorderOk (l.foldl (holdSegment req missing) s) := by
    induction l generalizing s with
    | nil => exact ok
    | cons i l ih => exact ih (holdSegment_recorderOk req missing i ok)
  have held := applied (evidenceMissing s.tb.time req s.rc.table)
    ((overlapSet s.tb.time req s.rc.table).map (·.index)) ok
  exact .ite (.ite held.same held) ok

theorem releaseReasons_recorderOk (set : ReasonSet) (ok : RecorderOk s) (found : s.rc.table[g.index]? = some g)
    (state : g.state = .held ∨ g.state = .exporting) : RecorderOk (putSegment (releaseReasons set g) s) := by
  have kept : isKept g = true := (isKept_iff g).mpr state
  have ended := segmentOk_ended (ok.segment found) (.inr state)
  have still : isFilling g = false := not_isFilling (by rcases state with state | state <;> rw [state] <;> decide)
  unfold releaseReasons
  dsimp only
  split
  · rename_i emptied
    exact ok.put found (withState_ok ended (.inl ⟨rfl, emptied.2⟩)) still.symm fun _ => .inl kept
  · rename_i left
    refine ok.put found (withReasons_ok (ok.segment found) ?_ fun held none_ => left ⟨held, none_⟩) rfl fun _ => .inl kept
    rcases state with state | state <;> rw [state] <;> decide

theorem grantExport_recorderOk (it : CmdItem) (ok : RecorderOk s) (found : s.rc.table[g.index]? = some g)
    (state : g.state = .held ∨ (g.state = .closed ∧ hasRoom s.rc.table = true)) : RecorderOk (grantExport g it s) := by
  have ended := segmentOk_ended (ok.segment found) (by tauto)
  have still : isFilling g = false := not_isFilling (by rcases state with state | ⟨state, -⟩ <;> rw [state] <;> decide)
  exact (ok.put (h := withState .exporting g) found (withState_ok ended (.inr (.inr rfl))) still.symm fun _ =>
    state.imp (fun held => (isKept_iff g).mpr (.inl held)) And.right).same rfl

/-- A pending export is placed on the FILLING segment (R153). -/
theorem placeExport_recorderOk (it : CmdItem) (ok : RecorderOk s) (found : s.rc.table[g.index]? = some g)
    (filling : g.state = .filling) : RecorderOk (placeExport g it s) := by
  refine (recorderOk_iff _).mpr ⟨((recorderOk_iff s).mp ok).1, fun p pending => ?_⟩
  obtain rfl := Option.some.inj pending
  exact ⟨g, found, isFilling_iff.mpr filling⟩

/-- An EXPORT segment goes back to HELD when it has reasons, and to CLOSED when it has none (R154). -/
theorem exportReturns_recorderOk (ok : RecorderOk s) (found : s.rc.table[g.index]? = some g)
    (state : g.state = .exporting) : RecorderOk (putSegment (withState (returnState g) g) s) := by
  have segment := ok.segment found
  have before : g.beforeExportHeld = some (g.reasons != 0) := by
    simp only [segmentOk, state, Bool.and_eq_true, beq_iff_eq] at segment
    exact segment.2.2
  have returns : (returnState g = .closed ∧ g.reasons = 0) ∨ returnState g = .held ∧ g.reasons ≠ 0 := by
    by_cases none_ : g.reasons = 0
    · exact .inl ⟨by simp [returnState, before, none_], none_⟩
    · exact .inr ⟨if_pos (before.trans (congrArg some (bne_iff_ne.mpr none_))), none_⟩
  have still : isFilling g = false := not_isFilling (by rw [state]; decide)
  have ended : isFilling (withState (returnState g) g) = false := not_isFilling <| by
    rcases returns with ⟨back, -⟩ | ⟨back, -⟩ <;> rw [back] <;> exact nofun
  exact ok.put found (withState_ok (segmentOk_ended segment (.inr (.inr state))) (returns.imp_right .inl))
    (ended.trans still.symm) fun _ => .inl ((isKept_iff g).mpr (.inr state))

/-! ### Blocked writes (R140) -/

/-- Blocked writes are counted at kept segments, which stay what they are. -/
theorem countBlocked_recorderOk (r : Request) (l : List Nat) (ok : RecorderOk s)
    (kept : ∀ i ∈ l, ∀ g, s.rc.table[i]? = some g → isKept g = true) : RecorderOk (l.foldl (countBlocked r) s) := by
  induction l generalizing s with
  | nil => exact ok
  | cons i l ih =>
    rw [List.foldl_cons]
    cases at_ : s.rc.table[i]? with
    | none =>
      have nothing : countBlocked r s i = s := by simp only [countBlocked, at_]
      rw [nothing]
      exact ih ok fun j hj => kept j (List.mem_cons_of_mem _ hj)
    | some g =>
      have keeps := kept i List.mem_cons_self g at_
      obtain rfl := ok.indexed i g at_
      have rc : (countBlocked r s g.index).rc = (putSegment (counted g) s).rc := by rw [countBlocked_found r at_]; rfl
      have fits : segmentOk (counted g) = true := by
        have segment := ok.segment at_
        rcases (isKept_iff g).mp keeps with state | state <;> simpa [segmentOk, counted, state] using segment
      refine ih (.same (ok.put (h := counted g) at_ fits rfl .inl) rc) fun j hj k there => ?_
      rw [rc, putSegment_rc, List.getElem?_set] at there
      split at there
      · split at there
        · obtain rfl := Option.some.inj there
          exact keeps
        · cases there
      · exact kept j (List.mem_cons_of_mem _ hj) k there

theorem blockRecordWrite_recorderOk (r : Request) (ts : List Touch) (ok : RecorderOk s) :
    RecorderOk (blockRecordWrite r ts s) := by
  refine countBlocked_recorderOk r _ ok fun i hi g at_ => ?_
  obtain ⟨h, hh, rfl⟩ := List.mem_map.mp hi
  obtain ⟨mem, -, keeps⟩ := mem_blockers.mp hh
  rw [getElem?_of_indexed ok.indexed mem] at at_
  exact Option.some.inj at_ ▸ keeps

/-! ### The FILLING segment closes, and another begins to fill (R142, R143) -/

/-- The states in which the FILLING segment can close (R143). -/
theorem closeStateOf_cases (g : Segment) (s : State) : closeStateOf g s = .closed
    ∨ (closeStateOf g s = .held ∧ g.reasons ≠ 0 ∧ hasRoom s.rc.table = true)
    ∨ (closeStateOf g s = .exporting ∧ hasRoom s.rc.table = true) := by
  unfold closeStateOf closeState
  split
  · split
    · exact .inr (.inr ⟨rfl, ‹_›⟩)
    · exact .inl rfl
  · split
    · exact .inl rfl
    · split
      · exact .inr (.inl ⟨rfl, ‹_›, ‹_›⟩)
      · exact .inl rfl

theorem closedSegment_ok (ok : segmentOk g = true) (filling : g.state = .filling) :
    segmentOk (closedSegment g s) = true ∧ isFilling (closedSegment g s) = false
      ∧ (isKept (closedSegment g s) = true → hasRoom s.rc.table = true) := by
  obtain ⟨entries, start, -, -⟩ := (segmentOk_filling filling).mp ok
  unfold closedSegment
  rcases closeStateOf_cases g s with state | ⟨state, some_, room⟩ | ⟨state, room⟩ <;> rw [state]
  · exact ⟨withState_ok ⟨entries, start, rfl⟩ (.inl ⟨rfl, rfl⟩), rfl, nofun⟩
  · exact ⟨withState_ok ⟨entries, start, rfl⟩ (.inr (.inl ⟨rfl, some_⟩)), rfl, fun _ => room⟩
  · exact ⟨withState_ok ⟨entries, start, rfl⟩ (.inr (.inr rfl)), rfl, fun _ => room⟩

/-- The recorder after a close: the record is put in its place, and an export pending for it is pending no more. -/
theorem closeFilling_rc (g : Segment) (s : State) : (closeFilling g s).rc
    = ⟨s.rc.table.set g.index (closedSegment g s),
        if (exportOf g s).isSome then none else s.rc.pendingExport⟩ := by
  simp only [closeFilling, reportClose_frame, dropExport, apply_ite State.rc]
  change (if (exportOf g s).isSome = true then _ else _) = _
  split <;> rfl

/-- After the close of the FILLING segment no segment is FILLING and no export pends (R143, R153). -/
theorem closeFilling_recorderOk (ok : RecorderOk s) (found : s.rc.table[g.index]? = some f) (was : f.state = .filling)
    (fits : segmentOk g = true) (filling : g.state = .filling) :
    RecorderOk (closeFilling g s) ∧ (closeFilling g s).rc.table.countP isFilling = 0 := by
  obtain ⟨table, export_⟩ := (recorderOk_iff s).mp ok
  obtain ⟨closed, ended, room⟩ := closedSegment_ok (s := s) fits filling
  have table' : TableOk (s.rc.table.set g.index (closedSegment g s)) :=
    table.set found rfl closed (.inr ∘ room) fun fills => absurd fills (by simp [ended])
  have none_ : (s.rc.table.set g.index (closedSegment g s)).countP isFilling = 0 := by
    have count := countP_set_add isFilling found (closedSegment g s)
    have few := table.filling
    rw [if_pos (isFilling_iff.mpr was), if_neg (Bool.eq_false_iff.mp ended)] at count
    omega
  refine ⟨(recorderOk_iff _).mpr ?_, ?_⟩ <;> rw [closeFilling_rc]
  · refine ⟨table', fun p pending => ?_⟩
    dsimp only at pending
    split at pending
    · cases pending
    · rename_i other
      obtain ⟨k, names, fills⟩ := export_ p pending
      refine absurd ?_ other
      have same := ok.fillingOf_eq (List.mem_of_getElem? names) (isFilling_iff.mp fills)
      rw [ok.fillingOf_eq (List.mem_of_getElem? found) was, Option.some.injEq] at same
      have here : p.segment = g.index := by
        rw [← ok.indexed _ _ names, ← same, ok.indexed _ _ found]
      simp [exportOf, pending, here]
  · exact none_

/-- A segment begins to fill where no other is FILLING (R142). -/
theorem startSegment_recorderOk (ts : List Touch) (ok : RecorderOk s) (idle : s.rc.table.countP isFilling = 0)
    (there : i < s.rc.table.length) : RecorderOk (putSegment (startSegment ts i s) s) := by
  obtain ⟨table, -⟩ := (recorderOk_iff s).mp ok
  have fits : segmentOk (startSegment ts i s) = true := by
    refine (segmentOk_filling rfl).mpr ⟨?_, rfl, rfl, rfl⟩
    cases entry : openId s <;> simp [startSegment, entry]
  refine (recorderOk_iff _).mpr ⟨table.set (List.getElem?_eq_getElem there) rfl fits nofun fun _ => .inr idle, ?_⟩
  intro p pending
  cases (ok.pendingExport_none idle).symm.trans pending

theorem capture_recorderOk (ts : List Touch) (ok : RecorderOk s) : RecorderOk (capture ts s) := by
  have added {g : Segment} (at_ : s.rc.table[g.index]? = some g) (filling : g.state = .filling) :
      segmentOk (addBytes ts g) = true :=
    (segmentOk_filling (g := addBytes ts g) filling).mpr ((segmentOk_filling filling).mp (ok.segment at_))
  unfold capture
  split
  · exact ok
  · rename_i last _
    split
    · exact ok
    · rename_i g at_
      have found := ok.found at_
      have there := (List.getElem?_eq_some_iff.mp at_).1
      dsimp only
      split
      · rename_i filling
        exact ok.put (h := addBytes ts g) found (added found filling) rfl .inl
      · split
        · rename_i f filled
          obtain ⟨stands, filling⟩ := ok.of_fillingOf filled
          obtain ⟨closed, idle⟩ :=
            closeFilling_recorderOk (g := addBytes ts f) ok stands filling (added stands filling) filling
          exact startSegment_recorderOk ts closed idle (by simpa [closeFilling_rc] using there)
        · rename_i idle
          refine startSegment_recorderOk ts ok (List.countP_eq_zero.mpr fun f mem => ?_) there
          rw [isFilling_iff]
          exact fillingOf_none_iff.mp idle f mem

/-! ### What the FILLING segment takes from the air (R144) -/

/-- A record of the FILLING segment with another entry list of at most four ids, or another maximum short-term. -/
theorem putFilling_recorderOk {entries : List EntryId} {more : Bool} {maxShortTerm : Option Int} (ok : RecorderOk s)
    (filled : fillingOf s.rc.table = some g) (few : entries.length ≤ 4) :
    RecorderOk (putSegment { g with entries := entries, more := more, maxShortTerm := maxShortTerm } s) := by
  obtain ⟨found, filling⟩ := ok.of_fillingOf filled
  obtain ⟨-, rest⟩ := (segmentOk_filling filling).mp (ok.segment found)
  exact ok.put (h := { g with entries := entries, more := more, maxShortTerm := maxShortTerm }) found
    ((segmentOk_filling (g := { g with entries := entries, more := more, maxShortTerm := maxShortTerm }) filling).mpr
      ⟨few, rest⟩) rfl .inl

theorem noteOpening_recorderOk (id : EntryId) (ok : RecorderOk s) : RecorderOk (noteOpening id s) := by
  unfold noteOpening
  refine .ite ?_ ok
  split
  · rename_i g filled
    obtain ⟨found, filling⟩ := ok.of_fillingOf filled
    split
    · rename_i few
      exact putFilling_recorderOk ok filled (by simpa using few)
    · exact putFilling_recorderOk ok filled ((segmentOk_filling filling).mp (ok.segment found)).1
  · exact ok

theorem noteShortTerm_recorderOk (ok : RecorderOk s) : RecorderOk (noteShortTerm s) := by
  unfold noteShortTerm
  refine .ite ?_ ok
  split
  · rename_i g l filled _
    obtain ⟨found, filling⟩ := ok.of_fillingOf filled
    exact putFilling_recorderOk ok filled ((segmentOk_filling filling).mp (ok.segment found)).1
  · exact ok

end

end Sys2Proof.Machine
end

section
set_option Elab.async false

namespace Sys2Proof.Machine

/-! ### What every event keeps of the segment table -/

section

variable {s : State}

theorem RecorderOk.repeatStep {f : State → State} (keeps : ∀ {s}, RecorderOk s → RecorderOk (f s)) (n : Nat)
    (ok : RecorderOk s) : RecorderOk (Machine.repeatStep f n s) := by
  induction n generalizing s with
  | zero => exact ok
  | succ n ih => exact ih (keeps ok)

/-! #### The schedule unit -/

theorem buildVerdict_recorderOk (c : ClosedEntry) (ungated integrated : Option Int) (ok : RecorderOk s) :
    RecorderOk (buildVerdict c ungated integrated s) := by
  unfold buildVerdict
  exact .ite ((holdRequest_recorderOk (loudnessHold c) ok).same rfl) (ok.same rfl)

theorem openOne_recorderOk (e : Entry) (start : Time) (cause : Cause) (early : Bool) (rest : List Entry)
    (ok : RecorderOk s) : RecorderOk (openOne e start cause early rest s) :=
  (noteOpening_recorderOk e.id ok).same (openOne_rc ..)

theorem cascade_recorderOk (atStart : Bool) (l : List Entry) (ok : RecorderOk s) : RecorderOk (cascade atStart l s) := by
  induction l generalizing s with
  | nil => exact ok.same rfl
  | cons e rest ih => exact .ite (ih (openOne_recorderOk _ _ _ _ _ ok)) ok.same

theorem openHead_recorderOk (start : Time) (cause : Cause) (early : Bool) (ok : RecorderOk s) :
    RecorderOk (openHead start cause early s) := by
  unfold openHead
  split
  · exact ok
  · exact cascade_recorderOk _ _ (openOne_recorderOk _ _ _ _ _ ok)

theorem takeFiring_recorderOk (ok : RecorderOk s) : RecorderOk (takeFiring s) := by
  unfold takeFiring
  split
  · exact ok
  · exact openHead_recorderOk _ _ _ (ok.same rfl)

theorem judgeCue_recorderOk (captured : Time) (ok : RecorderOk s) : RecorderOk (judgeCue captured s) := by
  unfold judgeCue
  split
  · exact ok.same
  · exact .ite (openHead_recorderOk _ _ _ ok) ok.same

theorem takeCue_recorderOk (ok : RecorderOk s) : RecorderOk (takeCue s) := by
  unfold takeCue
  split
  · exact ok
  · exact judgeCue_recorderOk _ (ok.same rfl)

theorem takeCues_recorderOk (l : List Time) (ok : RecorderOk s) : RecorderOk (takeCues l s) := by
  induction l generalizing s with
  | nil => exact ok
  | cons captured rest ih => exact ih (judgeCue_recorderOk captured (ok.same rfl))

theorem completeScan_recorderOk (bank : Bank) (ok : RecorderOk s) : RecorderOk (completeScan bank s) := by
  unfold completeScan
  split
  · exact ok
  · rename_i slot _
    have built := buildVerdict_recorderOk slot.closed (scanValues (bankOf s.ag bank).counts).1
      (scanValues (bankOf s.ag bank).counts).2 ok
    exact built.same

theorem forceScans_recorderOk (expired : Option ClosingSlot → Bool) (ok : RecorderOk s) :
    RecorderOk (forceScans expired s) := by
  have first : RecorderOk (if expired s.su.slotA then completeScan .a s else s) := .ite (completeScan_recorderOk .a ok) ok
  exact .ite (completeScan_recorderOk .b first) first

theorem commitEntry_recorderOk (e : Entry) (ok : RecorderOk s) : RecorderOk (commitEntry e s) := by
  unfold commitEntry
  exact .ite (.ite (openHead_recorderOk _ _ _ (ok.same rfl)) (ok.same rfl)) (ok.same rfl)

/-! #### Episodes that ask for a hold -/

theorem askHold_recorderOk (e : OpenEntry) (reason : HoldReason) (start : Time) (ok : RecorderOk s) :
    RecorderOk (askHold e reason start s) := .ite (holdRequest_recorderOk _ ok) ok

theorem activityTick_recorderOk (ok : RecorderOk s) : RecorderOk (activityTick s) := by
  have begins {s : State} (ok : RecorderOk s) : RecorderOk (beginDeadAir s) := by
    unfold beginDeadAir
    split
    · exact ok
    · exact askHold_recorderOk _ _ _ (ok.same rfl)
  unfold activityTick
  exact .ite (.ite (begins (ok.same rfl)) (ok.same rfl)) ok

theorem captionTick_recorderOk (ok : RecorderOk s) : RecorderOk (captionTick s) := by
  have begins {s : State} (ok : RecorderOk s) : RecorderOk (beginGap s) := by
    unfold beginGap
    split
    · exact ok
    · exact askHold_recorderOk _ _ _ (ok.same rfl)
  unfold captionTick
  exact .ite (.ite (begins (ok.same rfl)) (ok.same rfl)) ok

theorem shortTermStep_recorderOk (ok : RecorderOk s) : RecorderOk (shortTermStep s) := by
  have ceiling (level : Int) {s : State} (ok : RecorderOk s) : RecorderOk (checkCeiling level s) := by
    unfold checkCeiling
    split
    · exact ok
    · exact .ite (.ite (ok.same rfl) (askHold_recorderOk _ _ _ (ok.same rfl))) ok
  unfold shortTermStep
  dsimp only
  split
  · exact .ite (ceiling _ (ok.same rfl)) (ok.same rfl)
  · exact ok.same rfl

theorem completeSubBlock_recorderOk (ok : RecorderOk s) : RecorderOk (completeSubBlock s) := by
  have tail (b : SubBlock) {s : State} (ok : RecorderOk s) : RecorderOk (completionTail b s) := by
    have levels : RecorderOk (momentaryStep
      (modifyOpen (fun e => mergePeaks b { e with subBlocks := satAdd e.subBlocks 1 }) s)) := ok.same
    exact (noteShortTerm_recorderOk (shortTermStep_recorderOk levels)).same (by simp [completionTail])
  unfold completeSubBlock
  split
  · exact .ite (tail _ (ok.same rfl)) ok
  · exact ok

/-! #### Ticks and edges -/

theorem takeActivityTick_recorderOk (ok : RecorderOk s) : RecorderOk (takeActivityTick s) :=
  .ite (activityTick_recorderOk (ok.same rfl)) ok

theorem takeCaptionTick_recorderOk (ok : RecorderOk s) : RecorderOk (takeCaptionTick s) :=
  .ite (captionTick_recorderOk (ok.same rfl)) ok

theorem takeOwedTicks_recorderOk (ok : RecorderOk s) : RecorderOk (takeOwedTicks s) :=
  .same (takeCaptionTick_recorderOk (takeActivityTick_recorderOk (ok.same (t := takeObserverTick s))))
    (by simp [takeOwedTicks])

theorem takeOffers_recorderOk (ok : RecorderOk s) : RecorderOk (takeOffers s) :=
  takeCues_recorderOk _ (takeFiring_recorderOk (takeOwedTicks_recorderOk ok))

theorem offerTick_recorderOk (later : TickSet) (ok : RecorderOk s) : RecorderOk (offerTick later s) :=
  .same (takeOwedTicks_recorderOk (ok.same (t := setOwed _ s))) rfl

theorem tickEvent_recorderOk (cueHigh : Bool) (later : TickSet) (ok : RecorderOk s) :
    RecorderOk (tickEvent cueHigh later s) :=
  offerTick_recorderOk later (.same (forceScans_recorderOk tickExpired (takeOffers_recorderOk ok)) rfl)

theorem passEdges_recorderOk (n : Nat) (ok : RecorderOk s) : RecorderOk (passEdges n s) := by
  unfold passEdges
  exact .same (forceScans_recorderOk (edgeExpired n) (.ite (completeScan_recorderOk .b ok) ok)) rfl

theorem edgeEvent_recorderOk (cueHigh : Bool) (later : TickSet) (ok : RecorderOk s) :
    RecorderOk (edgeEvent cueHigh later s) := by
  have passed := passEdges_recorderOk 1 ok
  exact .ite passed (.ite (passed.same rfl) (tickEvent_recorderOk cueHigh later (passed.same rfl)))

theorem takeFrameTick_recorderOk (later : TickSet) (ok : RecorderOk s) : RecorderOk (takeFrameTick later s) :=
  .ite (tickEvent_recorderOk false later (ok.same rfl)) ok

theorem tickRow_recorderOk (cueHigh : Bool) (later : TickSet) (ok : RecorderOk s) :
    RecorderOk (tickRow cueHigh later s) :=
  .ite (takeFrameTick_recorderOk later ok) (tickEvent_recorderOk cueHigh later ((passEdges_recorderOk _ ok).same rfl))

theorem settleWord_recorderOk (ok : RecorderOk s) : RecorderOk (settleWord s) :=
  takeFrameTick_recorderOk .none (completeSubBlock_recorderOk ok)

theorem drainOffers_recorderOk (ok : RecorderOk s) : RecorderOk (drainOffers s) := by
  have audio {s : State} (ok : RecorderOk s) : RecorderOk (takeAudio s) := by
    have settled := settleWord_recorderOk ok
    unfold takeAudio
    dsimp only
    split
    · exact settled
    · exact settled.same
  exact takeOffers_recorderOk (.repeatStep .same _ (settleWord_recorderOk (.repeatStep audio _ ok)))

/-! #### Changes of mode, requests and windows -/

theorem startMode_recorderOk (m : Mode) (ok : RecorderOk s) : RecorderOk (startMode m s) :=
  cascade_recorderOk _ _ (openOne_recorderOk _ _ _ _ _ (ok.same rfl))

/-- With the pending export gone the table stands as it was (R33, R136). -/
theorem restartPart_recorderOk (ok : RecorderOk s) : RecorderOk (restartPart s) := by
  rw [recorderOk_iff, restartPart_rc]
  exact ⟨((recorderOk_iff s).mp ok).1, nofun⟩

theorem takeRequest_recorderOk (r : Request) (ok : RecorderOk s) : RecorderOk (takeRequest r s) := by
  unfold takeRequest
  split
  · exact ok.same
  · exact ok.same
  · unfold presentWrite
    exact .ite ((blockRecordWrite_recorderOk r _ (ok.same (t := chargeBlock _ s))).same rfl)
      (RecorderOk.same (.ite (capture_recorderOk _ ok) ok) rfl)

/-- A new table of at least four FREE records is in order (R4, R136). -/
theorem newTable_ok {n : Nat} (size : 4 ≤ n) : TableOk (newTable n) := by
  have free : ∀ g ∈ newTable n, isKept g = false ∧ isFilling g = false := by
    intro g mem
    obtain ⟨i, -, rfl⟩ := List.mem_map.mp mem
    exact ⟨rfl, rfl⟩
  have kept : holdCount (newTable n) = 0 := List.countP_eq_zero.mpr fun g mem => by simp [free g mem]
  have filling : (newTable n).countP isFilling = 0 := List.countP_eq_zero.mpr fun g mem => by simp [free g mem]
  refine ⟨fun i g at_ => ?_, fun _ => ?_, by omega⟩
  · simp only [newTable, List.getElem?_map, Option.map_eq_some_iff] at at_
    obtain ⟨j, hj, rfl⟩ := at_
    obtain ⟨-, rfl⟩ := List.getElem?_eq_some_iff.mp hj
    simp [freeSegment, segmentOk]
  · rw [kept]
    simp [newTable]
    omega

theorem recordWindowChanged_ok {new : Option Window} (size : ∀ w, new = some w → 4 ≤ w.segCount) {t : State}
    (rc : t.rc = recordWindowChanged new) : RecorderOk t := by
  rw [recorderOk_iff, rc]
  refine ⟨?_, nofun⟩
  cases new with
  | none => exact ⟨nofun, fun h => absurd rfl h, Nat.zero_le _⟩
  | some w => exact newTable_ok (size w rfl)

theorem ownWindow_recorderOk {it : CmdItem} {t : State} {n : Nat} (h : ownWindow it s = .ok (t, n)) (ok : RecorderOk s) :
    RecorderOk t := by
  have commit (slot : Nat) (new : Option Window) (size : ∀ w, new = some w → w.kind = .record → 4 ≤ w.segCount) :
      RecorderOk (commitWindow slot new s) := by
    have rc := commitWindow_rc slot new s
    split at rc
    · refine recordWindowChanged_ok (fun w hw => ?_) rc
      obtain ⟨new, kind⟩ := Option.filter_eq_some_iff.mp hw
      exact size w new (beq_iff_eq.mp kind)
    · exact ok.same rc
  obtain ⟨-, -, -, -, ⟨-, rfl⟩ | ⟨k, -, descriptor, -, rfl⟩⟩ := ownWindow_ok h
  · exact commit _ _ nofun
  · refine commit _ _ fun w hw kind => ?_
    obtain rfl := Option.some.inj hw
    obtain rfl : k = .record := kind
    simp only [descriptorOk, kindSizeOk, Bool.and_eq_true, decide_eq_true_eq] at descriptor
    exact descriptor.1.2.1.1.1.1

theorem keeps_recorderOk : Keeps RecorderOk where
  pending _ _ ok := ok.same rfl
  lineReset _ := recordWindowChanged_ok (new := none) nofun rfl
  release _ _ _ ok := ok.same rfl
  complete _ ok := completeSubBlock_recorderOk ok
  frameTick _ later ok := takeFrameTick_recorderOk later ok
  request _ r _ ok := takeRequest_recorderOk r ok
  answer _ _ ok := ok.same
  issue _ ok := ok.same rfl
  completion _ _ _ _ _ _ ok := ok.same
  ownOffer _ ok := ok.same
  ownCompletion _ ok := ok.same
  beat _ ok := ok.same
  pop _ ok := ok.same
  offer _ _ ok := ok.same
  drain _ ok := drainOffers_recorderOk ok
  stop _ _ ok := .same (drainOffers_recorderOk ok)
  start _ m _ _ _ ok := startMode_recorderOk m (drainOffers_recorderOk ok)
  restart _ ok := restartPart_recorderOk (drainOffers_recorderOk ok)
  controlMask _ _ ok := ok.same rfl
  setTime _ _ _ ok := ok.same rfl
  setPrescale _ _ _ _ _ ok := ok.same rfl
  cueSet _ _ _ _ _ _ ok := ok.same rfl
  lineForce _ _ ok := ok.same rfl
  readIndex _ _ _ _ _ _ ok := ok.same rfl
  enable _ _ ok := ok.same rfl
  disable _ _ ok := ok.same rfl
  acknowledge _ _ ok := ok.same rfl
  entry _ _ e _ _ _ _ ok := commitEntry_recorderOk e ok
  cancel _ _ ok := .ite (ok.same rfl) (ok.same rfl)
  judgeCue _ t _ ok := judgeCue_recorderOk t ok
  policy _ _ ok := ok.same rfl
  defaults _ _ ok := ok.same rfl
  overrides _ _ ok := ok.same rfl
  filter _ _ _ _ _ _ _ ok := ok.same rfl
  activitySet _ _ _ _ _ ok := ok.same rfl
  hold _ _ _ _ _ at_ ho ok := by
    obtain ⟨-, ⟨used, ended, rfl⟩ | ⟨closed, room, rfl⟩⟩ := holdOn_ok ho
    · exact joinReason_recorderOk _ _ _ ok (ok.found at_) ⟨used, ended⟩
    · exact holdClosed_recorderOk _ _ _ ok (ok.found at_) closed room
  release_ _ _ _ _ _ at_ ho ok := by
    obtain ⟨-, -, ⟨-, rfl⟩ | ⟨state, rfl⟩⟩ := releaseOn_ok ho
    · exact ok
    · exact releaseReasons_recorderOk _ ok (ok.found at_) state
  export_ _ _ _ it _ at_ ho ok := by
    obtain ⟨-, ⟨state, rfl⟩ | ⟨filling, -, rfl⟩⟩ := exportOn_ok ho
    · exact grantExport_recorderOk it ok (ok.found at_) state
    · exact placeExport_recorderOk it ok (ok.found at_) filling
  exportDone _ _ _ _ _ at_ ho ok := by
    obtain ⟨-, state, rfl⟩ := exportDoneOn_ok ho
    exact exportReturns_recorderOk ok (ok.found at_) state
  window _ _ _ ho ok := ownWindow_recorderOk ho ok
  tick _ cueHigh later ok := tickRow_recorderOk cueHigh later ok
  edge _ cueHigh later ok := edgeEvent_recorderOk cueHigh later ok
  cue _ ok := takeCue_recorderOk ok
  firing _ ok := takeFiring_recorderOk ok
  observerTick _ ok := ok.same
  activityTick _ ok := takeActivityTick_recorderOk ok
  captionTick _ ok := takeCaptionTick_recorderOk ok
  reportTick _ ok := ok.same
  item _ _ ok := ok.same
  captionBeat _ ok := ok.same
  scan _ bank ok := completeScan_recorderOk bank ok
  lay _ ok := ok.same
  compose _ ok := ok.same

end

end Sys2Proof.Machine

open Sys2Proof Sys2Proof.Machine in
/-- Settles O58: each event replaces one record at a time by one that agrees with its state, a segment becomes HELD or EXPORT
only where there is room, and the FILLING segment closes with its pending export before another begins to fill. -/
theorem stepKeepsRecorder : Obligations.StepKeepsRecorder := fun _ _ ok h => keeps_recorderOk.step h ok
end

section
set_option Elab.async false

namespace Sys2Proof.Machine

/-! ### HOLD and RELEASE_HOLD on a segment (R150, R151) -/

section

variable {g : Segment} (it : CmdItem) (s : State)

theorem reasonSetArg_eq : reasonSetArg it = it.arg.extractLsb' 8 5 := ofNat_argField ..

theorem holdOn_free (state : g.state = .free) : holdOn g it s = .error .segmentState := by
  simp only [holdOn, state]

theorem holdOn_closed (state : g.state = .closed) : holdOn g it s =
    if holdCount s.rc.table < s.rc.table.length - 2 then .ok (holdClosed g .manual none false s, 0)
    else .error .holdLimit := by
  simp only [holdOn, state, hasRoom, decide_eq_true_eq, Nat.lt_sub_iff_add_lt]

theorem holdOn_joins (state : g.state = .filling ∨ g.state = .held ∨ g.state = .exporting) :
    holdOn g it s = .ok (joinReason g .manual none false s, 0) := by
  rcases state with state | state | state <;> simp only [holdOn, state]

variable {it}

/-- A RELEASE_HOLD that names no reason (R151, R174). -/
theorem releaseOn_nothing (set : it.arg.extractLsb' 8 5 = 0) : releaseOn g it s = .error .badValue :=
  if_pos ((reasonSetArg_eq it).trans set)

variable (set : it.arg.extractLsb' 8 5 ≠ 0)
include set

theorem releaseOn_refuses (state : g.state = .free ∨ g.state = .filling) : releaseOn g it s = .error .segmentState := by
  rw [releaseOn, reasonSetArg_eq, if_neg set]
  rcases state with state | state <;> simp only [state]

theorem releaseOn_closed (state : g.state = .closed) : releaseOn g it s = .ok (s, 0) := by
  simp only [releaseOn, reasonSetArg_eq, if_neg set, state]

theorem releaseOn_kept (state : g.state = .held ∨ g.state = .exporting) :
    releaseOn g it s = .ok (putSegment (releaseReasons (it.arg.extractLsb' 8 5) g) s, 0) := by
  rw [releaseOn, reasonSetArg_eq, if_neg set]
  rcases state with state | state <;> simp only [state]

end

section

variable {g : Segment} {set : ReasonSet}

/-- A HELD segment with reasons left stays HELD (R151). -/
theorem releaseReasons_some (state : g.state = .held) (left : g.reasons &&& ~~~set ≠ 0) :
    releaseReasons set g = { g with reasons := g.reasons &&& ~~~set, beforeExportHeld := none } := by
  have stays : releaseReasons set g = withReasons (g.reasons &&& ~~~set) g := if_neg fun emptied => left emptied.2
  rw [stays, withReasons, if_neg (by rw [state]; decide)]

/-- A HELD segment with no reason left is CLOSED (R151). -/
theorem releaseReasons_none (state : g.state = .held) (left : g.reasons &&& ~~~set = 0) :
    releaseReasons set g
      = { g with state := .closed, reasons := 0, blockedMark := false, beforeExportHeld := none } := by
  have closes : releaseReasons set g = withState .closed (withReasons (g.reasons &&& ~~~set) g) := if_pos ⟨state, left⟩
  rw [closes, left]
  rfl

/-- An EXPORT segment stays, and its before-export state follows its reasons (R137, R151). -/
theorem releaseReasons_exporting (state : g.state = .exporting) :
    releaseReasons set g = { g with
      reasons := g.reasons &&& ~~~set, beforeExportHeld := some (g.reasons &&& ~~~set != 0) } := by
  have stays : releaseReasons set g = withReasons (g.reasons &&& ~~~set) g :=
    if_neg fun held => absurd (state.symm.trans held.1) (by decide)
  rw [stays, withReasons, if_pos state]

end

end Sys2Proof.Machine

open Sys2Proof Sys2Proof.Machine in
/-- Settles O50: the privilege and the index pass, and the state of the named segment decides. -/
theorem holdAndRelease : Obligations.HoldAndRelease := by
  constructor
  · intro s it rest g h allowed named _ q done refused placed
    have on : ownHold it q = holdOn g it q := archiveCommand_named allowed named
    have refuse {reason : Reason} (answer : holdOn g it q = .error reason) : exec .hold s = .next (refused reason) :=
      command_refused h h.isKind (on.trans answer)
    have accept {t : State} (answer : holdOn g it q = .ok (t, 0)) : exec .hold s = .next (done t) :=
      command_done h h.isKind (on.trans answer)
    refine ⟨fun free => refuse (holdOn_free it q free),
      fun closed room => accept ((holdOn_closed it q closed).trans (if_pos room)),
      fun closed full => refuse ((holdOn_closed it q closed).trans (if_neg full.not_gt)),
      fun used => ⟨fun known => ?_, fun new => ?_⟩⟩
    · rw [accept (holdOn_joins it q used), joinReason_known (reason := .manual) _ known]
    · rw [accept (holdOn_joins it q used), joinReason_new (reason := .manual) _ new]
      rfl
  · intro s it rest g h allowed named _ q set left done refused put
    have on : ownReleaseHold it q = releaseOn g it q := archiveCommand_named allowed named
    have refuse {reason : Reason} (answer : releaseOn g it q = .error reason) : exec .releaseHold s = .next (refused reason) :=
      command_refused h h.isKind (on.trans answer)
    have accept {t : State} (answer : releaseOn g it q = .ok (t, 0)) : exec .releaseHold s = .next (done t) :=
      command_done h h.isKind (on.trans answer)
    refine ⟨fun nothing => refuse (releaseOn_nothing q nothing),
      fun some_ state => refuse (releaseOn_refuses q some_ state),
      fun some_ closed => accept (releaseOn_closed q some_ closed), fun some_ held more => ?_, fun some_ held last => ?_,
      fun some_ exporting => ?_⟩
    · rw [accept (releaseOn_kept q some_ (.inl held)), releaseReasons_some held more]
      rfl
    · rw [accept (releaseOn_kept q some_ (.inl held)), releaseReasons_none held last]
      rfl
    · rw [accept (releaseOn_kept q some_ (.inr exporting)), releaseReasons_exporting exporting]
      rfl
end

section
set_option Elab.async false

namespace Sys2Proof.Machine

/-! ### The close of the FILLING segment, by the state it closes in (R143, R153) -/

section

variable {s : State} {g : Segment} {p : PendingExport} {state : SegState}

theorem exportOf_none (unnamed : ¬ ∃ p, s.rc.pendingExport = some p ∧ p.segment = g.index) : exportOf g s = none :=
  Option.filter_eq_none_iff.mpr fun p pending names => unnamed ⟨p, pending, beq_iff_eq.mp names⟩

theorem exportOf_some (pending : s.rc.pendingExport = some p) (names : p.segment = g.index) : exportOf g s = some p :=
  Option.filter_eq_some_iff.mpr ⟨pending, beq_iff_eq.mpr names⟩

theorem closeStateOf_unnamed (unnamed : exportOf g s = none) : closeStateOf g s =
    if g.reasons = 0 then .closed else if holdCount s.rc.table < s.rc.table.length - 2 then .held else .closed := by
  simp only [closeStateOf, closeState, unnamed, Option.isSome_none, hasRoom_iff, Nat.lt_sub_iff_add_lt]
  rfl

theorem closeStateOf_named (named : exportOf g s = some p) : closeStateOf g s =
    if holdCount s.rc.table < s.rc.table.length - 2 then .exporting else .closed := by
  simp only [closeStateOf, closeState, named, Option.isSome_some, hasRoom_iff, Nat.lt_sub_iff_add_lt, if_true]

/-- The record of a segment closed in a state: its end is the present, and a CLOSED one has no reasons. -/
def closedIn (state : SegState) (now : Time) (g : Segment) : Segment :=
  { g with
    state := state
    finish := some now
    reasons := if state = .closed then 0 else g.reasons
    blockedMark := false
    beforeExportHeld := if state = .exporting then some (g.reasons != 0) else none }

/-- The reasons that the close in a state clears. -/
def clearedIn (state : SegState) (g : Segment) : ReasonSet := if state = .closed then g.reasons else 0

theorem closedSegment_eq (closes : closeStateOf g s = state) : closedSegment g s = closedIn state s.tb.time g := by
  rw [closedSegment, closes]
  cases state <;> rfl

theorem clearedReasons_eq (closes : closeStateOf g s = state) : clearedReasons g s = clearedIn state g := by
  rw [clearedReasons, closes, clearedIn]

/-- The part after the record of a closed segment is in place and the pending export is settled, with SEGMENT_CLOSED and the
denial of the reasons that were cleared (R143). -/
def closeReported (state : SegState) (pending : Option PendingExport) (g : Segment) (s : State) : State :=
  let table := s.rc.table.set g.index (closedIn state s.tb.time g)
  let shut := offer (.segmentClosed (closedIn state s.tb.time g) (clearedIn state g) (holdCount table))
    { s with rc := ⟨table, pending⟩ }
  if clearedIn state g = 0 then shut else offer (.deniedClose g.index (clearedIn state g)) shut

/-- A close that clears no reason denies none (R143). -/
theorem closeReported_silent (pending : Option PendingExport) (nothing : clearedIn state g = 0) :
    closeReported state pending g s
      = (let table := s.rc.table.set g.index (closedIn state s.tb.time g)
         offer (.segmentClosed (closedIn state s.tb.time g) 0 (holdCount table)) { s with rc := ⟨table, pending⟩ }) := by
  simp only [closeReported, nothing, if_true]

/-- A close with no export pending for the segment (R143). -/
theorem closeFilling_unnamed (unnamed : exportOf g s = none) (closes : closeStateOf g s = state) :
    closeFilling g s = closeReported state s.rc.pendingExport g s := by
  rw [closeFilling, closedSegment_eq closes, clearedReasons_eq closes, unnamed]
  have kept : dropExport g (putSegment (closedIn state s.tb.time g) s) = putSegment (closedIn state s.tb.time g) s :=
    if_neg (Bool.eq_false_iff.mp (congrArg Option.isSome unnamed))
  rw [kept]
  rfl

/-- A close settles the export that is pending for the segment: granted in EXPORT, and otherwise denied (R143, R153). -/
theorem closeFilling_named (named : exportOf g s = some p) (closes : closeStateOf g s = state) : closeFilling g s =
    if state = .exporting then
      offer (.exportGranted (closedIn state s.tb.time g) p.tag p.master
        (holdCount (s.rc.table.set g.index (closedIn state s.tb.time g)))) (closeReported state none g s)
    else offer (.deniedExport g.index p.tag p.master) (closeReported state none g s) := by
  rw [closeFilling, closedSegment_eq closes, clearedReasons_eq closes, named]
  have dropped : dropExport g (putSegment (closedIn state s.tb.time g) s)
      = { s with rc := ⟨s.rc.table.set g.index (closedIn state s.tb.time g), none⟩ } :=
    if_pos (congrArg Option.isSome named)
  rw [dropped]
  simp only [reportClose, closeReported, closedIn, apply_ite State.rc, offer_frame, ite_self]

end

/-! ### The FILLING segment on the air (R144) -/

section

variable {s : State} {g : Segment} {i : Nat}

/-- A FILLING segment of the table is the one that is found. -/
theorem RecorderOk.fillingOf_at (ok : RecorderOk s) (at_ : s.rc.table[i]? = some g) (filling : g.state = .filling) :
    fillingOf s.rc.table = some g := ok.fillingOf_eq (List.mem_of_getElem? at_) filling

theorem noteOpening_live (id : EntryId) (live : s.cu.mode = .live) (filled : fillingOf s.rc.table = some g) :
    noteOpening id s = putSegment
      (if g.entries.length < 4 then { g with entries := g.entries ++ [id] } else { g with more := true }) s := by
  simp only [noteOpening, live, filled, if_true]

theorem noteShortTerm_level {level : Int} (live : s.cu.mode = .live) (filled : fillingOf s.rc.table = some g)
    (held : s.lu.shortTerm = some level) :
    noteShortTerm s = putSegment { g with maxShortTerm := maxLevel g.maxShortTerm level } s := by
  simp only [noteShortTerm, live, filled, held, if_true]

theorem noteShortTerm_none (none_ : s.lu.shortTerm = none) : noteShortTerm s = s := by
  unfold noteShortTerm
  rw [none_]
  split
  · split
    · cases ‹none = some _›
    · rfl
  · rfl

end

end Sys2Proof.Machine

open Sys2Proof Sys2Proof.Machine in
/-- Settles O48: the reasons, the pending export and the room say in which state the FILLING segment closes, and the one that
is found on the air is the only one. -/
theorem fillingSegment : Obligations.FillingSegment := by
  constructor
  · intro s g _ _ room named ended after count shut plain held out
    refine ⟨fun none_ unnamed => ?_, fun some_ unnamed free => ?_, fun some_ unnamed full => ?_, fun p pending names =>
      ⟨fun free => ?_, fun none_ full => ?_, fun some_ full => ?_⟩⟩
    · have closes := (closeStateOf_unnamed (exportOf_none unnamed)).trans (if_pos none_)
      exact (closeFilling_unnamed (exportOf_none unnamed) closes).trans (closeReported_silent _ none_)
    · have closes := (closeStateOf_unnamed (exportOf_none unnamed)).trans ((if_neg some_).trans (if_pos free))
      exact (closeFilling_unnamed (exportOf_none unnamed) closes).trans (closeReported_silent _ rfl)
    · have closes := (closeStateOf_unnamed (exportOf_none unnamed)).trans ((if_neg some_).trans (if_neg full))
      exact (closeFilling_unnamed (exportOf_none unnamed) closes).trans (if_neg some_)
    · have closes := (closeStateOf_named (exportOf_some pending names)).trans (if_pos free)
      exact (closeFilling_named (exportOf_some pending names) closes).trans
        (congrArg (offer (.exportGranted out p.tag p.master (count out))) (closeReported_silent none rfl))
    · have closes := (closeStateOf_named (exportOf_some pending names)).trans (if_neg full)
      exact (closeFilling_named (exportOf_some pending names) closes).trans
        (congrArg (offer (.deniedExport g.index p.tag p.master)) (closeReported_silent none none_))
    · have closes := (closeStateOf_named (exportOf_some pending names)).trans (if_neg full)
      exact (closeFilling_named (exportOf_some pending names) closes).trans
        (congrArg (offer (.deniedExport g.index p.tag p.master)) (if_neg some_))
  · intro s id level i g ok at_ filling put
    obtain rfl := ok.indexed i g at_
    have filled := ok.fillingOf_at at_ filling
    refine ⟨fun silent => ⟨if_neg silent, if_neg silent⟩, fun live => ⟨fun few => ?_, fun full => ?_, noteShortTerm_none,
      fun held => ?_⟩⟩
    · rw [noteOpening_live id live filled, if_pos few]
      rfl
    · rw [noteOpening_live id live filled, if_neg full.not_gt]
      rfl
    · rw [noteShortTerm_level live filled held]
      cases g.maxShortTerm <;> rfl
end

section
set_option Elab.async false

namespace Sys2Proof.Machine

/-! ### The beats of a write into the RECORD window (R10, R141, R142) -/

section

variable {w : Window} {r : Request} {beats : List WBeat}

/-- A beat has enabled bytes when some enable is on (R141). -/
theorem enabledBytes_pos {e : BitVec 8} : 0 < enabledBytes e ↔ e ≠ 0 := by
  rw [enabledBytes, List.countP_pos_iff]
  constructor
  · rintro ⟨k, -, on⟩ rfl
    simp at on
  · intro some_
    by_contra none_
    refine some_ (BitVec.eq_of_getLsbD_eq fun k hk => ?_)
    have off : ¬ e.getLsbD k = true := fun on => none_ ⟨k, List.mem_range.mpr hk, on⟩
    simpa [-BitVec.getLsbD_eq_getElem] using off

/-- The enabled bytes of a write in one segment, beat by beat (R142). -/
theorem bytesIn_touches (write : r.access = .write beats) (i : Nat) : bytesIn (touches w r) i =
    (beats.zipIdx.map fun b =>
      if (r.addr + 8 * b.2 - w.base) / (w.segSize * 2 ^ 20) = i then enabledBytes b.1.enables else 0).sum := by
  rw [touches_write write, bytesIn]
  induction beats.zipIdx with
  | nil => rfl
  | cons b rest ih =>
    rw [List.map_cons, List.map_cons, List.sum_cons, ← ih, List.filter_cons]
    simp only [beq_iff_eq]
    split <;> simp

/-- A write lands in the segment of its last beat (R142). -/
theorem getLast_touches (write : r.access = .write beats) (wf : r.wf = true) : ∃ t, (touches w r).getLast? = some t
    ∧ t.segment = (r.addr + 8 * (beats.length - 1) - w.base) / (w.segSize * 2 ^ 20) := by
  have some_ : 0 < beats.length := by
    simp only [Request.wf, Request.lengthOk, write, Bool.and_eq_true, decide_eq_true_eq] at wf
    obtain ⟨⟨⟨some_, -⟩, -⟩, -⟩ := wf
    exact some_
  have last : beats.length - 1 < beats.zipIdx.length := by
    rw [List.length_zipIdx]
    omega
  rw [touches_write write, List.getLast?_eq_getElem?, List.length_map, List.length_zipIdx, List.getElem?_map,
    List.getElem?_eq_getElem last]
  exact ⟨_, rfl, by simp⟩

/-- A passing write is a capture write in LIVE, from the feeding master, when it enables a byte (R141). -/
theorem isCapture_iff {s : State} (write : r.access = .write beats) : isCapture w r (touches w r) s = true
    ↔ s.cu.mode = .live ∧ r.master = w.feeding ∧ ∃ b ∈ beats, b.enables ≠ 0 := by
  have beatwise : (touches w r).any (0 < ·.bytes) = beats.any (0 < enabledBytes ·.enables) :=
    calc (touches w r).any (0 < ·.bytes)
      _ = (beats.zipIdx.map Prod.fst).any (0 < enabledBytes ·.enables) := by
        rw [touches_write write, List.any_map, List.any_map]
        rfl
      _ = beats.any (0 < enabledBytes ·.enables) := by rw [List.zipIdx_map_fst]
  simp only [isCapture, beatwise, Bool.and_eq_true, beq_iff_eq, List.any_eq_true, decide_eq_true_eq, enabledBytes_pos,
    and_assoc]

end

/-! ### A capture write (R142) -/

section

variable {s : State} {f g : Segment} {ts : List Touch} {t : Touch}

/-- A capture write that lands in the FILLING segment goes on there. -/
theorem capture_continues (last : ts.getLast? = some t) (at_ : s.rc.table[t.segment]? = some g)
    (filling : g.state = .filling) : capture ts s = putSegment (addBytes ts g) s := by
  simp only [capture, last, at_, filling, if_true]

/-- A capture write that lands elsewhere begins to fill the segment, where none is FILLING. -/
theorem capture_begins (last : ts.getLast? = some t) (at_ : s.rc.table[t.segment]? = some g)
    (elsewhere : g.state ≠ .filling) (idle : fillingOf s.rc.table = none) :
    capture ts s = putSegment (startSegment ts t.segment s) s := by
  simp only [capture, last, at_, elsewhere, idle, if_false]

/-- A capture write that lands elsewhere closes the FILLING segment first. -/
theorem capture_moves (last : ts.getLast? = some t) (at_ : s.rc.table[t.segment]? = some g)
    (elsewhere : g.state ≠ .filling) (filled : fillingOf s.rc.table = some f) :
    capture ts s = putSegment (startSegment ts t.segment s) (closeFilling (addBytes ts f) s) := by
  have began : startSegment ts t.segment (closeFilling (addBytes ts f) s) = startSegment ts t.segment s := by
    simp only [startSegment, openId, closeFilling_frame]
  simp only [capture, last, at_, elsewhere, filled, if_false, began]

end

end Sys2Proof.Machine

open Sys2Proof Sys2Proof.Machine in
/-- Settles O47: no touched segment is kept, so the write goes on, and a capture write does to the table what its last beat's
segment asks for. -/
theorem captureWrites : Obligations.CaptureWrites := by
  intro s r beats slot w hr wf ok judged write segment bytes landing forwarded captures add spared
  have passes : recorderBlocks (touches w r) s.rc.table = false := by
    refine Bool.eq_false_iff.mpr fun blocks => ?_
    obtain ⟨g, mem, meets⟩ := List.any_eq_true.mp blocks
    obtain ⟨touched, kept⟩ := Bool.and_eq_true_iff.mp meets
    obtain ⟨k, there, here⟩ := (touchesSegment_iff write g.index).mp touched
    rw [write] at there
    have at_ : s.rc.table[segment k]? = some g := (congrArg _ here).trans (getElem?_of_indexed ok.indexed mem)
    obtain ⟨notHeld, notExport⟩ := spared k there g at_
    exact ((isKept_iff g).mp kept).elim notHeld notExport
  have taken : exec (.passThroughRequest r) s
      = .next (addTxn r .waiting (if isCapture w r (touches w r) s then capture (touches w r) s else s)) := by
    rw [exec_request hr wf, takeRequest, judged]
    simp only [presentWrite, passes]
    rfl
  have goesOn {t : State} (path : t.mp = s.mp) : addTxn r .waiting t = forwarded t := by rw [addTxn, path]
  obtain ⟨last, ends, lands⟩ := getLast_touches (w := w) write wf
  have landed : last.segment = landing := lands
  refine ⟨fun silent => ?_, fun g captured at_ => ?_⟩
  · rw [taken, if_neg (mt (isCapture_iff write).mp silent), goesOn rfl]
  · have captured_ : exec (.passThroughRequest r) s = .next (forwarded (capture (touches w r) s)) := by
      rw [taken, if_pos ((isCapture_iff write).mpr captured), goesOn (by simp)]
    have added (f : Segment) : addBytes (touches w r) f = add f := by
      rw [addBytes, bytesIn_touches write]
      rfl
    have began : startSegment (touches w r) landing s = { freeSegment landing with
        state := .filling, start := some s.tb.time, bytes := satAdd 0 (bytes landing)
        entries := (s.su.openEntry.map (·.entry.id)).toList } := by
      rw [startSegment, bytesIn_touches write]
      rfl
    rw [← landed] at at_ began ⊢
    refine ⟨fun filling => ?_, fun elsewhere idle => ?_, fun elsewhere f mem filling => ?_⟩
    · have index : (add g).index = last.segment := ok.indexed _ g at_
      rw [captured_, capture_continues ends at_ filling, added, putSegment, index]
    · rw [captured_, capture_begins ends at_ elsewhere (fillingOf_none_iff.mpr idle), ← began]
      rfl
    · rw [captured_, capture_moves ends at_ elsewhere (ok.fillingOf_eq mem filling), added, ← began]
      rfl
end

section
set_option Elab.async false

namespace Sys2Proof.Machine

/-! ### The flags (R158, R168) -/

/-- The set that holds one flag has that flag's bit alone. -/
theorem Flag.getLsbD_set (f g : Flag) : g.set.getLsbD f.code = decide (f = g) := by
  cases f <;> cases g <;> rfl

/-- A set flag joins the flags that were set, whichever bit is asked for (R168). -/
theorem getLsbD_flags_setFlag (f g : Flag) (ru : Reports) :
    (setFlag g ru).flags.getLsbD f.code = (ru.flags.getLsbD f.code || decide (f = g)) := by
  simp only [setFlag, BitVec.getLsbD_or, Flag.getLsbD_set]

/-- The outcome records are the kinds 1 and 2 (R170). -/
theorem isOutcome_eq (r : Report) : isOutcome r = decide (kindCode r = 1 ∨ kindCode r = 2) := by
  cases r <;> rfl

/-- The kinds whose offer sets a flag (R158). -/
theorem reportFlag_iff (r : Report) (f : Flag) : reportFlag r = some f ↔
    (kindCode r, f) ∈ [(2, Flag.commandRefused), (5, .shortTermOver), (6, .captionGap), (9, .deadAir), (11, .audioState),
      (13, .holdPlaced), (14, .holdDenied), (15, .exportGranted), (16, .recordBlocked), (17, .accessBlocked)]
    ∨ (f = .verdictFail ∧ ∃ v, r = .verdict v ∧ (v.loudness = .failHigh ∨ v.loudness = .failLow ∨ v.shortTerm = .fail
        ∨ v.caption = .fail ∨ v.deadAir = .fail)) := by
  cases r with
  | verdict v =>
    have unlisted : (kindCode (.verdict v), f) ∉ [(2, Flag.commandRefused), (5, .shortTermOver), (6, .captionGap),
        (9, .deadAir), (11, .audioState), (13, .holdPlaced), (14, .holdDenied), (15, .exportGranted), (16, .recordBlocked),
        (17, .accessBlocked)] := by simp [kindCode]
    simp only [unlisted, false_or, Report.verdict.injEq, exists_eq_left', ← verdictFails_iff, reportFlag]
    rw [Option.ite_none_right_eq_some, Option.some.injEq, and_comm, eq_comm (a := f)]
  | _ => simp [reportFlag, kindCode, eq_comm (a := f)]

/-- What an offer notes before its record is queued: flags, latch and last refusal, and nothing else (R158). -/
theorem noteOffer_eq (r : Report) (ru : Reports) : noteOffer r ru = { ru with
    flags := (noteOffer r ru).flags, latch := (noteOffer r ru).latch, lastRefusal := (refusalOf r).or ru.lastRefusal } := by
  unfold noteOffer
  cases reportFlag r <;> rfl

/-- The flags after an offer: those before it, and the one that the record's kind names (R158). -/
theorem flags_noteOffer_iff (r : Report) (ru : Reports) (f : Flag) :
    (noteOffer r ru).flags.getLsbD f.code = true ↔ ru.flags.getLsbD f.code = true ∨ reportFlag r = some f := by
  unfold noteOffer
  cases reportFlag r with
  | none => simp
  | some g => simp only [getLsbD_flags_setFlag, Bool.or_eq_true, decide_eq_true_eq, Option.some.injEq, eq_comm (a := f)]

/-- The latch after an offer: set before it, or by a flag that the kind names and that is enabled (R158, R168). -/
theorem latch_noteOffer_iff (r : Report) (ru : Reports) :
    (noteOffer r ru).latch = true
      ↔ ru.latch = true ∨ ∃ f, reportFlag r = some f ∧ ru.enables.getLsbD f.code = true := by
  unfold noteOffer
  cases reportFlag r with
  | none => simp
  | some g => simp [setFlag, flagEnabled]

/-- A dropped record: the lost count, REPORTS_LOST and, for an outcome, the owed image (R162, R170). -/
theorem dropReport_eq (r : Report) (ru : Reports) : dropReport r ru = { ru with
    flags := ru.flags ||| Flag.reportsLost.set
    latch := ru.latch || ru.enables.getLsbD Flag.reportsLost.code
    lostCount := if ru.lostCount = BitVec.allOnes 32 then ru.lostCount else ru.lostCount + 1
    imageDue := ru.imageDue || decide (kindCode r = 1 ∨ kindCode r = 2) } := by
  rw [← satAdd_succ (by decide), ← isOutcome_eq]
  rfl

/-- Only a COMMAND_REFUSED is a refusal (R27, R158). -/
theorem refusalOf_of_other {r : Report} (other : kindCode r ≠ 2) : refusalOf r = none := by
  cases r with
  | commandRefused => exact absurd rfl other
  | _ => rfl

end Sys2Proof.Machine

open Sys2Proof Sys2Proof.Machine in
/-- Settles O52: what an offer notes is the same for a record that is queued and for one that is dropped. -/
theorem offersTaken : Obligations.OffersTaken := by
  refine ⟨reportFlag_iff, fun f => by cases f <;> decide, fun r s => ?_⟩
  refine ⟨(noteOffer r s.ru).flags, (noteOffer r s.ru).latch, (refusalOf r).or s.ru.lastRefusal,
    flags_noteOffer_iff r s.ru, latch_noteOffer_iff r s.ru, ?_, fun other => ?_, fun room => ?_, fun full => ?_⟩
  · rintro tag code master offset reason rfl
    rfl
  · rw [refusalOf_of_other other]
    rfl
  · rw [offer, takeOffer_queued r _ _ room, noteOffer_eq]
  · rw [offer, takeOffer_full r _ _ full, dropReport_eq, noteOffer_eq]
    rfl

namespace Sys2Proof.Machine

/-! ### The commands of the report unit (R164, R166, R167) -/

/-- READ_INDEX without a ring (R164). -/
theorem ownReadIndex_unringed {it : CmdItem} {s : State} (unringed : s.ru.geometry = none) :
    ownReadIndex it s = .error .badIndex := by
  simp only [ownReadIndex, unringed]

/-- READ_INDEX with a ring: a position of the ring up to the write index becomes the read index (R164). -/
theorem ownReadIndex_ring {it : CmdItem} {s : State} {g : Geometry} (ring : s.ru.geometry = some g) :
    ownReadIndex it s =
      (let r := it.arg.toNat % 2 ^ 16
       let ahead (p : Nat) : Nat := (p + g.capacity - s.ru.readIndex) % g.capacity
       if r < g.capacity ∧ ahead r ≤ ahead s.ru.writeIndex then .ok ({ s with ru := { s.ru with readIndex := r } }, 0)
       else .error .badIndex) := by
  simp only [ownReadIndex, ring, argField_zero, unread]
  split
  · exact (if_neg (by omega)).symm
  · split
    · exact (if_neg (by omega)).symm
    · exact (if_pos (by omega)).symm

/-- The flag set that an item names is the low bits of its argument (R174). -/
theorem flagSetArg_eq (it : CmdItem) : flagSetArg it = it.arg.extractLsb' 0 13 := ofNat_argField it.arg 0 13

/-- The latch is cleared when no flag remains both set and enabled (R168). -/
theorem settleLatch_eq (ru : Reports) :
    settleLatch ru = { ru with latch := ru.latch && decide (ru.flags &&& ru.enables ≠ 0) } := by
  simp only [settleLatch, alertCause, bne, beq_eq_decide, decide_not]

end Sys2Proof.Machine

open Sys2Proof Sys2Proof.Machine in
/-- Settles O55: READ_INDEX by its two checks, and the flag commands by the sets they name. -/
theorem reportCommands : Obligations.ReportCommands := by
  intro s it rest r set left kept done refused
  refine ⟨fun h => ⟨fun unringed => ?_, fun g ring => ?_⟩, fun h => ?_, fun h => ?_, fun h => ?_⟩
  · exact command_refused h h.isKind (ownReadIndex_unringed unringed)
  · intro ahead
    have answer := ownReadIndex_ring (it := it) (s := withQueue rest s) ring
    split
    · exact command_done h h.isKind (answer.trans (if_pos ‹_›))
    · exact command_refused h h.isKind (answer.trans (if_neg ‹_›))
  · exact command_done h h.isKind (by rw [ownFlagEnableSet, flagSetArg_eq]; rfl)
  · exact command_done h h.isKind (by rw [ownFlagEnableClear, flagSetArg_eq, disableFlags, settleLatch_eq]; rfl)
  · exact command_done h h.isKind (by rw [ownAckFlags, flagSetArg_eq, clearFlags, settleLatch_eq]; rfl)
end

section
set_option Elab.async false

namespace Sys2Proof.Machine

/-! ### Numbers whose bits lie apart -/

/-- Numbers without a common bit add up bit by bit. -/
theorem testBit_add_of_apart {x y : Nat} (apart : ∀ i, x.testBit i = true → y.testBit i = false) (i : Nat) :
    (x + y).testBit i = (x.testBit i || y.testBit i) := by
  obtain ⟨w, hx, hy, hxy⟩ : ∃ w, x < 2 ^ w ∧ y < 2 ^ w ∧ x + y < 2 ^ w := by
    have := Nat.lt_two_pow_self (n := x + y)
    exact ⟨x + y, by omega, by omega, this⟩
  have disjoint : BitVec.ofNat w x &&& BitVec.ofNat w y = 0#w := by
    refine BitVec.eq_of_getLsbD_eq fun j hj => ?_
    have := apart j
    simp only [BitVec.getLsbD_and, BitVec.getLsbD_ofNat, hj, decide_true, Bool.true_and, Nat.zero_testBit]
    cases h : x.testBit j with
    | false => rfl
    | true => exact apart j h
  have sum := congrArg BitVec.toNat (BitVec.add_eq_or_of_and_eq_zero _ _ disjoint)
  rw [← BitVec.ofNat_add, BitVec.toNat_or, BitVec.toNat_ofNat, BitVec.toNat_ofNat, BitVec.toNat_ofNat, Nat.mod_eq_of_lt hx,
    Nat.mod_eq_of_lt hy, Nat.mod_eq_of_lt hxy] at sum
  rw [sum, Nat.testBit_or]

theorem bytes_eq_bits (n : Nat) : 256 ^ n = 2 ^ (8 * n) := by rw [Nat.pow_mul]

/-! ### The number that a table spells (R173) -/

/-- The value of a table's entry as its bytes hold it. -/
def laidValue (x : LaidField) : Nat := (x.2.2 % 256 ^ x.2.1).toNat

/-- An entry in its place, every other byte zero. -/
def atPlace (x : LaidField) : Nat := 256 ^ x.1 * laidValue x

/-- The bytes of a table as one little-endian number. -/
def packTable (table : List LaidField) : Nat := (table.map atPlace).sum

@[simp] theorem packTable_nil : packTable [] = 0 := by simp [packTable]

@[simp] theorem packTable_cons (x : LaidField) (table : List LaidField) :
    packTable (x :: table) = atPlace x + packTable table := by
  simp [packTable]

@[simp] theorem packTable_append (a b : List LaidField) : packTable (a ++ b) = packTable a + packTable b := by
  simp [packTable]

/-- Two entries of a table share no byte. -/
def BytesApart (x y : LaidField) : Prop := x.1 + x.2.1 ≤ y.1 ∨ y.1 + y.2.1 ≤ x.1

theorem laidValue_cast (x : LaidField) : (laidValue x : Int) = x.2.2 % 256 ^ x.2.1 :=
  Int.toNat_of_nonneg (Int.emod_nonneg _ (by positivity))

theorem laidValue_lt (x : LaidField) : laidValue x < 2 ^ (8 * x.2.1) := by
  have below : x.2.2 % 256 ^ x.2.1 < 256 ^ x.2.1 := Int.emod_lt_of_pos _ (by positivity)
  rw [← laidValue_cast] at below
  rw [← bytes_eq_bits]
  exact_mod_cast below

/-- An entry has bits in its own bytes only. -/
theorem testBit_atPlace (x : LaidField) (i : Nat) :
    (atPlace x).testBit i = (decide (8 * x.1 ≤ i) && (laidValue x).testBit (i - 8 * x.1)) := by
  rw [atPlace, bytes_eq_bits, Nat.testBit_two_pow_mul]

theorem covers_of_testBit {x : LaidField} {i : Nat} (set : (atPlace x).testBit i = true) :
    8 * x.1 ≤ i ∧ i < 8 * (x.1 + x.2.1) := by
  rw [testBit_atPlace, Bool.and_eq_true, decide_eq_true_eq] at set
  obtain ⟨from_, bit⟩ := set
  have within : i - 8 * x.1 < 8 * x.2.1 :=
    (Nat.pow_lt_pow_iff_right (by decide)).mp (Nat.lt_of_le_of_lt (Nat.ge_two_pow_of_testBit bit) (laidValue_lt x))
  omega

/-- A table whose entries share no byte has the bits of its entries (R173). -/
theorem testBit_packTable_iff {table : List LaidField} (apart : table.Pairwise BytesApart) (i : Nat) :
    (packTable table).testBit i = true ↔ ∃ x ∈ table, (atPlace x).testBit i = true := by
  induction table generalizing i with
  | nil => simp [packTable]
  | cons x rest ih =>
    obtain ⟨first, others⟩ := List.pairwise_cons.mp apart
    have clear (j : Nat) (here : (atPlace x).testBit j = true) : (packTable rest).testBit j = false := by
      refine Bool.eq_false_iff.mpr fun there => ?_
      obtain ⟨y, mem, set⟩ := (ih others j).mp there
      have inX := covers_of_testBit here
      have inY := covers_of_testBit set
      have := first y mem
      unfold BytesApart at this
      omega
    rw [packTable_cons, testBit_add_of_apart clear, Bool.or_eq_true, List.exists_mem_cons_iff]
    exact or_congr_right (ih others i)

/-! ### Beats (R173) -/

/-- Beats laid one after the other spell the number that they were cut from. -/
theorem sum_beatsOf (n total : Nat) :
    ((beatsOf n total).zipIdx.map fun b => b.1.toNat * 2 ^ (64 * b.2)).sum = total % 2 ^ (64 * n) := by
  induction n with
  | zero => simp [beatsOf, Nat.mod_one]
  | succ n ih =>
    have last : beatsOf (n + 1) total = beatsOf n total ++ [BitVec.ofNat 64 (total / 2 ^ (64 * n))] := by
      simp [beatsOf, List.range_succ]
    have length : (beatsOf n total).length = n := by simp [beatsOf]
    rw [last, List.zipIdx_append, List.map_append, List.sum_append, ih, length, Nat.mul_succ, Nat.pow_add, Nat.mod_mul]
    simp [Nat.mul_comm]

/-- The bits of a field read from beats are those of the number that the beats were cut from (R173). -/
theorem testBit_fieldAt_beatsOf {k first n : Nat} (total : Nat) (within : first + n ≤ 8 * k) (i : Nat) :
    (fieldAt (beatsOf k total) first n).testBit i = (decide (i < 8 * n) && total.testBit (i + 8 * first)) := by
  simp only [fieldAt, sum_beatsOf, bytes_eq_bits, Nat.testBit_mod_two_pow, Nat.testBit_div_two_pow]
  by_cases inside : i < 8 * n
  · have : i + 8 * first < 64 * k := by omega
    simp [inside, this]
  · simp [inside]

/-- Beats cut from the number that a table spells hold the table's fields (R173). -/
theorem holdsFields_beatsOf {k : Nat} {table : List LaidField} (apart : table.Pairwise BytesApart)
    (within : ∀ x ∈ table, x.1 + x.2.1 ≤ 8 * k) : HoldsFields (beatsOf k (packTable table)) table := by
  refine ⟨fun x mem => ?_, fun byte bound free => ?_⟩
  · rw [← laidValue_cast, Nat.cast_inj]
    refine Nat.eq_of_testBit_eq fun i => ?_
    rw [testBit_fieldAt_beatsOf _ (within x mem), Bool.eq_iff_iff, Bool.and_eq_true, decide_eq_true_eq,
      testBit_packTable_iff apart]
    have own : (atPlace x).testBit (i + 8 * x.1) = (laidValue x).testBit i := by
      rw [testBit_atPlace, Nat.add_sub_cancel]
      simp
    constructor
    · rintro ⟨inside, y, memY, set⟩
      obtain rfl : y = x := by
        by_contra other
        have covered := covers_of_testBit set
        have : Std.Symm BytesApart := ⟨fun _ _ => Or.symm⟩
        have := apart.forall memY mem other
        unfold BytesApart at this
        omega
      exact own ▸ set
    · intro set
      rw [← own] at set
      have := covers_of_testBit set
      exact ⟨by omega, x, mem, set⟩
  · rw [show 8 * (beatsOf k (packTable table)).length = 8 * k by simp [beatsOf]] at bound
    refine Nat.zero_of_testBit_eq_false fun i => Bool.eq_false_iff.mpr fun set => ?_
    rw [testBit_fieldAt_beatsOf _ (by omega), Bool.and_eq_true, decide_eq_true_eq, testBit_packTable_iff apart] at set
    obtain ⟨inside, x, mem, set⟩ := set
    have covered := covers_of_testBit set
    exact free x mem (by omega)

/-! ### Fields and entries that hold the same value (R173) -/

@[simp] theorem packFields_nil : packFields [] = 0 := by simp [packFields]

theorem laidValue_nat (first n v : Nat) : laidValue (first, n, (v : Int)) = v % 256 ^ n := by
  rw [← Nat.cast_inj (R := Int), laidValue_cast]
  push_cast
  rfl

/-- A field stands as an entry of its place and value does (R173). -/
@[simp] theorem packFields_cons (f : Field) (fs : List Field) :
    packFields (f :: fs) = atPlace (f.at_, f.bytes, (f.value : Int)) + packFields fs := by
  rw [atPlace, laidValue_nat, Nat.mul_comm]
  rfl

@[simp] theorem packFields_append (a b : List Field) : packFields (a ++ b) = packFields a + packFields b := by
  simp [packFields]

/-- Values that agree in an entry's bytes stand there alike. -/
theorem atPlace_congr {first n : Nat} {v w : Int} (same : v % 256 ^ n = w % 256 ^ n) :
    atPlace (first, n, v) = atPlace (first, n, w) := by
  simp only [atPlace, laidValue, same]

@[simp] theorem atPlace_zero (first n : Nat) : atPlace (first, n, 0) = 0 := by simp [atPlace, laidValue]

/-- A level stands in two's complement, none as the least value (R173). -/
@[simp] theorem atPlace_level (first : Nat) (l : Option Int) :
    atPlace (first, 2, (levelField l : Int)) = atPlace (first, 2, levelValue l) := by
  refine atPlace_congr ?_
  cases l with
  | none => rfl
  | some l =>
    simp only [levelField, BitVec.toNat_ofInt, levelValue, Option.getD_some]
    omega

/-- An absent id stands as all ones (R173). -/
@[simp] theorem atPlace_id (first : Nat) (id : Option EntryId) :
    atPlace (first, 4, (idField id : Int)) = atPlace (first, 4, idValue id) := by
  cases id with
  | none => exact atPlace_congr rfl
  | some id => rfl

@[simp] theorem timeField_cast (t : Option Time) : (timeField t : Int) = timeValue t := by cases t <;> rfl

@[simp] theorem bit_cast (b : Bool) : (bit b : Int) = if b then 1 else 0 := by cases b <;> rfl

/-- An entry further on by some bytes. -/
theorem atPlace_add (first k n : Nat) (v : Int) : atPlace (first + k, n, v) = 256 ^ first * atPlace (k, n, v) := by
  simp only [atPlace, laidValue, Nat.pow_add, Nat.mul_assoc]

/-- The field of an entry list has its ids in four places, zero beyond the list (R175). -/
theorem entryListField_eq (ids : List EntryId) : entryListField ids
    = packTable ((List.range 4).map fun k => (2 * k, 2, ((ids[k]?.getD 0).toNat : Int))) := by
  unfold entryListField
  match ids with
  | [] => simp [List.range_succ]
  | [a] => simp [List.range_succ]
  | [a, b] => simp [List.range_succ]
  | [a, b, c] => simp [List.range_succ]
  | a :: b :: c :: d :: _ => simp [List.range_succ]

theorem entryListField_lt (ids : List EntryId) : entryListField ids < 256 ^ 8 := by
  have below (k : Nat) (v : Int) : laidValue (2 * k, 2, v) < 2 ^ 16 := laidValue_lt _
  rw [entryListField_eq]
  simp only [List.range_succ, List.range_zero, List.nil_append, List.cons_append, List.map_cons, List.map_nil, packTable_cons,
    packTable_nil, atPlace]
  have a := below 0 ((ids[0]?.getD 0).toNat : Int)
  have b := below 1 ((ids[1]?.getD 0).toNat : Int)
  have c := below 2 ((ids[2]?.getD 0).toNat : Int)
  have d := below 3 ((ids[3]?.getD 0).toNat : Int)
  omega

/-- The ids of an entry list in their four places are the field that the part writes (R175). -/
theorem atPlace_entryListField (first : Nat) (ids : List EntryId) : atPlace (first, 8, (entryListField ids : Int))
    = packTable ((List.range 4).map fun k => (first + 2 * k, 2, ((ids[k]?.getD 0).toNat : Int))) := by
  have whole : laidValue (first, 8, (entryListField ids : Int)) = entryListField ids := by
    rw [laidValue_nat, Nat.mod_eq_of_lt (entryListField_lt ids)]
  rw [atPlace, whole, entryListField_eq]
  simp only [packTable, List.map_map, Function.comp_def, atPlace_add, List.sum_map_mul_left]

/-- The length of an entry list and MORE in one byte (R175). -/
theorem listLengthField_cast (g : Segment) :
    (listLengthField g : Int) = (g.entries.length : Int) + if g.more then 128 else 0 := by
  unfold listLengthField
  cases g.more <;> simp

/-- The entry list as the part writes it (R175). -/
theorem packTable_entryList (first : Nat) (g : Segment) : packTable (entryListTable first g)
    = atPlace (first, 8, (entryListField g.entries : Int)) + atPlace (first + 8, 1, (listLengthField g : Int)) := by
  rw [entryListTable, packTable_append, ← atPlace_entryListField, listLengthField_cast]
  rfl

@[simp] theorem levelValue_some (l : Int) : levelValue (some l) = l := rfl

@[simp] theorem idValue_none : idValue none = -1 := by simp [idValue]

theorem beforeExportField_cast (g : Segment) :
    (beforeExportField g : Int) = if g.beforeExportHeld = some true then 4 else 3 := by
  unfold beforeExportField
  split <;> rfl

/-- The fields of a hold request in any order (R175). -/
theorem packFields_request (q : HoldRequest) (incomplete : Bool) :
    packFields (requestFields (some q) incomplete) = packTable (requestTable q incomplete) := by
  cases incomplete <;> simp [requestFields, requestTable]

theorem verdictMarks_cast (c : ClosedEntry) : (verdictMarks c : Int)
    = marksValue [(c.record.cuedEarly, 0), (c.record.entry.lateCommit, 1), (c.record.isPartial, 2), (c.aborted, 3),
      (c.record.replay, 4), (c.record.evidenceIncomplete, 5), (c.record.captionPresent, 6)] := by
  simp [verdictMarks, marksValue, add_assoc]

/-- The fields that the part lays for a record are those of the table of R175. -/
theorem packFields_payload (r : Report) : packFields (payload r) = packTable (payloadTable r) := by
  cases r with
  | commandDone tag code master offset count => simp [payload, outcomeFields, payloadTable]
  | commandRefused tag code master offset reason => simp [payload, outcomeFields, payloadTable]
  | entryOpened e scheduled closed left =>
    have bank : payloadTable (.entryOpened e scheduled closed left)
        = [(12, 4, ↑e.entry.id.toNat), (16, 1, ↑e.entry.cls.code), (17, 1, ↑e.cause.code),
          (18, 1, marksValue [(e.cuedEarly, 0), (e.entry.lateCommit, 1), (e.replay, 4)]), (19, 1, ↑(bankField e.bank)),
          (20, 4, ↑scheduled.toNat), (24, 4, ↑e.actualStart.toNat), (28, 4, idValue closed), (32, 1, ↑left)] := by
      rw [payloadTable]
      rcases e.bank with _ | _ | _ <;> rfl
    simp [payload, bank, marksValue, add_assoc]
  | verdict v => simp [payload, verdictFirst, payloadTable, verdictMarks_cast]
  | segmentClosed g cleared count =>
    simp only [payload, payloadTable, packFields_cons, packFields_nil, packTable_append, packTable_cons, packTable_nil,
      packTable_entryList, atPlace_level, timeField_cast, Nat.reduceAdd, add_zero]
    ac_rfl
  | holdPlaced g reason req count incomplete =>
    cases req with
    | none => simp [payload, payloadTable, requestFields]
    | some q => simp [payload, payloadTable, packFields_request]
  | deniedRequest index q count incomplete =>
    simp only [payload, payloadTable, List.cons_append, List.nil_append, packFields_cons, packFields_request, packTable_append,
      packTable_cons, packTable_nil, Nat.cast_zero, add_zero]
    ac_rfl
  | exportGranted g tag master count =>
    simp only [payload, payloadTable, packFields_cons, packFields_nil, packTable_append, packTable_cons, packTable_nil,
      packTable_entryList, beforeExportField_cast, timeField_cast, Nat.reduceAdd, add_zero]
    ac_rfl
  | deniedClose index cleared => simp [payload, payloadTable, requestFields]
  | deniedExport index tag master =>
    have limit : (Reason.holdLimit.code : Int) = 15 := by simp [Reason.code]
    simp only [payload, payloadTable, requestFields, limit, List.cons_append, List.nil_append, packFields_cons, packFields_nil,
      packTable_cons, packTable_nil, atPlace_id, idValue_none, Nat.cast_ofNat, add_zero]
    ac_rfl
  | _ => simp [payload, payloadTable]

/-! ### The places of a position's entries (R175) -/

/-- Entries lie in part of a layout, from byte `low` to byte `high`, and share no byte. -/
def FitIn (low high : Nat) (table : List LaidField) : Prop :=
  table.Pairwise BytesApart ∧ ∀ x ∈ table, low ≤ x.1 ∧ x.1 + x.2.1 ≤ high

/-- Entries in a part of the layout that the others leave free. -/
theorem FitIn.around {low from_ upto high : Nat} {a b : List LaidField} (ha : FitIn low high a) (hb : FitIn from_ upto b)
    (le : low ≤ from_) (le' : upto ≤ high) (clear : ∀ x ∈ a, x.1 + x.2.1 ≤ from_ ∨ upto ≤ x.1) : FitIn low high (a ++ b) := by
  obtain ⟨apartA, inA⟩ := ha
  obtain ⟨apartB, inB⟩ := hb
  refine ⟨List.pairwise_append.mpr ⟨apartA, apartB, fun x hx y hy => ?_⟩, fun x hx => ?_⟩
  · obtain ⟨here, there⟩ := inB y hy
    exact (clear x hx).imp (Nat.le_trans · here) (Nat.le_trans there ·)
  · rcases List.mem_append.mp hx with hx | hx
    · exact inA x hx
    · obtain ⟨here, there⟩ := inB x hx
      exact ⟨Nat.le_trans le here, Nat.le_trans there le'⟩

/-- Entries in one part of the layout, and entries beyond it. -/
theorem FitIn.append {low mid high : Nat} {a b : List LaidField} (ha : FitIn low mid a) (hb : FitIn mid high b)
    (le : low ≤ mid) (le' : mid ≤ high) : FitIn low high (a ++ b) := by
  obtain ⟨apartA, inA⟩ := ha
  exact FitIn.around ⟨apartA, fun x hx => ⟨(inA x hx).1, Nat.le_trans (inA x hx).2 le'⟩⟩ hb le (Nat.le_refl _)
    fun x hx => Or.inl (inA x hx).2

/-- `FitIn` decided from the places alone. -/
def fitCheck (low high : Nat) : List LaidField → Bool
  | [] => true
  | x :: rest => Nat.ble low x.1 && Nat.ble (x.1 + x.2.1) high
      && rest.all (fun y => Nat.ble (x.1 + x.2.1) y.1 || Nat.ble (y.1 + y.2.1) x.1) && fitCheck low high rest

theorem fitIn_of_check {low high : Nat} {table : List LaidField} (checked : fitCheck low high table = true) :
    FitIn low high table := by
  induction table with
  | nil => exact ⟨.nil, nofun⟩
  | cons x rest ih =>
    simp only [fitCheck, Bool.and_eq_true, List.all_eq_true, Bool.or_eq_true, Nat.ble_eq] at checked
    obtain ⟨⟨here, first⟩, others⟩ := checked
    obtain ⟨apart, inside⟩ := ih others
    exact ⟨.cons first apart, List.forall_mem_cons.mpr ⟨here, inside⟩⟩

/-- The payload of a first position lies beyond the common part (R175). -/
theorem payloadTable_fits (r : Report) : FitIn 12 64 (payloadTable r) := by
  refine fitIn_of_check ?_
  cases r with
  | holdPlaced g reason req count incomplete => cases req <;> rfl
  | _ => rfl

/-- So does that of a VERDICT's second position (R175). -/
theorem secondTable_fits (v : Verdict) : FitIn 12 64 (secondTable v) := fitIn_of_check rfl

/-- The common part of a position (R175). -/
theorem commonTable_fits (kind count : Int) (number : BitVec 32) (time : Time) :
    FitIn 0 12 [(0, 1, kind), (1, 1, count), (4, 4, number.toNat), (8, 4, time.toNat)] := fitIn_of_check rfl

theorem beatsOf_length (n total : Nat) : (beatsOf n total).length = n := by simp [beatsOf]

/-- A position whose fields are those of a table holds them (R173, R175). -/
theorem holdsFields_position {fs : List Field} {table : List LaidField} (same : packFields fs = packTable table)
    (fits : FitIn 0 64 table) : HoldsFields (positionBeats fs) table := by
  obtain ⟨apart, inside⟩ := fits
  rw [positionBeats, same]
  exact holdsFields_beatsOf apart fun x mem => (inside x mem).2

/-! ### The positions of a record (R161, R175) -/

theorem packFields_second (v : Verdict) : packFields (verdictSecond v) = packTable (secondTable v) := by
  simp [verdictSecond, secondTable]

/-- The first position of a record (R175). -/
theorem firstPosition_holds (q : QueuedReport) (number : BitVec 32) :
    HoldsFields (positionBeats (commonFields (kindCode q.report) 1 number q.time ++ payload q.report))
      (positionTable q (kindCode q.report) number 0) := by
  have table : positionTable q (kindCode q.report) number 0
      = [(0, 1, (kindCode q.report : Int)), (1, 1, 1), (4, 4, number.toNat), (8, 4, q.time.toNat)] ++ payloadTable q.report := by
    unfold positionTable
    cases q.report <;> rfl
  rw [table]
  refine holdsFields_position ?_ ((commonTable_fits _ 1 number q.time).append (payloadTable_fits _) (by decide) (by decide))
  simp [commonFields, packFields_payload]

/-- The second position of a VERDICT (R175). -/
theorem secondPosition_holds (q : QueuedReport) {v : Verdict} (verdict : q.report = .verdict v) (number : BitVec 32) :
    HoldsFields (positionBeats (commonFields (kindCode q.report) 0 number q.time ++ verdictSecond v))
      (positionTable q (kindCode q.report) number 1) := by
  have table : positionTable q (kindCode q.report) number 1
      = [(0, 1, (kindCode q.report : Int)), (1, 1, 0), (4, 4, number.toNat), (8, 4, q.time.toNat)] ++ secondTable v := by
    unfold positionTable
    rw [verdict]
    rfl
  rw [table]
  refine holdsFields_position ?_ ((commonTable_fits _ 0 number q.time).append (secondTable_fits _) (by decide) (by decide))
  simp [commonFields, packFields_second]

/-- Each position of a record is 64 bytes and holds its table (R161, R175). -/
theorem recordPositions_holds {q : QueuedReport} {number : BitVec 32} {i : Nat} {beats : List Beat}
    (at_ : (recordPositions q number)[i]? = some beats) :
    beats.length = 8 ∧ HoldsFields beats (positionTable q (kindCode q.report) number i) := by
  have first : (positionBeats (commonFields (kindCode q.report) 1 number q.time ++ payload q.report)).length = 8
      ∧ HoldsFields (positionBeats (commonFields (kindCode q.report) 1 number q.time ++ payload q.report))
        (positionTable q (kindCode q.report) number 0) := ⟨beatsOf_length .., firstPosition_holds q number⟩
  rw [recordPositions.eq_def] at at_
  dsimp only at at_
  split at at_
  · rename_i v verdict
    rcases i with _ | _ | i
    · rw [List.getElem?_cons_zero, Option.some.injEq] at at_
      exact at_ ▸ first
    · rw [List.getElem?_cons_succ, List.getElem?_cons_zero, Option.some.injEq] at at_
      exact at_ ▸ ⟨beatsOf_length .., secondPosition_holds q verdict number⟩
    · cases at_
  · rcases i with _ | i
    · rw [List.getElem?_cons_zero, Option.some.injEq] at at_
      exact at_ ▸ first
    · cases at_

/-- The position of a LOST record (R163, R175). -/
theorem lostPosition_holds (count number : BitVec 32) (time : Time) : HoldsFields (lostPosition count number time)
    [(0, 1, 19), (1, 1, 1), (4, 4, number.toNat), (8, 4, time.toNat), (12, 4, count.toNat)] := by
  refine holdsFields_position ?_ (fitIn_of_check rfl)
  simp [commonFields, lostKind]

/-! ### Laying a record (R161 to R163) -/

/-- The bursts of a record lie at successive positions of the ring (R161). -/
theorem recordBursts_getElem? (g : Geometry) (p : Nat) (q : QueuedReport) (number : BitVec 32) (i : Nat) :
    (recordBursts g p q number)[i]?
      = (recordPositions q number)[i]?.map fun beats => ⟨positionAddr g (p + i), beats⟩ := by
  simp [recordBursts, List.getElem?_zipIdx, Option.map_map, Function.comp_def]

theorem recordBursts_length (g : Geometry) (p : Nat) (q : QueuedReport) (number : BitVec 32) :
    (recordBursts g p q number).length = positions q.report := by
  simp [recordBursts, recordPositions_length]

/-- A VERDICT takes two positions, every other record one (R158). -/
theorem positions_eq (r : Report) : positions r = if kindCode r = 4 then 2 else 1 := by cases r <;> rfl

/-- The positions that a LOST record ahead of the head record takes (R161, R163). -/
def owedPositions (ru : Reports) : Nat := if ru.lostCount = 0 then 0 else 1

/-- The number of the head record: that after a LOST record's, where one is owed (R163). -/
def headNumber (ru : Reports) : BitVec 32 := ru.recordNumber + BitVec.ofNat 32 (owedPositions ru)

/-- The bursts of the head record and of the LOST record ahead of it (R161, R163). -/
def laidBursts (g : Geometry) (now : Time) (q : QueuedReport) (ru : Reports) : List Burst :=
  lostBursts g now ru ++ recordBursts g (ru.writeIndex + owedPositions ru) q (headNumber ru)

/-- The report unit once the head record is laid (R161, R163). -/
theorem layHead_eq (g : Geometry) (now : Time) (q : QueuedReport) (ru : Reports) : layHead g now q ru = { ru with
    recordNumber := ru.recordNumber + BitVec.ofNat 32 (owedPositions ru + 1), lostCount := 0
    current := some ⟨false, laidBursts g now q ru, if ru.lostCount = 0 then none else some ru.lostCount⟩ } := by
  by_cases none_lost : ru.lostCount = 0#32
  · simp [layHead, laidBursts, headNumber, owedPositions, none_lost]
  · simp [layHead, laidBursts, headNumber, owedPositions, none_lost, BitVec.add_assoc]

theorem lostBursts_length (g : Geometry) (now : Time) (ru : Reports) : (lostBursts g now ru).length = owedPositions ru := by
  unfold lostBursts owedPositions
  split <;> rfl

/-- The burst of a LOST record (R163, R175). -/
theorem lostBursts_holds {g : Geometry} {now : Time} {ru : Reports} {i : Nat} {b : Burst}
    (at_ : (lostBursts g now ru)[i]? = some b) :
    b.addr = positionAddr g (ru.writeIndex + i) ∧ b.beats.length = 8
      ∧ HoldsFields b.beats [(0, 1, 19), (1, 1, 1), (4, 4, ru.recordNumber.toNat), (8, 4, now.toNat),
          (12, 4, ru.lostCount.toNat)] := by
  unfold lostBursts at at_
  split at at_
  · cases at_
  · match i, at_ with
    | 0, rfl => exact ⟨rfl, beatsOf_length .., lostPosition_holds ..⟩

theorem laidBursts_length (g : Geometry) (now : Time) (q : QueuedReport) (ru : Reports) :
    (laidBursts g now q ru).length = owedPositions ru + positions q.report := by
  rw [laidBursts, List.length_append, lostBursts_length, recordBursts_length]

/-- The bursts ahead of the record are those of the LOST record (R163). -/
theorem laidBursts_lost {g : Geometry} {now : Time} {q : QueuedReport} {ru : Reports} {i : Nat} (ahead : i < owedPositions ru) :
    (laidBursts g now q ru)[i]? = (lostBursts g now ru)[i]? :=
  List.getElem?_append_left (by rwa [lostBursts_length])

/-- The others are those of the record (R161). -/
theorem laidBursts_head {g : Geometry} {now : Time} {q : QueuedReport} {ru : Reports} {i : Nat} (past : owedPositions ru ≤ i) :
    (laidBursts g now q ru)[i]? = (recordPositions q (headNumber ru))[i - owedPositions ru]?.map
      fun beats => ⟨positionAddr g (ru.writeIndex + i), beats⟩ := by
  rw [laidBursts, List.getElem?_append_right (by rwa [lostBursts_length]), recordBursts_getElem?, lostBursts_length,
    Nat.add_assoc, Nat.add_sub_cancel' past]

/-- What the bursts laid for the head record hold (R161, R163, R175). -/
theorem laidBursts_holds {g : Geometry} {now : Time} {q : QueuedReport} {ru : Reports} {i : Nat} {b : Burst}
    (at_ : (laidBursts g now q ru)[i]? = some b) :
    b.addr = positionAddr g (ru.writeIndex + i) ∧ b.beats.length = 8
      ∧ (i < owedPositions ru → HoldsFields b.beats
          [(0, 1, 19), (1, 1, 1), (4, 4, ru.recordNumber.toNat), (8, 4, now.toNat), (12, 4, ru.lostCount.toNat)])
      ∧ (owedPositions ru ≤ i → HoldsFields b.beats
          (positionTable q (kindCode q.report) (headNumber ru) (i - owedPositions ru))) := by
  rcases Nat.lt_or_ge i (owedPositions ru) with ahead | past
  · rw [laidBursts_lost ahead] at at_
    obtain ⟨addr, length, holds⟩ := lostBursts_holds at_
    exact ⟨addr, length, fun _ => holds, fun past => absurd ahead (Nat.not_lt.mpr past)⟩
  · rw [laidBursts_head past, Option.map_eq_some_iff] at at_
    obtain ⟨beats, laid, rfl⟩ := at_
    obtain ⟨length, holds⟩ := recordPositions_holds laid
    exact ⟨rfl, length, fun ahead => absurd ahead (Nat.not_lt.mpr past), fun _ => holds⟩

section

variable {s : State} {q : QueuedReport} {rest : List QueuedReport}

/-- LAY_RECORD lays nothing with a unit in progress, an image to go first, or an empty queue (R161). -/
theorem layRecord_waits (waits : s.ru.current ≠ none ∨ (s.ru.imageDue = true ∧ s.ru.geometry ≠ none) ∨ s.ru.queue = []) :
    layRecord s = s := by
  unfold layRecord
  split
  · rfl
  · rename_i free
    simp only [imageNext, Bool.or_eq_true, Option.isSome_iff_ne_none, Bool.and_eq_true] at free
    rw [show s.ru.queue = [] by tauto]

/-- Nothing goes ahead of the head record (R161). -/
theorem headRecord_next (idle : s.ru.current = none) (noImage : s.ru.imageDue = false ∨ s.ru.geometry = none) :
    ¬ (s.ru.current.isSome || imageNext s.ru) = true := by
  simp only [imageNext, idle, Option.isSome_none, Bool.false_or, Bool.and_eq_true, Option.isSome_iff_ne_none]
  rcases noImage with off | none <;> simp [*]

/-- Without a REPORT window the head record is dropped (R162). -/
theorem layRecord_unringed (idle : s.ru.current = none) (queue : s.ru.queue = q :: rest) (unringed : s.ru.geometry = none) :
    layRecord s = { s with ru := dropReport q.report { s.ru with queue := rest } } := by
  rw [layRecord, if_neg (headRecord_next idle (.inr unringed)), queue, unringed]

/-- In a ring the head record goes by the room for it (R161, R162). -/
theorem layRecord_ring {g : Geometry} (idle : s.ru.current = none)
    (noImage : s.ru.imageDue = false ∨ s.ru.geometry = none) (queue : s.ru.queue = q :: rest)
    (ring : s.ru.geometry = some g) : layRecord s =
      if hasRingRoom q.report s.ru then { s with ru := layHead g s.tb.time q s.ru }
      else { s with ru := dropReport q.report { s.ru with queue := rest } } := by
  rw [layRecord, if_neg (headRecord_next idle noImage), queue, ring]

/-- The room of the head record in a ring (R160, R161). -/
theorem hasRingRoom_iff {g : Geometry} (ring : s.ru.geometry = some g) (r : Report) : hasRingRoom r s.ru = true
    ↔ (s.ru.writeIndex + g.capacity - s.ru.readIndex) % g.capacity + owedPositions s.ru + positions r < g.capacity := by
  simp only [hasRingRoom, unreadOf, unread, capacityOf, ring, Option.map_some, Option.getD_some, positionsNeeded,
    decide_eq_true_eq, ← owedPositions.eq_def]
  omega

end

/-! ### The end of a record (R161, R165, R170) -/

/-- RING_HIGH is set, and calls the alert, when the unread count is high (R165, R168). -/
theorem judgeRingHigh_eq (ru : Reports) : (if ringHigh ru then setFlag .ringHigh ru else ru) = { ru with
    flags := if ringHigh ru then ru.flags ||| Flag.ringHigh.set else ru.flags
    latch := ru.latch || (ringHigh ru && ru.enables.getLsbD Flag.ringHigh.code) } := by
  cases ringHigh ru with
  | true =>
    simp only [if_true, Bool.true_and]
    rfl
  | false => simp

/-- A record's last burst taken (R161, R165, R170). -/
theorem finishRecord_eq {ru : Reports} {q : QueuedReport} {rest : List QueuedReport} {g : Geometry}
    (queue : ru.queue = q :: rest) (ring : ru.geometry = some g) : finishRecord ru =
      (let write := (ru.writeIndex + if kindCode q.report = 4 then 2 else 1) % g.capacity
       let high : Bool := decide (3 * g.capacity ≤ 4 * ((write + g.capacity - ru.readIndex) % g.capacity))
       { ru with
          current := none, queue := rest, writeIndex := write
          imageDue := ru.imageDue || decide (kindCode q.report = 1 ∨ kindCode q.report = 2)
          flags := if high then ru.flags ||| Flag.ringHigh.set else ru.flags
          latch := ru.latch || (high && ru.enables.getLsbD Flag.ringHigh.code) }) := by
  have capacity : capacityOf ru = g.capacity := by rw [capacityOf, ring]; rfl
  rw [finishRecord, queue]
  simp only [← positions_eq, ← isOutcome_eq]
  rw [← capacity]
  exact judgeRingHigh_eq _

/-- LAY_RECORD, out of reset and with nothing left over (R161). -/
theorem layRecord_row {s : State} (h : ready s = true) : exec .layRecord s = .next (layRecord s) := running_of_ready _ h

/-- OWN_WRITE_OFFER with room in the own-write queue (R14). -/
theorem ownWriteOffer_row {s : State} {u : UnitInProgress} {b : Burst} {rest : List Burst} (h : ready s = true)
    (hu : s.ru.current = some u) (hb : u.bursts = b :: rest) (room : s.mp.ownQueue.length < 8) :
    exec .ownWriteOffer s = .next { s with mp := pushOwn b s.mp, ru := burstTaken u rest s.ru } :=
  (running_of_ready offerOwnWrite h).trans (congrArg _ (offerOwnWrite_room hu hb room))

/-- A LOST record's burst moves the write index on by itself (log 20). -/
theorem burstTaken_lost {b : List Burst} {rest : List Burst} {n : BitVec 32} {ru : Reports} {g : Geometry}
    (ring : ru.geometry = some g) : burstTaken ⟨false, b, some n⟩ rest ru
      = { ru with current := some ⟨false, rest, none⟩, writeIndex := (ru.writeIndex + 1) % g.capacity } := by
  simp [burstTaken, moveWrite, capacityOf, ring]

/-- The last burst of a record ends it (R161). -/
theorem burstTaken_last (b : List Burst) (ru : Reports) : burstTaken ⟨false, b, none⟩ [] ru = finishRecord ru := rfl

end Sys2Proof.Machine

open Sys2Proof Sys2Proof.Machine in
/-- Settles O53: the head record is laid or dropped by the room in the ring, and its bursts are those of `laidBursts`. -/
theorem recordsLaid : Obligations.RecordsLaid := by
  refine ⟨fun s q rest ready_ idle noImage queue => ?_, fun s ready_ waits => ?_, ?_, ?_, fun r => by cases r <;> rfl,
    fun c => by cases c <;> decide, fun c => by cases c <;> decide, fun o => by cases o <;> decide,
    fun o => by cases o <;> decide, fun o => by cases o <;> decide, fun r => by cases r <;> decide,
    fun r => by cases r <;> decide, fun c => by cases c <;> decide⟩
  · intro k lost count dropped
    have drops : { s with ru := dropReport q.report { s.ru with queue := rest } } = dropped :=
      congrArg (fun ru => { s with ru := ru }) (dropReport_eq q.report _)
    refine ⟨fun unringed => ?_, fun g ring => ?_⟩
    · rw [layRecord_row ready_, layRecord_unringed idle queue unringed, drops]
    · have room := hasRingRoom_iff ring q.report
      rw [positions_eq] at room
      rw [layRecord_row ready_, layRecord_ring idle noImage queue ring]
      refine ⟨fun full => ?_, fun free => ⟨laidBursts g s.tb.time q s.ru, ?_, ?_, fun i b at_ => laidBursts_holds at_⟩⟩
      · have noRoom : ¬ hasRingRoom q.report s.ru = true := fun r => Nat.not_lt.mpr full (room.mp r)
        rw [if_neg noRoom, drops]
      · rw [if_pos (room.mpr free), layHead_eq]
        rfl
      · rw [laidBursts_length, positions_eq]
        rfl
  · rw [layRecord_row ready_, layRecord_waits waits]
  · intro s b q rest g ready_ current queue ring room write high
    rw [ownWriteOffer_row ready_ current rfl room, burstTaken_last, finishRecord_eq queue ring]
    rfl
  · intro s b rest n g ready_ current ring room
    rw [ownWriteOffer_row ready_ current rfl room, burstTaken_lost ring]
    rfl
end

section
set_option Elab.async false

namespace Sys2Proof.Machine

/-! ### The fields of the image (R169, R176) -/

/-- Fields are the table of their own places and values. -/
theorem packFields_eq (fs : List Field) : packFields fs = packTable (fs.map fun f => (f.at_, f.bytes, (f.value : Int))) := by
  induction fs with
  | nil => simp
  | cons f fs ih => simp [ih]

/-- The state codes of the segments (R169). -/
theorem packFields_segments (table : List Segment) :
    packFields ((List.range 64).map fun k => ⟨0x040 + k, 1, segmentCode table k⟩)
      = packTable ((List.range 64).map fun k =>
          ((0x040 + k, 1, (((table[k]?.map (·.state.code)).getD 0 : Nat) : Int)) : LaidField)) := by
  rw [packFields_eq, List.map_map]
  rfl

/-- The counts of blocked accesses (R169). -/
theorem packFields_blocked (blocked : Vector (BitVec 32) 9) :
    packFields (blocked.toList.zipIdx.map fun p => ⟨0x080 + 4 * p.2, 4, p.1.toNat⟩)
      = packTable ((List.range 9).map fun k => ((0x080 + 4 * k, 4, ((blocked[k]?.getD 0).toNat : Int)) : LaidField)) := by
  have counts : blocked.toList.zipIdx = (List.range 9).map fun k => (blocked[k]?.getD 0, k) := by
    refine List.ext_getElem (by simp) fun i h h' => ?_
    have : i < 9 := by simpa using h
    simp [this]
  rw [packFields_eq, counts, List.map_map, List.map_map]
  rfl

/-- The fields that the part lays for the image are those of the table of R176. -/
theorem packFields_image (s : State) (running : Option Int) (generation : BitVec 32) :
    packFields (imageFields s running generation) = packTable (imageTable s running generation) := by
  simp only [imageFields, imageTable, packFields_append, packTable_append, packFields_segments, packFields_blocked]
  generalize packTable (List.map _ (List.range 64)) = segments
  generalize packTable (List.map _ (List.range 9)) = blocked
  cases s.ru.lastRefusal with
  | none =>
    simp only [openId, packFields_cons, packFields_nil, packTable_cons, packTable_nil, bit_cast, atPlace_id, atPlace_level,
      Option.map_none, Option.getD_none, Nat.cast_zero, atPlace_zero, add_zero]
    ac_rfl
  | some r =>
    simp only [openId, packFields_cons, packFields_nil, packTable_cons, packTable_nil, bit_cast, atPlace_id, atPlace_level,
      Option.map_some, Option.getD_some, add_zero]
    ac_rfl

/-! ### The places of the image's entries (R176) -/

/-- A row of cells of one width. -/
theorem cells_fit (first width n : Nat) (value : Nat → Int) :
    FitIn first (first + width * n) ((List.range n).map fun k => (first + width * k, width, value k)) := by
  refine ⟨List.pairwise_map.mpr (List.pairwise_lt_range.imp fun {j k} lt => Or.inl ?_), fun x mem => ?_⟩
  · have := Nat.mul_le_mul_left width (Nat.succ_le_of_lt lt)
    simp only [Nat.mul_succ] at this
    simpa [Nat.add_assoc] using this
  · obtain ⟨k, lt, rfl⟩ := List.mem_map.mp mem
    have := Nat.mul_le_mul_left width (Nat.succ_le_of_lt (List.mem_range.mp lt))
    simp only [Nat.mul_succ] at this
    exact ⟨Nat.le_add_right .., by dsimp only; omega⟩

/-- The entries of the image lie in its 256 bytes and share none (R176). -/
theorem imageTable_fits (s : State) (running : Option Int) (generation : BitVec 32) :
    FitIn 0 256 (imageTable s running generation) := by
  unfold imageTable
  rw [List.append_assoc]
  have segments := cells_fit 0x040 1 64 fun k => (((s.rc.table[k]?.map (·.state.code)).getD 0 : Nat) : Int)
  simp only [Nat.one_mul] at segments
  refine FitIn.around (fitIn_of_check rfl)
    (segments.append (cells_fit 0x080 4 9 fun k => ((s.mp.blocked[k]?.getD 0).toNat : Int)) (by decide) (by decide))
    (by decide) (by decide) ?_
  simp

/-! ### The bursts of the image (R171) -/

/-- The bursts of an image are its beats in order (R171). -/
theorem imageBursts_beats (base : Nat) {beats : List Beat} (length : beats.length = 32) :
    (imageBursts base beats).flatMap (·.beats) = beats := by
  have join (p n : Nat) : (beats.drop p).take n ++ beats.drop (p + n) = beats.drop p := by
    rw [← List.drop_drop, List.take_append_drop]
  have last : (beats.drop 31).take 1 = beats.drop 31 := List.take_of_length_le (by simp [length])
  calc (imageBursts base beats).flatMap (·.beats)
      = (beats.drop 0).take 1 ++ ((beats.drop 1).take 8 ++ ((beats.drop 9).take 8 ++ ((beats.drop 17).take 8
          ++ ((beats.drop 25).take 6 ++ (beats.drop 31).take 1)))) := by simp [imageBursts]
    _ = beats := by rw [last, join 25 6, join 17 8, join 9 8, join 1 8, join 0 1, List.drop_zero]

theorem imageBursts_lengths (base : Nat) {beats : List Beat} (length : beats.length = 32) :
    (imageBursts base beats).map (·.beats.length) = [1, 8, 8, 8, 6, 1] := by
  simp [imageBursts, length]

/-- The 32 beats of the image hold its table (R173, R176). -/
theorem imageBeats_holds (s : State) (generation : BitVec 32) :
    HoldsFields (imageBeats s generation) (imageTable s (runningValue s) generation) := by
  obtain ⟨apart, inside⟩ := imageTable_fits s (runningValue s) generation
  rw [imageBeats, packFields_image]
  exact holdsFields_beatsOf apart fun x mem => (inside x mem).2

/-! ### Composing the image, and its ticks (R170, R171) -/

section

variable {s : State}

theorem statusImageCompose_row (h : ready s = true) : exec .statusImageCompose s = .next (composeImage s) :=
  running_of_ready _ h

/-- An owed image with a REPORT window and no unit in progress is composed (R161, R171). -/
theorem composeImage_owed {g : Geometry} (idle : s.ru.current = none) (ring : s.ru.geometry = some g)
    (due : s.ru.imageDue = true) : composeImage s = { s with ru := { s.ru with
      imageGeneration := s.ru.imageGeneration + 1, imageDue := false, imageTicks := 0
      current := some ⟨true, imageBursts g.base (imageBeats s (s.ru.imageGeneration + 1)), none⟩ } } := by
  simp only [composeImage, idle, ring]
  exact if_pos due

/-- Otherwise none is composed (R161). -/
theorem composeImage_waits (waits : s.ru.current ≠ none ∨ s.ru.geometry = none ∨ s.ru.imageDue = false) :
    composeImage s = s := by
  unfold composeImage
  split
  · rename_i idle ring
    have off : s.ru.imageDue = false := by simpa [idle, ring] using waits
    simp [off]
  · rfl

/-- IMAGE_DUE takes the tick that the report unit is owed (R170). -/
theorem imageDue_row (h : ready s = true) (owed : s.tb.owed.ru = true) : exec .imageDue s
    = .next { s with tb := { s.tb with owed := { s.tb.owed with ru := false } }, ru := reportTick s.ru } :=
  (running_of_ready _ h).trans (congrArg _ (if_pos owed))

/-- The hundredth tick makes an image due (R170). -/
theorem reportTick_hundredth {ru : Reports} (last : ru.imageTicks + 1 = 100) :
    reportTick ru = { ru with imageTicks := 0, imageDue := true } := if_pos (by simp [imageReaches, last])

end

end Sys2Proof.Machine

open Sys2Proof Sys2Proof.Machine in
/-- Settles O54: the image is the beats of its table, cut into the six bursts of R171. -/
theorem statusImages : Obligations.StatusImages := by
  refine ⟨fun s g ready_ idle ring due => ?_, fun s b ready_ current room => ?_, fun s waits ready_ => ?_,
    fun s ready_ none => ?_, fun s ready_ owed => ⟨fun short => ?_, fun last => ?_⟩, fun m => by cases m <;> decide,
    fun e => by cases e <;> decide, fun b => by cases b <;> decide, fun g => by cases g <;> decide, rfl, rfl, rfl, rfl, rfl,
    fun r => by cases r <;> decide⟩
  · intro generation
    have length : (imageBeats s generation).length = 32 := beatsOf_length ..
    refine ⟨imageBursts g.base (imageBeats s generation), ?_, rfl, imageBursts_lengths _ length, ?_⟩
    · rw [statusImageCompose_row ready_, composeImage_owed idle ring due]
    · rw [imageBursts_beats _ length]
      exact imageBeats_holds s generation
  · rw [ownWriteOffer_row ready_ current rfl room]
    rfl
  · rw [statusImageCompose_row ready_, composeImage_waits waits]
  · exact (running_of_ready takeReportTick ready_).trans (congrArg _ (if_neg (by simp [none])))
  · rw [imageDue_row ready_ owed, reportTick_counts (by simpa [imageReaches] using short)]
  · rw [imageDue_row ready_ owed, reportTick_hundredth last]
end

section
set_option Elab.async false

namespace Sys2Proof.Machine

/-! ### A step by the queue it finds (log 1) -/

/-- The row at the front leaves the queue before it is carried out. -/
theorem step_of_pending_cons {s : State} {c : Instr} {rest : List Instr} (front : s.pending = c :: rest) :
    step s = exec c { s with pending := rest } := by
  unfold step
  rw [front]

theorem step_of_pending_nil {s : State} (empty : s.pending = []) : step s = .next s := by
  unfold step
  rw [empty]

end Sys2Proof.Machine

open Sys2Proof Sys2Proof.Machine in
/-- Settles O1, by whether a row waits in the queue. -/
theorem stepTakesTheFrontRow : Obligations.StepTakesTheFrontRow :=
  ⟨fun c rest s => step_of_pending_cons (s := { s with pending := c :: rest }) rfl, fun _ => step_of_pending_nil⟩
end
